-- ==== Sys2Proof/Word.lean ====
section
/-!
DEFINITION. The word types of the AMY-6 (ISA edition 1.0) and their plainest arithmetic.
Bit 0 is the least significant bit everywhere (spec/00_scope.md, Conventions).
-/
namespace Sys2Proof

/-- A general register, an address while it is computed, a special register (R56, R72). -/
abbrev Word := BitVec 64
/-- One byte of memory. -/
abbrev Byte := BitVec 8
/-- One halfword of an instruction chain (R25). -/
abbrev Half := BitVec 16
/-- One vector register: 64 bytes, byte 0 lowest (R118). -/
abbrev Vec := BitVec 512
/-- An FP32 bit pattern. -/
abbrev F32 := BitVec 32

/-- `x` as an address in a list of memory cells. -/
abbrev Word.addr (x : Word) : Nat := x.toNat

end Sys2Proof
end

