-- ==== Sys2Proof/Syntax.lean ====
section
/-!
DEFINITION. The abstract syntax: one constructor of `Instr` for each row of spec/opcode_table.json.
Rows with an encoding take their chain (prefixes and guard) first and then their operands, already widened by XR and
XI (R28, R29). Rows without an encoding are events of engines and of the outside world; they are never decoded and are
executed when the step picks them from the state's pending events (notes/assumptions/3.md).
-/
namespace Sys2Proof

/-- A register named by field a or b with its XR bits: g0-g127 (R29). -/
abbrev Reg := BitVec 7
/-- A register named by XR[5:0]: g0-g63 (R29). -/
abbrev RegC := BitVec 6
/-- A vector register v0-v15 (R117). -/
abbrev VReg := BitVec 4
/-- A tile t0-t3 (R328). -/
abbrev Tile := BitVec 2
/-- The M field of a compare: [3:0] destination, [4] accumulate (R32, R81). -/
abbrev PredDest := BitVec 5

/-- The prefixes of a chain apart from the bits that widen operands (R28 to R33). -/
structure Chain where
  /-- XQ[9:6], the guard predicate; 0 without XQ (R31). -/
  guard : BitVec 4
  /-- XQ[5], the guard's inversion; false without XQ (R31). -/
  inv : Bool
  /-- The chain carries an XQ. -/
  hasXQ : Bool
  /-- The chain carries an XR. -/
  hasXR : Bool
  /-- The number of XI prefixes, 0 to 3 (R28). -/
  nxi : BitVec 2
deriving DecidableEq, Repr, Inhabited

/-- The memory class M[4:3] (R32). -/
inductive Cls where
  | plain | ordered | volatile
deriving DecidableEq, Repr

/-- A scope M[2:0] (R32, R197). -/
inductive Scope where
  | core | cluster | device | system | fabric
deriving DecidableEq, Repr

/-- The M field of a memory instruction (R32). -/
structure MemMode where
  cls : Cls
  scope : Scope
deriving DecidableEq, Repr

/-- Whom a notification record concerns (R227, R228). -/
inductive Target where
  /-- The thread in a slot, by SLOTID. -/
  | slot (id : Nat)
  /-- A member of a gang, wherever its gang stands (R235). -/
  | member (gang rank : Nat)
  /-- A spilled gang (UNPLACEABLE, R238). -/
  | gang (id : Nat)
  /-- A queued task that can never fit (R416): its cluster, tenant and task VA. -/
  | task (cluster tenant va : Nat)
  /-- Nothing to act on (kinds 2 and 4). -/
  | none
deriving DecidableEq, Repr

/-- A notification record still to be written (R227). -/
structure Note where
  ctx : Nat
  kind : BitVec 8
  cause : BitVec 8
  rank : BitVec 11
  taskid : BitVec 64
  trappc : BitVec 64
  trapval : BitVec 64
  aux : BitVec 32
  len : BitVec 4
  savearea : BitVec 64
  /-- What the device writes at 0x38 first: the handler's chain of a TRAPNEST (R224). -/
  newpc : BitVec 64
  target : Target
  launch : Nat
  /-- The supervisor block in which its writing has begun (R491). -/
  block : Option Nat := Option.none
deriving DecidableEq, Repr

/-- Why a gang is spilled (R233), with what it then waits for. -/
inductive SpillWhy where
  /-- A page fault of a member: the gang waits on the future entry (R230). -/
  | future (idx : Nat)
  /-- A page fault with no free future entry (R232). -/
  | anyFuture
  /-- A page fault whose future has completed before the spill ended: the gang is queued for restore at once (R231). -/
  | ready
  /-- Pre-emption by the Headgate, or the Headgate acting for the supervisor (R233). -/
  | preempt
deriving DecidableEq, Repr

/-- What the completion of a host request reports (R434, R435). -/
inductive Answer where
  | ok
  /-- Unsupported Request or Completer Abort. -/
  | unsupported
  /-- Another error status. -/
  | error
deriving DecidableEq, Repr

/-- A stamped store on its way to its home (R254): one grain of it. -/
structure StampedStore where
  /-- Home address of the grain and its size in bytes. -/
  grain : Nat
  size : Nat
  /-- BASESTAMP of the region entry that governs the page (R242). -/
  base : BitVec 32
  stamp : BitVec 32
  /-- Home address of the first byte written, how many, and the bytes, lowest first. -/
  addr : Nat
  len : Nat
  data : BitVec 512
deriving DecidableEq, Repr

/-- The operations of read-modify-writes at a home (R288 to R290). -/
inductive RmwOp where
  | lr | sc | add | and | or | xor | min | max | swp | cas | casx
deriving DecidableEq, Repr

/-- A coherence grain, by its home address and its size in bytes (R170). -/
structure GrainRef where
  addr : Nat
  size : Nat
deriving DecidableEq, Repr

/-- A read-modify-write at its home (R270). -/
structure RmwReq where
  op : RmwOp
  /-- SLOTID of the holder, for LR and SC (R275). -/
  holder : Nat
  addr : Nat
  /-- The operand (new value), low doubleword first; the expected value. -/
  x : BitVec 128
  e : BitVec 128
deriving DecidableEq, Repr

/-- An update on its way to its home (R274). -/
structure RupdReq where
  fn : BitVec 3
  addr : Nat
  x : BitVec 64
  /-- The exponent q of function 0 (R109). -/
  q : Int
  /-- Address of doubleword 0 of the region entry whose OVF bit a saturation sets (R154); none for a cell at a peer. -/
  ovf : Option Nat
  /-- Launch slot whose message counts it belongs to (R420). -/
  launch : Nat
  /-- The SLOTID of the thread that issued it, whose releases and END wait for it (R291); 2^19 for a peer. -/
  slot : Nat
deriving DecidableEq, Repr

/-- A rill on its way to a slice core (R292). -/
structure RillSeed where
  die : Nat
  slice : Nat
  spawner : Nat
  pc : BitVec 64
  g1 : BitVec 64
  g2 : BitVec 64
  sup : Bool
  ctx : Nat
  tenant : Nat
  task : BitVec 64
  graphno : BitVec 32
  rank : BitVec 11
  launch : Nat
deriving DecidableEq, Repr

/-- A host port (R428). -/
inductive Port where
  | a | b
deriving DecidableEq, Repr

/-- How the host names the bytes it accesses (R430). -/
inductive HostSpace where
  /-- CXL.mem: an offset from HDMBASE. -/
  | hdm
  /-- BAR 0: the locator block. -/
  | bar0
  /-- BAR 2: launch window, island mailbox, control page. -/
  | bar2
  /-- The host's own memory (homes 1 and 2), which the host reads and writes itself. -/
  | own
deriving DecidableEq, Repr

/-- One access of a host agent (R196, R430): 1 to 16 bytes. -/
structure HostOp where
  port : Port
  space : HostSpace
  addr : Nat
  write : Bool
  width : Nat
  data : BitVec 128
  /-- A compare-and-swap of a write: it stores only while the bytes hold this value (R451). -/
  expect : Option (BitVec 128)
deriving DecidableEq, Repr

/-- What a peer asks of this device's memory (R437, R438). -/
inductive PeerWhat where
  | load (width : Nat)
  | store (width : Nat) (data : BitVec 128)
  | rmw (op : RmwOp) (x e : BitVec 128)
  | rupd (fn : BitVec 3) (x : BitVec 64)
deriving DecidableEq, Repr

/-- A message from a peer (R436 to R438). -/
structure PeerReq where
  src : BitVec 12
  srcInc : BitVec 8
  dstInc : BitVec 8
  /-- The exporting context named by the export entry. -/
  ctx : Nat
  /-- Address in this device's memory: remote page number and offset. -/
  addr : Nat
  what : PeerWhat
deriving DecidableEq, Repr

/-- A unit that self-test judges (R478). -/
inductive TestUnit where
  /-- Register row `row` of core `core`. -/
  | row (core row : Nat)
  /-- Vector entry of a core. -/
  | vec (core entry : Nat)
  /-- One way of one set of an L1 or instruction cache of a core, or of the L2 of a slice. -/
  | way (unit set way : Nat)
  /-- A cistern line of a core. -/
  | line (core line : Nat)
  /-- An HBM bank. -/
  | bank (die bank : Nat)
  /-- A lane of a network or link. -/
  | lane (link lane : Nat)
  | core (core : Nat)
  /-- The matrix unit of a cluster. -/
  | matrix (cluster : Nat)
deriving DecidableEq, Repr, Inhabited

/-- What firmware sets through the management path (R401, R428, R434 to R438, R443, R475). -/
inductive MgmtWrite where
  | clupart (cluster : Nat) (part : BitVec 4)
  | tencfg (tenant : Nat) (value : BitVec 64)
  | group (num : Nat) (dw0 dw1 : BitVec 64)
  | portMode (port : Port) (pcie : Bool)
  | atomicEnable (port : Port) (on : Bool)
  | self (num : BitVec 12) (inc : BitVec 8)
  /-- An export entry for a context of a peer, with the context of this device whose tables translate the range (R438). -/
  | exportAdd (peer : BitVec 12) (inc : BitVec 8) (ctx tables lo hi : Nat) (rd wr : Bool)
  | exportRemove (peer : BitVec 12) (ctx : Nat)
  | grant (peer : BitVec 12) (ctx lo hi : Nat) (rd wr : Bool)
  | revoke (peer : BitVec 12) (ctx : Nat)
  | place (lwin mbox ctrl : Nat) (hdmA hdmB : Nat)
  | auditRing (base entries : Nat)
  /-- Completions on a port, or answers of a peer, arrive at once or later (model; R434, R435, R441). -/
  | portAnswers (port : Port) (on : Bool)
  | peerAnswers (peer : BitVec 12) (on : Bool)
  /-- The island is asked for the certificate of the device identity key (R473). -/
  | certificate
  /-- Firmware reads a port's log of lost posted writes (R481). -/
  | errorLog (port : Port)
  | bootDone
deriving DecidableEq, Repr


/-- The instructions and events of spec/opcode_table.json. An instruction carries its chain first. -/
inductive Instr where
  /-- UDF (R45). Traps ILLEGAL in every case, delivering its halfword in TRAPVAL. -/
  | udf (c : Chain) (n : BitVec 10) (xr : BitVec 10) (m : BitVec 5) (xis : List (BitVec 10))
  /-- NOP (R46). Does nothing for one turn. -/
  | nop (c : Chain)
  /-- MOV (R78). Copies gb into ga. -/
  | mov (c : Chain) (a b : Reg)
  /-- MOVI (R78). Writes a sign-extended immediate into ga. -/
  | movi (c : Chain) (a : Reg) (imm : Word)
  /-- ADD (R78). Adds two registers mod 2^64. -/
  | add (c : Chain) (a b : Reg) (k : RegC)
  /-- SUB (R78). Subtracts two registers mod 2^64. -/
  | sub (c : Chain) (a b : Reg) (k : RegC)
  /-- ADDI (R78). Adds a signed immediate to ga. -/
  | addi (c : Chain) (a : Reg) (imm : Word)
  /-- MUL (R78). Writes the low 64 bits of a product. -/
  | mul (c : Chain) (a b : Reg) (k : RegC)
  /-- MULH (R78). Writes the high 64 bits of the signed 128-bit product. -/
  | mulh (c : Chain) (a b : Reg) (k : RegC)
  /-- MULHU (R78). Writes the high 64 bits of the unsigned 128-bit product. -/
  | mulhu (c : Chain) (a b : Reg) (k : RegC)
  /-- DIV (R79). Signed quotient rounded toward zero, never trapping. -/
  | div (c : Chain) (a b : Reg) (k : RegC)
  /-- DIVU (R79). Unsigned quotient, never trapping. -/
  | divu (c : Chain) (a b : Reg) (k : RegC)
  /-- REM (R79). Signed remainder with the sign of the dividend. -/
  | rem (c : Chain) (a b : Reg) (k : RegC)
  /-- REMU (R79). Unsigned remainder. -/
  | remu (c : Chain) (a b : Reg) (k : RegC)
  /-- AND (R78). Bitwise AND of two registers. -/
  | and (c : Chain) (a b : Reg) (k : RegC)
  /-- OR (R78). Bitwise OR of two registers. -/
  | or (c : Chain) (a b : Reg) (k : RegC)
  /-- XOR (R78). Bitwise XOR of two registers. -/
  | xor (c : Chain) (a b : Reg) (k : RegC)
  /-- ANDI (R78). AND with a zero-extended immediate. -/
  | andi (c : Chain) (a : Reg) (imm : Word)
  /-- ORI (R78). OR with a zero-extended immediate. -/
  | ori (c : Chain) (a : Reg) (imm : Word)
  /-- XORI (R78). XOR with a zero-extended immediate. -/
  | xori (c : Chain) (a : Reg) (imm : Word)
  /-- SHL (R80). Shifts left by a register amount mod 64. -/
  | shl (c : Chain) (a b : Reg) (k : RegC)
  /-- SHR (R80). Logical shift right by a register amount mod 64. -/
  | shr (c : Chain) (a b : Reg) (k : RegC)
  /-- SAR (R80). Arithmetic shift right by a register amount mod 64. -/
  | sar (c : Chain) (a b : Reg) (k : RegC)
  /-- SHLI (R78). Shifts left by an immediate amount. -/
  | shli (c : Chain) (a : Reg) (imm : Word)
  /-- SHRI (R78). Logical shift right by an immediate amount. -/
  | shri (c : Chain) (a : Reg) (imm : Word)
  /-- SARI (R78). Arithmetic shift right by an immediate amount. -/
  | sari (c : Chain) (a : Reg) (imm : Word)
  /-- CLZ (R78). Counts leading zero bits of gb. -/
  | clz (c : Chain) (a b : Reg)
  /-- POPC (R78). Counts one bits of gb. -/
  | popc (c : Chain) (a b : Reg)
  /-- MIN (R78). Signed minimum of two registers. -/
  | min (c : Chain) (a b : Reg) (k : RegC)
  /-- MAX (R78). Signed maximum of two registers. -/
  | max (c : Chain) (a b : Reg) (k : RegC)
  /-- CEQ (R81). Writes equality of two registers to a predicate. -/
  | ceq (c : Chain) (a b : Reg) (d : PredDest)
  /-- CNE (R81). Writes inequality of two registers to a predicate. -/
  | cne (c : Chain) (a b : Reg) (d : PredDest)
  /-- CLT (R81). Writes signed less-than to a predicate. -/
  | clt (c : Chain) (a b : Reg) (d : PredDest)
  /-- CLE (R81). Writes signed less-or-equal to a predicate. -/
  | cle (c : Chain) (a b : Reg) (d : PredDest)
  /-- CLTU (R81). Writes unsigned less-than to a predicate. -/
  | cltu (c : Chain) (a b : Reg) (d : PredDest)
  /-- CLEU (R81). Writes unsigned less-or-equal to a predicate. -/
  | cleu (c : Chain) (a b : Reg) (d : PredDest)
  /-- CEQI (R81). Writes equality of a register and an immediate to a predicate. -/
  | ceqi (c : Chain) (a : Reg) (imm : Word) (d : PredDest)
  /-- PRD (R82). Copies the predicate word into ga. -/
  | prd (c : Chain) (a : Reg)
  /-- PWR (R82). Writes p1-p15 from ga. -/
  | pwr (c : Chain) (a : Reg)
  /-- BR (R84). Branches by a signed halfword offset. -/
  | br (c : Chain) (off : Word)
  /-- BL (R85). Branches and writes the successor address to ga. -/
  | bl (c : Chain) (a : Reg) (off : Word)
  /-- JR (R86). Jumps to gb and writes the link to ga. -/
  | jr (c : Chain) (a b : Reg)
  /-- LOOP (R87). Decrements the counter and branches while it is not zero. -/
  | loop (c : Chain) (a : Reg) (off : Word)
  /-- END (R92). Puts the slot in Draining and starts the drain of the thread. -/
  | endThread (c : Chain)
  /-- LDB (R162). Loads a byte, zero-extended. -/
  | ldb (c : Chain) (a b : Reg) (off : Word) (mm : MemMode)
  /-- LDH (R162). Loads a halfword, zero-extended. -/
  | ldh (c : Chain) (a b : Reg) (off : Word) (mm : MemMode)
  /-- LDW (R162). Loads a word, zero-extended. -/
  | ldw (c : Chain) (a b : Reg) (off : Word) (mm : MemMode)
  /-- LDD (R162). Loads a doubleword. -/
  | ldd (c : Chain) (a b : Reg) (off : Word) (mm : MemMode)
  /-- SEXT_B (R83). Sign-extends the low byte of gb into ga. -/
  | sextB (c : Chain) (a b : Reg)
  /-- SEXT_H (R83). Sign-extends the low halfword of gb into ga. -/
  | sextH (c : Chain) (a b : Reg)
  /-- SEXT_W (R83). Sign-extends the low word of gb into ga. -/
  | sextW (c : Chain) (a b : Reg)
  /-- STB (R162). Stores a byte. -/
  | stb (c : Chain) (a b : Reg) (off : Word) (mm : MemMode)
  /-- STH (R162). Stores a halfword. -/
  | sth (c : Chain) (a b : Reg) (off : Word) (mm : MemMode)
  /-- STW (R162). Stores a word. -/
  | stw (c : Chain) (a b : Reg) (off : Word) (mm : MemMode)
  /-- STD (R162). Stores a doubleword. -/
  | std (c : Chain) (a b : Reg) (off : Word) (mm : MemMode)
  /-- MFS (R88). Reads a special register into ga. -/
  | mfs (c : Chain) (a : Reg) (sr : BitVec 5)
  /-- MTS (R89). Writes ga into a special register. -/
  | mts (c : Chain) (a : Reg) (sr : BitVec 5)
  /-- TRAP (R239). Raises a software trap with TRAPVAL n. -/
  | trap (c : Chain) (n : BitVec 10)
  /-- FENCE_FULL (R218). Orders every earlier access before every later one at the scope. -/
  | fenceFull (c : Chain) (s : Scope)
  /-- FENCE_ACQ (R218). Orders every earlier read before every later access. -/
  | fenceAcq (c : Chain) (s : Scope)
  /-- FENCE_REL (R218). Orders every earlier access before every later write. -/
  | fenceRel (c : Chain) (s : Scope)
  /-- FENCE_IFETCH (R219). Acts as a release fence and then invalidates the instruction caches of the domain. -/
  | fenceIfetch (c : Chain) (s : Scope)
  /-- WAITR (R293). Parks until the reservation is lost, a spurious cause or a timeout. -/
  | waitr (c : Chain) (a : Reg)
  /-- MULI (R78). Multiplies ga by a signed immediate. -/
  | muli (c : Chain) (a : Reg) (imm : Word)
  /-- GBAR (R90). Arrives at the gang's barrier episode and parks. -/
  | gbar (c : Chain)
  /-- FADD (R123). FP32 addition. -/
  | fadd (c : Chain) (a b : Reg) (k : RegC)
  /-- FSUB (R123). FP32 subtraction. -/
  | fsub (c : Chain) (a b : Reg) (k : RegC)
  /-- FMUL (R123). FP32 multiplication. -/
  | fmul (c : Chain) (a b : Reg) (k : RegC)
  /-- FFMA (R124). FP32 fused multiply-add with one rounding. -/
  | ffma (c : Chain) (a b : Reg) (k : RegC)
  /-- FDIV (R123). FP32 division. -/
  | fdiv (c : Chain) (a b : Reg) (k : RegC)
  /-- FSQRT (R123). FP32 square root. -/
  | fsqrt (c : Chain) (a b : Reg)
  /-- FMIN (R123). FP32 minimum under the minimum rule. -/
  | fmin (c : Chain) (a b : Reg) (k : RegC)
  /-- FMAX (R123). FP32 maximum under the maximum rule. -/
  | fmax (c : Chain) (a b : Reg) (k : RegC)
  /-- FCEQ (R125). Writes FP32 equality to a predicate. -/
  | fceq (c : Chain) (a b : Reg) (d : PredDest)
  /-- FCLT (R125). Writes FP32 less-than to a predicate. -/
  | fclt (c : Chain) (a b : Reg) (d : PredDest)
  /-- FCLE (R125). Writes FP32 less-or-equal to a predicate. -/
  | fcle (c : Chain) (a b : Reg) (d : PredDest)
  /-- FCVTI (R126). Converts FP32 to a signed integer under FPCSR.RM. -/
  | fcvti (c : Chain) (a b : Reg)
  /-- FCVTI_RZ (R126). Converts FP32 to a signed integer rounding toward zero. -/
  | fcvtiRz (c : Chain) (a b : Reg)
  /-- ICVTF (R127). Converts a signed integer to FP32. -/
  | icvtf (c : Chain) (a b : Reg)
  /-- ICVTF_U (R127). Converts an unsigned integer to FP32. -/
  | icvtfU (c : Chain) (a b : Reg)
  /-- VADD (R128). Lane-wise FP32 addition. -/
  | vadd (c : Chain) (a b k : VReg)
  /-- VSUB (R128). Lane-wise FP32 subtraction. -/
  | vsub (c : Chain) (a b k : VReg)
  /-- VMUL (R128). Lane-wise FP32 multiplication. -/
  | vmul (c : Chain) (a b k : VReg)
  /-- VFMA (R128). Lane-wise fused multiply-add. -/
  | vfma (c : Chain) (a b k : VReg)
  /-- VMAX (R128). Lane-wise maximum. -/
  | vmax (c : Chain) (a b k : VReg)
  /-- VMIN (R128). Lane-wise minimum. -/
  | vmin (c : Chain) (a b k : VReg)
  /-- VIADD (R128). Lane-wise 32-bit integer addition. -/
  | viadd (c : Chain) (a b k : VReg)
  /-- VBCAST (R129). Copies a word into every lane. -/
  | vbcast (c : Chain) (a : VReg) (b : Reg)
  /-- VEXTR (R130). Reads one lane into a g register. -/
  | vextr (c : Chain) (a : Reg) (b : VReg) (lane : BitVec 4)
  /-- VINS (R130). Writes one lane from a g register. -/
  | vins (c : Chain) (a : VReg) (b : Reg) (lane : BitVec 4)
  /-- VSUM (R132). Sums sixteen lanes in the fixed tree. -/
  | vsum (c : Chain) (a : Reg) (b : VReg)
  /-- VMAXR (R132). Takes the maximum of sixteen lanes in the fixed tree. -/
  | vmaxr (c : Chain) (a : Reg) (b : VReg)
  /-- VLD (R134). Loads 64 contiguous bytes into a vector register. -/
  | vld (c : Chain) (a : VReg) (b : Reg) (off : Word) (mm : MemMode)
  /-- VST (R134). Stores a vector register to 64 contiguous bytes. -/
  | vst (c : Chain) (a : VReg) (b : Reg) (off : Word) (mm : MemMode)
  /-- VLDX (R136). Gathers sixteen words through lane offsets. -/
  | vldx (c : Chain) (a : VReg) (b : Reg) (k : VReg) (mm : MemMode)
  /-- VSTX (R137). Scatters sixteen words through lane offsets. -/
  | vstx (c : Chain) (a : VReg) (b : Reg) (k : VReg) (mm : MemMode)
  /-- VCVT_BF16_FP32 (R133). Converts each lane from FP32 to BF16. -/
  | vcvtBf16Fp32 (c : Chain) (a b : VReg)
  /-- VCVT_FP32_BF16 (R133). Converts each lane from BF16 to FP32. -/
  | vcvtFp32Bf16 (c : Chain) (a b : VReg)
  /-- VCVT_DL8_FP32 (R133). Quantises each lane from FP32 to DL8 with scale 1.0. -/
  | vcvtDl8Fp32 (c : Chain) (a b : VReg)
  /-- VCVT_FP32_DL8 (R133). Decodes each lane from DL8 to FP32. -/
  | vcvtFp32Dl8 (c : Chain) (a b : VReg)
  /-- VSEL (R131). Merges lanes under a register mask. -/
  | vsel (c : Chain) (a b : VReg) (k : RegC)
  /-- LDAW (R260). Aged load that waits in the weir for an acceptable state. -/
  | ldaw (c : Chain) (a b : Reg) (k : RegC) (off : Word) (lag : BitVec 5)
  /-- LDAT (R260). Aged load that traps STALE instead of waiting. -/
  | ldat (c : Chain) (a b : Reg) (k : RegC) (off : Word) (lag : BitVec 5)
  /-- STA (R262). Stores a word and stamps its grain with ITER. -/
  | sta (c : Chain) (a b : Reg) (off : Word)
  /-- VLDA (R261). Aged load of 64 bytes into a vector register. -/
  | vlda (c : Chain) (a : VReg) (b : Reg) (k : RegC) (off : Word) (lag : BitVec 5)
  /-- VSTA (R262). Stores 64 bytes and stamps each grain covered. -/
  | vsta (c : Chain) (a : VReg) (b : Reg) (off : Word)
  /-- ITADV (R263). Adds n to ITER. -/
  | itadv (c : Chain) (n : BitVec 5)
  /-- DMODE (R372). Fences at device scope and sets the differentiation mode. -/
  | dmode (c : Chain) (n : BitVec 2)
  /-- ADJRD (R373). Reads an element's adjoint cell as FP32. -/
  | adjrd (c : Chain) (a b : Reg) (off : Word) (mm : MemMode)
  /-- ADJWR (R373). Sets an element's adjoint cell from FP32. -/
  | adjwr (c : Chain) (a b : Reg) (off : Word) (mm : MemMode)
  /-- LR (R290). Reads a doubleword at its home and reserves its granule. -/
  | lr (c : Chain) (a b : Reg) (off : Word) (mm : MemMode)
  /-- SC (R290). Stores a doubleword only while the reservation stands. -/
  | sc (c : Chain) (a b : Reg) (k : RegC) (off : Word) (mm : MemMode)
  /-- AADD (R288). Adds to a doubleword at its home and returns the old value. -/
  | aadd (c : Chain) (a b : Reg) (k : RegC) (off : Word) (mm : MemMode)
  /-- AAND (R288). ANDs into a doubleword at its home. -/
  | aand (c : Chain) (a b : Reg) (k : RegC) (off : Word) (mm : MemMode)
  /-- AOR (R288). ORs into a doubleword at its home. -/
  | aor (c : Chain) (a b : Reg) (k : RegC) (off : Word) (mm : MemMode)
  /-- AXOR (R288). XORs into a doubleword at its home. -/
  | axor (c : Chain) (a b : Reg) (k : RegC) (off : Word) (mm : MemMode)
  /-- AMIN (R288). Signed minimum into a doubleword at its home. -/
  | amin (c : Chain) (a b : Reg) (k : RegC) (off : Word) (mm : MemMode)
  /-- AMAX (R288). Signed maximum into a doubleword at its home. -/
  | amax (c : Chain) (a b : Reg) (k : RegC) (off : Word) (mm : MemMode)
  /-- ASWP (R288). Swaps a doubleword at its home. -/
  | aswp (c : Chain) (a b : Reg) (k : RegC) (off : Word) (mm : MemMode)
  /-- CAS (R289). Compares and swaps a doubleword at its home. -/
  | cas (c : Chain) (a b : Reg) (k : RegC) (off : Word) (mm : MemMode)
  /-- CASX (R289). Compares and swaps a 16-byte pair at its home. -/
  | casx (c : Chain) (a b : Reg) (k : RegC) (off : Word) (mm : MemMode)
  /-- RUPD_ADJOINT (R274). Sends an adjoint accumulation (function 0) to an element's shadow cell. -/
  | rupdAdjoint (c : Chain) (a b : Reg) (off : Word) (mm : MemMode)
  /-- RUPD_Q64_ADD (R274). Sends a Q64 add (function 1) to the home. -/
  | rupdQ64Add (c : Chain) (a b : Reg) (off : Word) (mm : MemMode)
  /-- RUPD_FP32_ADD (R274). Sends an FP32 add (function 2) to the home. -/
  | rupdFp32Add (c : Chain) (a b : Reg) (off : Word) (mm : MemMode)
  /-- RUPD_INT_ADD (R274). Sends an integer add (function 3) to the home. -/
  | rupdIntAdd (c : Chain) (a b : Reg) (off : Word) (mm : MemMode)
  /-- RUPD_MIN (R274). Sends a signed minimum (function 4) to the home. -/
  | rupdMin (c : Chain) (a b : Reg) (off : Word) (mm : MemMode)
  /-- RUPD_MAX (R274). Sends a signed maximum (function 5) to the home. -/
  | rupdMax (c : Chain) (a b : Reg) (off : Word) (mm : MemMode)
  /-- RUPD_OR (R274). Sends an OR (function 6) to the home. -/
  | rupdOr (c : Chain) (a b : Reg) (off : Word) (mm : MemMode)
  /-- RUPD_AND (R274). Sends an AND (function 7) to the home. -/
  | rupdAnd (c : Chain) (a b : Reg) (off : Word) (mm : MemMode)
  /-- SPAWN (R292). Releases and sends a rill context to a slice core. -/
  | spawn (c : Chain) (a b : Reg) (k : RegC)
  /-- CPREQ (R317). Hands a copy request to the mailbox. -/
  | cpreq (c : Chain) (a : Reg)
  /-- CPSEAL (R318). Seals the open copy batch. -/
  | cpseal (c : Chain)
  /-- CPWAIT (R319). Parks until few enough batches are unfinished and reports failures. -/
  | cpwait (c : Chain) (n : Word)
  /-- MBGET (R320). Takes the head mailbox request, stalling while the mailbox is empty. -/
  | mbget (c : Chain) (a : BitVec 5)
  /-- MBGET_NW (R320). Takes the head mailbox request or returns at once when empty. -/
  | mbgetNw (c : Chain) (a : BitVec 5)
  /-- XFER (R321). Performs a copy request and writes its cause. -/
  | xfer (c : Chain) (a b : BitVec 5)
  /-- MBPOST (R322). Finishes a copy request, posts its action and retires its scoreboard entry. -/
  | mbpost (c : Chain) (a b : BitVec 5)
  /-- XPUSH (R323). Pushes a slot reference to a matrix-unit queue. -/
  | xpush (c : Chain) (a : BitVec 5) (q d : Bool)
  /-- PFS (R194). Opens or closes a prefetch stream. -/
  | pfs (c : Chain) (a : Reg) (stream : BitVec 4) (cis : Bool)
  /-- PFX (R195). Prefetches one line. -/
  | pfx (c : Chain) (b : Reg) (off : Word) (cis : Bool)
  /-- CWAIT (R325). Parks until a handle holds n filled slots. -/
  | cwait (c : Chain) (h : BitVec 3) (n : Word)
  /-- CFREE (R325). Parks until a handle has n free slots. -/
  | cfree (c : Chain) (h : BitVec 3) (n : Word)
  /-- CADV (R325). Advances a handle's consumer head by n. -/
  | cadv (c : Chain) (h : BitVec 3) (n : Word)
  /-- CPOST (R325). Posts n filled slots to a handle. -/
  | cpost (c : Chain) (h : BitVec 3) (n : Word)
  /-- SMAP (R192). Maps a cistern window onto a VA range. -/
  | smap (c : Chain) (a b : Reg) (w : BitVec 3)
  /-- SUNMAP (R193). Writes a window back and releases it. -/
  | sunmap (c : Chain) (w : BitVec 3)
  /-- SFLUSH (R193). Writes a window's dirty grains back and keeps it. -/
  | sflush (c : Chain) (w : BitVec 3)
  /-- HCFG (R324). Configures a general circular-buffer handle. -/
  | hcfg (c : Chain) (h : BitVec 3) (b : Reg)
  /-- FMTSET (R329). Claims or reconfigures the core's format context. -/
  | fmtset (c : Chain) (cfg : BitVec 5)
  /-- FMTSET_RELEASE (R329). FMTSET #0 clears and frees the held format context. -/
  | fmtsetRelease (c : Chain)
  /-- FMTRD (R347). Reads queue counts and the held configuration. -/
  | fmtrd (c : Chain) (a : Reg)
  /-- MMA (R348). Issues n dense matrix steps into tile d. -/
  | mma (c : Chain) (d : Tile) (n : BitVec 5)
  /-- MMAT (R348). Issues n matrix steps taking A from a tile. -/
  | mmat (c : Chain) (d t : Tile) (n : BitVec 5) (s0 : BitVec 4)
  /-- MMASP (R348). Issues n 2:4 sparse matrix steps. -/
  | mmasp (c : Chain) (d : Tile) (n : BitVec 5)
  /-- TZERO (R349). Sets every element of a tile to +0. -/
  | tzero (c : Chain) (t : Tile)
  /-- TRD (R349). Reads a tile piece into a vector register. -/
  | trd (c : Chain) (a : VReg) (t : Tile) (piece : BitVec 6)
  /-- TWR (R349). Writes a tile piece from a vector register. -/
  | twr (c : Chain) (a : VReg) (t : Tile) (piece : BitVec 6)
  /-- TLD (R350). Loads a tile image from memory. -/
  | tld (c : Chain) (t : Tile) (b : Reg) (off : Word) (f : BitVec 2)
  /-- TST (R350). Stores a tile image to memory. -/
  | tst (c : Chain) (t : Tile) (b : Reg) (off : Word) (f : BitVec 2)
  /-- TSTT (R350). Stores a tile image and its transpose. -/
  | tstt (c : Chain) (t : Tile) (b : Reg) (off : Word) (f : BitVec 2)
  /-- QBLK (R351). Computes the DL8 scale of one tile block. -/
  | qblk (c : Chain) (a : Reg) (t : Tile) (blk : BitVec 4)
  /-- VQNT (R352). Quantises sixteen lanes to DL8 bytes with a scale. -/
  | vqnt (c : Chain) (a b : VReg) (k : RegC) (q : BitVec 2)
  /-- VDQNT (R352). Dequantises sixteen DL8 bytes to FP32 lanes. -/
  | vdqnt (c : Chain) (a b : VReg) (k : RegC) (q : BitVec 2)
  /-- SCPUSH (R353). Pushes a scale to the h10 or h11 FIFO. -/
  | scpush (c : Chain) (a : Reg) (q : Bool)
  /-- RGROW (R354). Revises a 2:4 sparsity mask from weight and score tiles. -/
  | rgrow (c : Chain) (w t : Tile) (b : Reg) (off : Word)
  /-- MSYNC (R355). Stalls until no matrix instruction of the thread is pending. -/
  | msync (c : Chain)
  /-- TQADD (R425). Queues an idle task whose DEP is zero. -/
  | tqadd (c : Chain) (a : Reg)
  /-- DEPADD (R426). Changes a task's dependency counter and may queue it. -/
  | depadd (c : Chain) (a b : Reg)
  /-- CANCEL (R427). Enters a graph instance in the tenant's cancel table and broadcasts the token. -/
  | cancel (c : Chain) (a : Reg)
  /-- CBPUSH (R391). Places or defers one constraint of a Turnout sweep. -/
  | cbpush (c : Chain) (a b : Reg) (k : RegC)
  /-- CBSEAL (R392). Moves a sweep from INPUT to RUN and opens level 1. -/
  | cbseal (c : Chain)
  /-- CBNEXT (R393). Takes a constraint of the open level or returns -1. -/
  | cbnext (c : Chain) (a : Reg)
  /-- CBDONE (R394). Marks a handed-out constraint done. -/
  | cbdone (c : Chain) (a : Reg)
  /-- MCST (R446). Stores a 256-byte line to every peer of a multicast group. -/
  | mcst (c : Chain) (a : VReg) (b : Reg) (k : RegC) (off : Word) (rel : Bool)
  /-- MCWAIT (R447). Waits for all multicast answers and returns the aggregate. -/
  | mcwait (c : Chain) (a : Reg)
  /-- FFENCE (R448). Waits for fabric-scope visibility and stores a flag. -/
  | ffence (c : Chain) (a b : Reg) (off : Word)
  /-- ERET (R240). Returns from a handler to the trapped chain. -/
  | eret (c : Chain)
  /-- ERET_NEXT (R240). Returns from a handler past the trapped chain. -/
  | eretNext (c : Chain)
  /-- SVC (R241). Traps to the context supervisor with n. -/
  | svc (c : Chain) (n : BitVec 10)
  /-- TLBINV_VA (R166). Drops cached translations of one page of the context. -/
  | tlbinvVa (c : Chain) (a : Reg)
  /-- TLBINV_CTX (R166). Drops every cached translation of the context. -/
  | tlbinvCtx (c : Chain)
  /-- TLBINV_REG (R166). Drops every cached copy of one region entry. -/
  | tlbinvReg (c : Chain) (a : Reg)
  /-- NOTIFICATION_RECORD (R227), an event. After the wait and when the ring has room, the device writes a supervisor record and advances HEAD. -/
  | notificationRecord (n : Note)
  /-- SUPERVISOR_ACTION (R228), an event. The Headgate line monitor sees an ACTION write and resumes, redirects or removes the thread. -/
  | supervisorAction (ctx k : Nat)
  /-- FUTURE_COMPLETE (R231), an event. The pager's STATE write is acquired and every waiting gang is queued for restore. -/
  | futureComplete (ctx idx : Nat)
  /-- GANG_SPILL (R234), an event. The spill engine stops, saves and frees every member of a gang. -/
  | gangSpill (gang : Nat) (why : SpillWhy)
  /-- GANG_RESTORE (R237), an event. Once every live member can be placed, the gang's saved state is loaded back. -/
  | gangRestore (gang : Nat)
  /-- THREAD_LOAD_COMPLETE (R52), an event. A slot's thread state is in place and the slot becomes Ready. -/
  | threadLoadComplete (slot : Nat)
  /-- ACCESS_REPLY (R50), an event. Data or an answer for a stalled instruction arrives and completes it. -/
  | accessReply (slot : Nat) (a : Answer)
  /-- END_DRAIN_COMPLETE (R93), an event. The drain of END finishes and the slot becomes Free and cleared. -/
  | endDrainComplete (slot : Nat)
  /-- TLB_WALK_COMPLETE (R148), an event. A page walk finishes and installs its leaf or faults. -/
  | tlbWalkComplete (slot : Nat) (va : Word)
  /-- HOME_REQUEST (R175), an event. A request reaches its home slice and the directory grants, forwards or refuses it. -/
  | homeRequest (core : Nat) (grain : GrainRef) (write : Bool)
  /-- RETRY_TIMER_EXPIRE (R177), an event. A refused request's retry hint elapses and it is sent again. -/
  | retryTimerExpire (core : Nat) (grain : GrainRef)
  /-- FILL_ARRIVE (R174), an event. A fill arrives and is installed or only delivered by its sequence number. -/
  | fillArrive (core grain : Nat)
  /-- INVALIDATION_ARRIVE (R174), an event. An invalidation arrives at a cache or cistern and is acknowledged at once. -/
  | invalidationArrive (cluster grain : Nat)
  /-- INVALIDATION_ACK (R171), an event. A cluster's acknowledgement reaches the directory and ends the grain's transaction. -/
  | invalidationAck (cluster grain : Nat)
  /-- STAMPED_STORE_HOME (R254), an event. A stamped store is accepted or discarded at its home slice. -/
  | stampedStoreHome (r : StampedStore)
  /-- WEIRLIM_EXPIRE (R251), an event. WEIRLIM passes and the entry is withdrawn, trapping STALE unless served first. -/
  | weirlimExpire (slot : Nat)
  /-- RMW_AT_HOME (R271), an event. An update unit performs a read-modify-write in one step at the home. -/
  | rmwAtHome (r : RmwReq)
  /-- RUPD_APPLY (R274), an event. An update unit applies a fire-and-forget update to its cell. -/
  | rupdApply (r : RupdReq)
  /-- LOSS_NOTICE (R276), an event. A reservation loss notice arrives at the holder's core and wakes its WAITR. -/
  | lossNotice (holder rid : Nat)
  /-- WAITR_TIMEOUT (R277), an event. A WAITR's timeout passes and it writes 1. -/
  | waitrTimeout (slot : Nat)
  /-- RILL_ACCEPT (R292), an event. A slice-core slot accepts a spawned rill. -/
  | rillAccept (r : RillSeed)
  /-- RILL_MIGRATE (R282), an event. A rill's context arrives at the home slice's slice core. -/
  | rillMigrate (slot slice : Nat)
  /-- COPY_COMPLETE (R303), an event. Every destination write of a copy is acknowledged and XFER completes. -/
  | copyComplete (slot : Nat) (cause : BitVec 8) (addr : Word)
  /-- MMA_ACCEPT (R336), an event. The matrix unit accepts a waiting matrix instruction and captures its slots and scales. -/
  | mmaAccept (core : Nat)
  /-- MMA_TILE_WRITE (R338), an event. The unit applies a step to the destination tile. -/
  | mmaTileWrite (core : Nat)
  /-- LAUNCH_PARSE (R405), an event. A new SEQ byte in an idle launch slot is parsed and its roots enqueued. -/
  | launchParse (k : Nat)
  /-- LAUNCH_SWEEP (R421), an event. The Headgate sweeps every agent for idleness and message counts. -/
  | launchSweep (k : Nat)
  /-- TASK_ADMIT (R416), an event. A cluster pops a tenant head task and loads its gang. -/
  | taskAdmit (cluster : Nat)
  /-- DEFICIT_CHARGE (R417), an event. Every 65,536 cycles a running task's thread-cycles are charged to its tenant's deficit. -/
  | deficitCharge (gang : Nat)
  /-- RESERVATION_START (R418), an event. A head task waiting 2^16 cycles reserves the clusters it needs. -/
  | reservationStart (cluster tenant : Nat)
  /-- WORK_STEAL (R418), an event. An idle cluster takes an admissible head task from a victim queue. -/
  | workSteal (cluster : Nat)
  /-- CORE_CONTEXT_SCRUB (R422), an event. A core changing context scrubs its caches, cistern, tiles, handles and streams. -/
  | coreContextScrub (core ctx : Nat)
  /-- HOST_SNOOP (R431), an event. A host snoop of home-1 memory invalidates the device's copies. -/
  | hostSnoop (port : Port) (grain : Nat)
  /-- HOST_ACCESS (R432), an event. A host access to device memory is performed at its home slice. -/
  | hostAccess (r : HostOp)
  /-- BACK_INVALIDATION_ANSWER (R432), an event. The host answers a back-invalidation snoop and the waiting device write is performed. -/
  | backInvalidationAnswer (port : Port) (grain : Nat)
  /-- COMPLETION_TIMEOUT (R435), an event. A non-posted host request gets no completion in time and traps REMOTE. -/
  | completionTimeout (slot : Nat)
  /-- LINK_DOWN (R435), an event. A host port's link goes down. -/
  | linkDown (port : Port)
  /-- PEER_REQUEST (R438), an event. An access from a peer is checked against the export table and performed or refused. -/
  | peerRequest (r : PeerReq)
  /-- PEER_STORE_REFUSED (R438), an event. A negative answer to a peer store drops it and writes a kind-4 record. -/
  | peerStoreRefused (slot : Nat) (va : Word) (peer : BitVec 12)
  /-- PEER_TABLE_UPDATE (R441), an event. A peer's incarnation or state changes and its outstanding traffic is failed. -/
  | peerTableUpdate (peer : BitVec 12) (inc : BitVec 8) (up : Bool)
  /-- MCST_ANSWER (R446), an event. An aggregated multicast answer updates the thread's aggregate. -/
  | mcstAnswer (slot : Nat) (pos neg : List Nat)
  /-- COLD_RESET (R484), an event. The device resets, boots its images and starts the Headgate and cores. -/
  | coldReset
  /-- MEASUREMENT_EXTEND (R471), an event. Firmware asks the island to extend a measurement register. -/
  | measurementExtend (die reg : Nat) (digest : BitVec 512)
  /-- ATTESTATION_REQUEST (R474), an event. The device root assembles and signs an attestation report. -/
  | attestationRequest (nonce : Option (BitVec 512))
  /-- AUDIT_APPEND (R475), an event. Firmware appends a kind-7 note to the audit log. -/
  | auditAppend (kind : Nat) (payload : BitVec 384)
  /-- SELF_TEST_VERDICT (R478), an event. A unit's targeted self-test ends and the unit is marked transient or retired. -/
  | selfTestVerdict (u : TestUnit) (pass : Bool)
  /-- CONTEXT_CREATE (R483), an event. Firmware creates a context from a control-page request. -/
  | contextCreate (k : Nat)
  /-- CONTEXT_RELEASE (R483), an event. Firmware ends a context's launches, scrubs its state and frees its number. -/
  | contextRelease (k : Nat)
  /-- SCRUB_COMPLETE (R476), an event. A scrub of a released context completes and is logged. -/
  | scrubComplete (ctx scope num : Nat)
  /-- FREQUENCY_CHANGE (R485), an event. Firmware changes a die's arithmetic clock frequency. -/
  | frequencyChange (die mhz : Nat)
  /-- MANAGEMENT_REGISTER_WRITE (R401), an event. Firmware writes a management-path table such as CLUPART, TENCFG, the export or group table. -/
  | managementRegisterWrite (w : MgmtWrite)
  /-- HOST_LINK_UP (R435), an event. A host port's link comes up again after being down, so accesses of homes 1 and 2 on that port no longer trap REMOTE for a down link. -/
  | hostLinkUp (port : Port)
deriving DecidableEq, Repr

end Sys2Proof
end

