-- ==== Sys2Proof/WellFormed.lean ====
section
/-!
DEFINITION. Which terms of `Instr` some chain of halfwords encodes: the limits of R28 to R36 and of each entry.
Events have no encoding, so none is well formed.
-/
namespace Sys2Proof

/-- `page` needs an XP, and a chain holds at most four prefixes (R30, R33); without XQ the guard is p0, plain (R31). -/
def Chain.form (c : Chain) (page : Nat) : Bool :=
  (c.hasXQ || (c.guard == 0 && !c.inv)) &&
  decide ((if page == 0 then 0 else 1) + c.hasXR.toNat + c.hasXQ.toNat + c.nxi.toNat ≤ 4)

/-- Only an XR names g32 and above in field a or b (R29). -/
def Chain.reg (c : Chain) (r : Reg) : Bool := c.hasXR || decide (r.toNat < 32)
/-- Only an XR names a register c other than g0 (R29). -/
def Chain.regC (c : Chain) (r : RegC) : Bool := c.hasXR || r == 0
/-- Only an XQ gives a non-zero M (R31). -/
def Chain.mod (c : Chain) (m : BitVec 5) : Bool := c.hasXQ || m == 0

/-- The low `n` bits of `v`, sign-extended to 64 bits (R28). -/
def signExt (n : Nat) (v : Word) : Word := (v <<< (64 - n)).sshiftRight (64 - n)
/-- The low `n` bits of `v`, zero-extended. -/
def zeroExt (n : Nat) (v : Word) : Word := (v <<< (64 - n)) >>> (64 - n)
/-- Total width of an immediate with `base` bits in the base word and `k` XI prefixes (R36). -/
def immWidth (k : BitVec 2) (base : Nat) : Nat := base + 10 * k.toNat
/-- `v` is a sign-extended immediate of that width. -/
def fitsS (k : BitVec 2) (base : Nat) (v : Word) : Bool := signExt (immWidth k base) v == v
/-- `v` is a zero-extended immediate of that width. -/
def fitsU (k : BitVec 2) (base : Nat) (v : Word) : Bool := zeroExt (immWidth k base) v == v

/-- M[2:0] of a scope (R32). -/
def Scope.bits : Scope → BitVec 3
  | .core => 0 | .cluster => 1 | .device => 2 | .system => 3 | .fabric => 4
/-- M[4:3] of a class (R32). -/
def Cls.bits : Cls → BitVec 2
  | .plain => 0 | .ordered => 1 | .volatile => 2
/-- The M field of a memory mode (R32). -/
def MemMode.bits (m : MemMode) : BitVec 5 := m.cls.bits ++ m.scope.bits
/-- Class 00 with a scope other than core is ILLEGAL (R32). -/
def MemMode.legal (m : MemMode) : Bool := m.cls != .plain || m.scope == .core
/-- The M field of a FENCE of kind `k` (R217). -/
def fenceBits (k : BitVec 2) (s : Scope) : BitVec 5 := k ++ s.bits
/-- FENCE.ifetch takes scopes core, cluster and device only (R217). -/
def fetchScope (s : Scope) : Bool := s == .core || s == .cluster || s == .device

/-- MTS to a register marked ro traps ILLEGAL (R72, R73). -/
def srWritable (k : BitVec 5) : Bool :=
  !(k == 5 || k == 11 || k == 12 || k == 13 || k == 14 || k == 15 || k == 16 || k == 18)
/-- The configurations that claim a format context (R345); 0 is FMTSET #0, which releases it. -/
def cfgLegal (c : BitVec 5) : Bool := c == 5 || c == 10 || c == 15 || c == 26 || c == 31
/-- CASX pairs start at an even register (R286). -/
def even7 (r : Reg) : Bool := r.extractLsb' 0 1 == 0
/-- As `even7`, for register c. -/
def even6 (r : RegC) : Bool := r.extractLsb' 0 1 == 0


/-- The operands of `i` are ones some chain of halfwords encodes (R28 to R36 and the entry of each instruction). -/
def WellFormed (i : Instr) : Bool :=
  match i with
  | .udf c _ xr m xis => c.form 0 && (c.hasXR || xr == 0) && (c.hasXQ || m == 0) && xis.length == c.nxi.toNat
  | .nop c => c.form 0 && !c.hasXR && c.nxi == 0
  | .mov c a b => c.form 0 && c.reg a && c.reg b && c.nxi == 0
  | .movi c a imm => c.form 0 && c.reg a && fitsS c.nxi 5 imm
  | .add c a b k => c.form 0 && c.reg a && c.reg b && c.nxi == 0 && (c.hasXR || k == 0)
  | .sub c a b k => c.form 0 && c.reg a && c.reg b && c.nxi == 0 && (c.hasXR || k == 0)
  | .addi c a imm => c.form 0 && c.reg a && fitsS c.nxi 5 imm
  | .mul c a b k => c.form 0 && c.reg a && c.reg b && c.nxi == 0 && (c.hasXR || k == 0)
  | .mulh c a b k => c.form 0 && c.reg a && c.reg b && c.nxi == 0 && (c.hasXR || k == 0)
  | .mulhu c a b k => c.form 0 && c.reg a && c.reg b && c.nxi == 0 && (c.hasXR || k == 0)
  | .div c a b k => c.form 0 && c.reg a && c.reg b && c.nxi == 0 && (c.hasXR || k == 0)
  | .divu c a b k => c.form 0 && c.reg a && c.reg b && c.nxi == 0 && (c.hasXR || k == 0)
  | .rem c a b k => c.form 0 && c.reg a && c.reg b && c.nxi == 0 && (c.hasXR || k == 0)
  | .remu c a b k => c.form 0 && c.reg a && c.reg b && c.nxi == 0 && (c.hasXR || k == 0)
  | .and c a b k => c.form 0 && c.reg a && c.reg b && c.nxi == 0 && (c.hasXR || k == 0)
  | .or c a b k => c.form 0 && c.reg a && c.reg b && c.nxi == 0 && (c.hasXR || k == 0)
  | .xor c a b k => c.form 0 && c.reg a && c.reg b && c.nxi == 0 && (c.hasXR || k == 0)
  | .andi c a imm => c.form 0 && c.reg a && fitsU c.nxi 5 imm
  | .ori c a imm => c.form 0 && c.reg a && fitsU c.nxi 5 imm
  | .xori c a imm => c.form 0 && c.reg a && fitsU c.nxi 5 imm
  | .shl c a b k => c.form 0 && c.reg a && c.reg b && c.nxi == 0 && (c.hasXR || k == 0)
  | .shr c a b k => c.form 0 && c.reg a && c.reg b && c.nxi == 0 && (c.hasXR || k == 0)
  | .sar c a b k => c.form 0 && c.reg a && c.reg b && c.nxi == 0 && (c.hasXR || k == 0)
  | .shli c a imm => c.form 0 && c.reg a && fitsU c.nxi 5 imm && imm.toNat < 64
  | .shri c a imm => c.form 0 && c.reg a && fitsU c.nxi 5 imm && imm.toNat < 64
  | .sari c a imm => c.form 0 && c.reg a && fitsU c.nxi 5 imm && imm.toNat < 64
  | .clz c a b => c.form 0 && c.reg a && c.reg b && c.nxi == 0
  | .popc c a b => c.form 0 && c.reg a && c.reg b && c.nxi == 0
  | .min c a b k => c.form 0 && c.reg a && c.reg b && c.nxi == 0 && (c.hasXR || k == 0)
  | .max c a b k => c.form 0 && c.reg a && c.reg b && c.nxi == 0 && (c.hasXR || k == 0)
  | .ceq c a b d => c.form 0 && c.reg a && c.reg b && c.mod d && c.nxi == 0
  | .cne c a b d => c.form 0 && c.reg a && c.reg b && c.mod d && c.nxi == 0
  | .clt c a b d => c.form 0 && c.reg a && c.reg b && c.mod d && c.nxi == 0
  | .cle c a b d => c.form 0 && c.reg a && c.reg b && c.mod d && c.nxi == 0
  | .cltu c a b d => c.form 0 && c.reg a && c.reg b && c.mod d && c.nxi == 0
  | .cleu c a b d => c.form 0 && c.reg a && c.reg b && c.mod d && c.nxi == 0
  | .ceqi c a imm d => c.form 0 && c.reg a && c.mod d && fitsS c.nxi 5 imm
  | .prd c a => c.form 0 && c.reg a && c.nxi == 0
  | .pwr c a => c.form 0 && c.reg a && c.nxi == 0
  | .br c off => c.form 0 && !c.hasXR && fitsS c.nxi 10 off
  | .bl c a off => c.form 0 && c.reg a && fitsS c.nxi 5 off
  | .jr c a b => c.form 0 && c.reg a && c.reg b && c.nxi == 0
  | .loop c a off => c.form 0 && c.reg a && fitsS c.nxi 5 off && a != 0
  | .endThread c => c.form 0 && !c.hasXR && c.nxi == 0
  | .ldb c a b off mm => c.form 0 && c.reg a && c.reg b && c.mod mm.bits && fitsS c.nxi 0 off && mm.legal
  | .ldh c a b off mm => c.form 0 && c.reg a && c.reg b && c.mod mm.bits && fitsS c.nxi 0 off && mm.legal
  | .ldw c a b off mm => c.form 0 && c.reg a && c.reg b && c.mod mm.bits && fitsS c.nxi 0 off && mm.legal
  | .ldd c a b off mm => c.form 0 && c.reg a && c.reg b && c.mod mm.bits && fitsS c.nxi 0 off && mm.legal
  | .sextB c a b => c.form 0 && c.reg a && c.reg b && c.nxi == 0
  | .sextH c a b => c.form 0 && c.reg a && c.reg b && c.hasXQ && c.nxi == 0
  | .sextW c a b => c.form 0 && c.reg a && c.reg b && c.hasXQ && c.nxi == 0
  | .stb c a b off mm => c.form 0 && c.reg a && c.reg b && c.mod mm.bits && fitsS c.nxi 0 off && mm.legal
  | .sth c a b off mm => c.form 0 && c.reg a && c.reg b && c.mod mm.bits && fitsS c.nxi 0 off && mm.legal
  | .stw c a b off mm => c.form 0 && c.reg a && c.reg b && c.mod mm.bits && fitsS c.nxi 0 off && mm.legal
  | .std c a b off mm => c.form 0 && c.reg a && c.reg b && c.mod mm.bits && fitsS c.nxi 0 off && mm.legal
  | .mfs c a _ => c.form 0 && c.reg a
  | .mts c a sr => c.form 0 && c.reg a && srWritable sr
  | .trap c _ => c.form 0 && !c.hasXR && c.nxi == 0
  | .fenceFull c s => c.form 0 && c.mod (fenceBits 0 s) && !c.hasXR && c.nxi == 0
  | .fenceAcq c s => c.form 0 && c.mod (fenceBits 1 s) && !c.hasXR && c.nxi == 0
  | .fenceRel c s => c.form 0 && c.mod (fenceBits 2 s) && !c.hasXR && c.nxi == 0
  | .fenceIfetch c s => c.form 0 && c.mod (fenceBits 3 s) && !c.hasXR && c.nxi == 0 && fetchScope s
  | .waitr c a => c.form 0 && c.reg a && c.nxi == 0
  | .muli c a imm => c.form 0 && c.reg a && fitsS c.nxi 5 imm
  | .gbar c => c.form 0 && !c.hasXR && c.nxi == 0
  | .fadd c a b k => c.form 1 && c.reg a && c.reg b && c.nxi == 0 && (c.hasXR || k == 0)
  | .fsub c a b k => c.form 1 && c.reg a && c.reg b && c.nxi == 0 && (c.hasXR || k == 0)
  | .fmul c a b k => c.form 1 && c.reg a && c.reg b && c.nxi == 0 && (c.hasXR || k == 0)
  | .ffma c a b k => c.form 1 && c.reg a && c.reg b && c.regC k && c.nxi == 0 && c.hasXR
  | .fdiv c a b k => c.form 1 && c.reg a && c.reg b && c.nxi == 0 && (c.hasXR || k == 0)
  | .fsqrt c a b => c.form 1 && c.reg a && c.reg b && c.nxi == 0
  | .fmin c a b k => c.form 1 && c.reg a && c.reg b && c.nxi == 0 && (c.hasXR || k == 0)
  | .fmax c a b k => c.form 1 && c.reg a && c.reg b && c.nxi == 0 && (c.hasXR || k == 0)
  | .fceq c a b d => c.form 1 && c.reg a && c.reg b && c.mod d && c.nxi == 0
  | .fclt c a b d => c.form 1 && c.reg a && c.reg b && c.mod d && c.nxi == 0
  | .fcle c a b d => c.form 1 && c.reg a && c.reg b && c.mod d && c.nxi == 0
  | .fcvti c a b => c.form 1 && c.reg a && c.reg b && c.nxi == 0
  | .fcvtiRz c a b => c.form 1 && c.reg a && c.reg b && c.hasXQ && c.nxi == 0
  | .icvtf c a b => c.form 1 && c.reg a && c.reg b && c.nxi == 0
  | .icvtfU c a b => c.form 1 && c.reg a && c.reg b && c.hasXQ && c.nxi == 0
  | .vadd c _ _ k => c.form 1 && c.nxi == 0 && (c.hasXR || k == 0)
  | .vsub c _ _ k => c.form 1 && c.nxi == 0 && (c.hasXR || k == 0)
  | .vmul c _ _ k => c.form 1 && c.nxi == 0 && (c.hasXR || k == 0)
  | .vfma c _ _ _ => c.form 1 && c.nxi == 0 && c.hasXR
  | .vmax c _ _ k => c.form 1 && c.nxi == 0 && (c.hasXR || k == 0)
  | .vmin c _ _ k => c.form 1 && c.nxi == 0 && (c.hasXR || k == 0)
  | .viadd c _ _ k => c.form 1 && c.nxi == 0 && (c.hasXR || k == 0)
  | .vbcast c _ b => c.form 1 && c.reg b && c.nxi == 0
  | .vextr c a _ lane => c.form 1 && c.reg a && c.mod (lane.setWidth 5) && c.nxi == 0
  | .vins c _ b lane => c.form 1 && c.reg b && c.mod (lane.setWidth 5) && c.nxi == 0
  | .vsum c a _ => c.form 1 && c.reg a && c.nxi == 0
  | .vmaxr c a _ => c.form 1 && c.reg a && c.nxi == 0
  | .vld c _ b off mm => c.form 1 && c.reg b && c.mod mm.bits && fitsS c.nxi 0 off && mm.legal
  | .vst c _ b off mm => c.form 1 && c.reg b && c.mod mm.bits && fitsS c.nxi 0 off && mm.legal
  | .vldx c _ b _ mm => c.form 1 && c.reg b && c.mod mm.bits && c.nxi == 0 && c.hasXR && mm.legal
  | .vstx c _ b _ mm => c.form 1 && c.reg b && c.mod mm.bits && c.nxi == 0 && c.hasXR && mm.legal
  | .vcvtBf16Fp32 c _ _ => c.form 1 && c.hasXQ && c.nxi == 0
  | .vcvtFp32Bf16 c _ _ => c.form 1 && c.hasXQ && c.nxi == 0
  | .vcvtDl8Fp32 c _ _ => c.form 1 && c.hasXQ && c.nxi == 0
  | .vcvtFp32Dl8 c _ _ => c.form 1 && c.hasXQ && c.nxi == 0
  | .vsel c _ _ k => c.form 1 && c.regC k && c.nxi == 0 && c.hasXR
  | .ldaw c a b k off lag => c.form 2 && c.reg a && c.reg b && c.regC k && c.mod lag && fitsS c.nxi 0 off && (k == 0 || a != k.setWidth 7)
  | .ldat c a b k off lag => c.form 2 && c.reg a && c.reg b && c.regC k && c.mod lag && fitsS c.nxi 0 off && (k == 0 || a != k.setWidth 7)
  | .sta c a b off => c.form 2 && c.reg a && c.reg b && fitsS c.nxi 0 off
  | .vlda c _ b k off lag => c.form 2 && c.reg b && c.regC k && c.mod lag && fitsS c.nxi 0 off
  | .vsta c _ b off => c.form 2 && c.reg b && fitsS c.nxi 0 off
  | .itadv c n => c.form 2 && !c.hasXR && c.nxi == 0 && n != 0
  | .dmode c n => c.form 2 && !c.hasXR && c.nxi == 0 && n != 3
  | .adjrd c a b off mm => c.form 2 && c.reg a && c.reg b && c.mod mm.bits && fitsS c.nxi 0 off && mm.legal
  | .adjwr c a b off mm => c.form 2 && c.reg a && c.reg b && c.mod mm.bits && fitsS c.nxi 0 off && mm.legal
  | .lr c a b off mm => c.form 2 && c.reg a && c.reg b && c.mod mm.bits && fitsS c.nxi 0 off && mm.legal
  | .sc c a b k off mm => c.form 2 && c.reg a && c.reg b && c.regC k && c.mod mm.bits && fitsS c.nxi 0 off && mm.legal
  | .aadd c a b k off mm => c.form 2 && c.reg a && c.reg b && c.regC k && c.mod mm.bits && fitsS c.nxi 0 off && mm.legal
  | .aand c a b k off mm => c.form 2 && c.reg a && c.reg b && c.regC k && c.mod mm.bits && fitsS c.nxi 0 off && mm.legal
  | .aor c a b k off mm => c.form 2 && c.reg a && c.reg b && c.regC k && c.mod mm.bits && fitsS c.nxi 0 off && mm.legal
  | .axor c a b k off mm => c.form 2 && c.reg a && c.reg b && c.regC k && c.mod mm.bits && fitsS c.nxi 0 off && mm.legal
  | .amin c a b k off mm => c.form 2 && c.reg a && c.reg b && c.regC k && c.mod mm.bits && fitsS c.nxi 0 off && mm.legal
  | .amax c a b k off mm => c.form 2 && c.reg a && c.reg b && c.regC k && c.mod mm.bits && fitsS c.nxi 0 off && mm.legal
  | .aswp c a b k off mm => c.form 2 && c.reg a && c.reg b && c.regC k && c.mod mm.bits && fitsS c.nxi 0 off && mm.legal
  | .cas c a b k off mm => c.form 2 && c.reg a && c.reg b && c.regC k && c.mod mm.bits && fitsS c.nxi 0 off && mm.legal
  | .casx c a b k off mm => c.form 2 && c.reg a && c.reg b && c.regC k && c.mod mm.bits && fitsS c.nxi 0 off && mm.legal && even7 a && even6 k && k != 0
  | .rupdAdjoint c a b off mm => c.form 2 && c.reg a && c.reg b && c.mod mm.bits && fitsS c.nxi 0 off && mm.legal && mm.cls != .volatile
  | .rupdQ64Add c a b off mm => c.form 2 && c.reg a && c.reg b && c.mod mm.bits && c.hasXR && fitsS c.nxi 0 off && mm.legal && mm.cls != .volatile
  | .rupdFp32Add c a b off mm => c.form 2 && c.reg a && c.reg b && c.mod mm.bits && c.hasXR && fitsS c.nxi 0 off && mm.legal && mm.cls != .volatile
  | .rupdIntAdd c a b off mm => c.form 2 && c.reg a && c.reg b && c.mod mm.bits && c.hasXR && fitsS c.nxi 0 off && mm.legal && mm.cls != .volatile
  | .rupdMin c a b off mm => c.form 2 && c.reg a && c.reg b && c.mod mm.bits && c.hasXR && fitsS c.nxi 0 off && mm.legal && mm.cls != .volatile
  | .rupdMax c a b off mm => c.form 2 && c.reg a && c.reg b && c.mod mm.bits && c.hasXR && fitsS c.nxi 0 off && mm.legal && mm.cls != .volatile
  | .rupdOr c a b off mm => c.form 2 && c.reg a && c.reg b && c.mod mm.bits && c.hasXR && fitsS c.nxi 0 off && mm.legal && mm.cls != .volatile
  | .rupdAnd c a b off mm => c.form 2 && c.reg a && c.reg b && c.mod mm.bits && c.hasXR && fitsS c.nxi 0 off && mm.legal && mm.cls != .volatile
  | .spawn c a b k => c.form 2 && c.reg a && c.reg b && c.nxi == 0 && (c.hasXR || k == 0)
  | .cpreq c a => c.form 2 && c.reg a && c.nxi == 0
  | .cpseal c => c.form 2 && !c.hasXR && c.nxi == 0
  | .cpwait c n => c.form 2 && !c.hasXR && fitsU c.nxi 5 n
  | .mbget c _ => c.form 2 && !c.hasXR && c.nxi == 0
  | .mbgetNw c _ => c.form 2 && c.hasXQ && !c.hasXR && c.nxi == 0
  | .xfer c _ _ => c.form 2 && !c.hasXR && c.nxi == 0
  | .mbpost c _ _ => c.form 2 && !c.hasXR && c.nxi == 0
  | .xpush c _ q d => c.form 2 && c.mod (if q || d then 1 else 0) && !c.hasXR && c.nxi == 0
  | .pfs c a stream cis => c.form 2 && c.reg a && c.mod (if cis || stream != 0 then 1 else 0) && c.nxi == 0 && 1 <= a.toNat && a.toNat <= 122
  | .pfx c b off cis => c.form 2 && c.reg b && c.mod (if cis then 1 else 0) && fitsS c.nxi 0 off
  | .cwait c _ n => c.form 2 && !c.hasXR && fitsU c.nxi 5 n && n != 0
  | .cfree c _ n => c.form 2 && !c.hasXR && fitsU c.nxi 5 n && n != 0
  | .cadv c _ n => c.form 2 && !c.hasXR && fitsU c.nxi 5 n && n != 0
  | .cpost c _ n => c.form 2 && !c.hasXR && fitsU c.nxi 5 n && n != 0
  | .smap c a b w => c.form 2 && c.reg a && c.reg b && c.mod (w.setWidth 5) && c.nxi == 0
  | .sunmap c w => c.form 2 && c.mod (w.setWidth 5) && !c.hasXR && c.nxi == 0
  | .sflush c w => c.form 2 && c.mod (w.setWidth 5) && !c.hasXR && c.nxi == 0
  | .hcfg c _ b => c.form 2 && c.reg b && c.nxi == 0
  | .fmtset c cfg => c.form 3 && !c.hasXR && c.nxi == 0 && cfgLegal cfg
  | .fmtsetRelease c => c.form 3 && !c.hasXR && c.nxi == 0
  | .fmtrd c a => c.form 3 && c.reg a && c.nxi == 0
  | .mma c _ n => c.form 3 && !c.hasXR && c.nxi == 0 && 1 <= n.toNat && n.toNat <= 16
  | .mmat c _ _ n s0 => c.form 3 && c.mod (s0.setWidth 5) && !c.hasXR && c.nxi == 0 && 1 <= n.toNat && n.toNat <= 16
  | .mmasp c _ n => c.form 3 && !c.hasXR && c.nxi == 0 && 1 <= n.toNat && n.toNat <= 16
  | .tzero c _ => c.form 3 && !c.hasXR && c.nxi == 0
  | .trd c _ t piece => c.form 3 && c.mod ((t ++ piece.extractLsb' 5 1).setWidth 5) && !c.hasXR && c.nxi == 0
  | .twr c _ t piece => c.form 3 && c.mod ((t ++ piece.extractLsb' 5 1).setWidth 5) && !c.hasXR && c.nxi == 0
  | .tld c _ b off f => c.form 3 && c.reg b && c.mod (f.setWidth 5) && fitsS c.nxi 0 off && f != 0
  | .tst c _ b off f => c.form 3 && c.reg b && c.mod (f.setWidth 5) && fitsS c.nxi 0 off && f != 0
  | .tstt c _ b off f => c.form 3 && c.reg b && c.mod (f.setWidth 5) && fitsS c.nxi 0 off && f != 0
  | .qblk c a t _ => c.form 3 && c.reg a && c.mod (t.setWidth 5) && c.nxi == 0
  | .vqnt c _ _ k q => c.form 3 && c.regC k && c.mod (q.setWidth 5) && c.nxi == 0 && c.hasXR
  | .vdqnt c _ _ k q => c.form 3 && c.regC k && c.mod (q.setWidth 5) && c.nxi == 0 && c.hasXR
  | .scpush c a q => c.form 3 && c.reg a && c.mod (if q then 1 else 0) && c.nxi == 0
  | .rgrow c w t b off => c.form 3 && c.reg b && fitsS c.nxi 0 off && w != t
  | .msync c => c.form 3 && !c.hasXR && c.nxi == 0
  | .tqadd c a => c.form 4 && c.reg a && c.nxi == 0
  | .depadd c a b => c.form 4 && c.reg a && c.reg b && c.nxi == 0
  | .cancel c a => c.form 4 && c.reg a && c.nxi == 0
  | .cbpush c a b k => c.form 4 && c.reg a && c.reg b && c.regC k && c.nxi == 0 && c.hasXR && 1 <= k.toNat && k.toNat <= 62
  | .cbseal c => c.form 4 && !c.hasXR && c.nxi == 0
  | .cbnext c a => c.form 4 && c.reg a && c.nxi == 0 && 1 <= a.toNat && a.toNat <= 126
  | .cbdone c a => c.form 4 && c.reg a && c.nxi == 0
  | .mcst c a b k off rel => c.form 4 && c.reg b && c.regC k && c.mod (if rel then 12 else 0) && fitsS c.nxi 0 off && c.hasXR && a.toNat <= 12
  | .mcwait c a => c.form 4 && c.reg a && c.nxi == 0
  | .ffence c a b off => c.form 4 && c.reg a && c.reg b && fitsS c.nxi 0 off
  | .eret c => c.form 4 && !c.hasXR && c.nxi == 0
  | .eretNext c => c.form 4 && c.hasXQ && !c.hasXR && c.nxi == 0
  | .svc c _ => c.form 4 && !c.hasXR && c.nxi == 0
  | .tlbinvVa c a => c.form 4 && c.reg a && c.nxi == 0
  | .tlbinvCtx c => c.form 4 && c.hasXQ && c.nxi == 0
  | .tlbinvReg c a => c.form 4 && c.reg a && c.hasXQ && c.nxi == 0
  | .notificationRecord _ => false
  | .supervisorAction _ _ => false
  | .futureComplete _ _ => false
  | .gangSpill _ _ => false
  | .gangRestore _ => false
  | .threadLoadComplete _ => false
  | .accessReply _ _ => false
  | .endDrainComplete _ => false
  | .tlbWalkComplete _ _ => false
  | .homeRequest _ _ _ => false
  | .retryTimerExpire _ _ => false
  | .fillArrive _ _ => false
  | .invalidationArrive _ _ => false
  | .invalidationAck _ _ => false
  | .stampedStoreHome _ => false
  | .weirlimExpire _ => false
  | .rmwAtHome _ => false
  | .rupdApply _ => false
  | .lossNotice _ _ => false
  | .waitrTimeout _ => false
  | .rillAccept _ => false
  | .rillMigrate _ _ => false
  | .copyComplete _ _ _ => false
  | .mmaAccept _ => false
  | .mmaTileWrite _ => false
  | .launchParse _ => false
  | .launchSweep _ => false
  | .taskAdmit _ => false
  | .deficitCharge _ => false
  | .reservationStart _ _ => false
  | .workSteal _ => false
  | .coreContextScrub _ _ => false
  | .hostSnoop _ _ => false
  | .hostAccess _ => false
  | .backInvalidationAnswer _ _ => false
  | .completionTimeout _ => false
  | .linkDown _ => false
  | .peerRequest _ => false
  | .peerStoreRefused _ _ _ => false
  | .peerTableUpdate _ _ _ => false
  | .mcstAnswer _ _ _ => false
  | .coldReset => false
  | .measurementExtend _ _ _ => false
  | .attestationRequest _ => false
  | .auditAppend _ _ => false
  | .selfTestVerdict _ _ => false
  | .contextCreate _ => false
  | .contextRelease _ => false
  | .scrubComplete _ _ _ => false
  | .frequencyChange _ _ => false
  | .managementRegisterWrite _ => false
  | .hostLinkUp _ => false

end Sys2Proof
end

