-- ==== Sys2Proof/Decode.lean ====
section
/-!
DEFINITION. The decoder and the encoder of instruction chains (spec/03_instruction_words.md).
`pushHalf` takes one halfword at a time, as step 1 of R39 does, so that the fetch of the step and the list decoder
share it. `decodeRaw` is step 2 of R39. Both are total; a refused chain names the halfword and its position (R40).
-/
namespace Sys2Proof

/-- The fields of a whole chain, before its base word is given a meaning. -/
structure Raw where
  page : BitVec 4
  word : Half
  hasXR : Bool
  xr : BitVec 10
  hasXQ : Bool
  guard : BitVec 4
  inv : Bool
  m : BitVec 5
  xis : List (BitVec 10)
deriving DecidableEq, Repr, Inhabited

namespace Raw
/-- Base word [15:10] (R25). -/
def code (r : Raw) : BitVec 6 := r.word.extractLsb' 10 6
/-- Field a, base word [9:5]. -/
def fa (r : Raw) : BitVec 5 := r.word.extractLsb' 5 5
/-- Field b, base word [4:0]. -/
def fb (r : Raw) : BitVec 5 := r.word.extractLsb' 0 5
/-- XR[9:8] (R29). -/
def ahi (r : Raw) : BitVec 2 := r.xr.extractLsb' 8 2
/-- XR[7:6]. -/
def bhi (r : Raw) : BitVec 2 := r.xr.extractLsb' 6 2
/-- XR[5:0]. -/
def xc (r : Raw) : BitVec 6 := r.xr.extractLsb' 0 6
/-- Register named by field a (R29). -/
def a (r : Raw) : Reg := r.ahi ++ r.fa
/-- Register named by field b (R29). -/
def b (r : Raw) : Reg := r.bhi ++ r.fb
/-- Vector register in field a (R119). -/
def va (r : Raw) : VReg := r.fa.extractLsb' 0 4
/-- Vector register in field b. -/
def vb (r : Raw) : VReg := r.fb.extractLsb' 0 4
/-- Vector register in XR[5:0]. -/
def vk (r : Raw) : VReg := r.xc.extractLsb' 0 4
/-- M[3:0]. -/
def vm (r : Raw) : BitVec 4 := r.m.extractLsb' 0 4
/-- Field a is a vector register number, unextended: fields of 16 and above are ILLEGAL (R119). -/
def vecA (r : Raw) : Bool := r.ahi == 0 && decide (r.fa.toNat < 16)
/-- As `vecA`, for field b. -/
def vecB (r : Raw) : Bool := r.bhi == 0 && decide (r.fb.toNat < 16)
/-- As `vecA`, for XR[5:0]. -/
def vecC (r : Raw) : Bool := decide (r.xc.toNat < 16)
/-- M[4] = 0. -/
def laneM (r : Raw) : Bool := r.m.extractLsb' 4 1 == 0
/-- Bit `k` of M. -/
def mbit (r : Raw) (k : Nat) : Bool := r.m.getLsbD k
/-- The XI payloads as one number, the first XI highest (R28). -/
def xiBits (r : Raw) : Word := r.xis.foldl (fun acc x => (acc <<< 10) ||| x.setWidth 64) 0
/-- The immediate before extension: XI payloads, then `base` bits of the base word (R28). -/
def immBits (r : Raw) (base : Nat) : Word := (r.xiBits <<< base) ||| zeroExt base (r.word.setWidth 64)
/-- A signed immediate (R28, R36). -/
def immS (r : Raw) (base : Nat) : Word := signExt (base + 10 * r.xis.length) (r.immBits base)
/-- A zero-extended immediate (R28, R36). -/
def immU (r : Raw) (base : Nat) : Word := zeroExt (base + 10 * r.xis.length) (r.immBits base)
/-- A byte offset: no bits in the base word (R22, R36). -/
def off (r : Raw) : Word := r.immS 0
/-- The number of prefixes of the chain. -/
def nprefix (r : Raw) : Nat := (if r.page == 0 then 0 else 1) + r.hasXR.toNat + r.hasXQ.toNat + r.xis.length
/-- The chain without its operands. -/
def chain (r : Raw) : Chain :=
  { guard := r.guard, inv := r.inv, hasXQ := r.hasXQ, hasXR := r.hasXR, nxi := BitVec.ofNat 2 r.xis.length }
end Raw

/-- The class of an M field of the memory row; class 11 is refused by `memLegal`. -/
def Cls.ofBits (b : BitVec 2) : Cls := if b == 1 then .ordered else if b == 2 then .volatile else .plain
/-- The scope of M[2:0]; scopes 5 to 7 are refused by `memLegal`. -/
def Scope.ofBits (b : BitVec 3) : Scope :=
  if b == 1 then .cluster else if b == 2 then .device else if b == 3 then .system else if b == 4 then .fabric else .core
/-- A memory mode from M (R32). -/
def MemMode.ofBits (m : BitVec 5) : MemMode := ⟨Cls.ofBits (m.extractLsb' 3 2), Scope.ofBits (m.extractLsb' 0 3)⟩
/-- M values that R32 accepts in the memory row. -/
def memLegal (m : BitVec 5) : Bool :=
  m.extractLsb' 3 2 != 3 && decide ((m.extractLsb' 0 3).toNat ≤ 4) && (m.extractLsb' 3 2 != 0 || m.extractLsb' 0 3 == 0)

/-- A chain that traps ILLEGAL: the position and value of the failing halfword, and the chain's length in bytes
up to and including the last halfword fetched (R40, R221). -/
structure Reject where
  pos : Nat
  half : Half
  len : Nat
deriving DecidableEq, Repr

/-- The prefixes taken so far (R33). -/
structure Pre where
  count : Nat := 0
  page : BitVec 4 := 0
  hasXR : Bool := false
  xr : BitVec 10 := 0
  hasXQ : Bool := false
  guard : BitVec 4 := 0
  inv : Bool := false
  m : BitVec 5 := 0
  xis : List (BitVec 10) := []
deriving DecidableEq, Repr

/-- What one more halfword does. -/
inductive Push where
  /-- A prefix that breaks no limit: the chain goes on. -/
  | more (p : Pre)
  /-- The base word: the chain is complete. -/
  | done (r : Raw)
  /-- The first halfword that breaks a limit of R30 or R33. -/
  | bad (e : Reject)
deriving DecidableEq, Repr

/-- Take one halfword of a chain, checking the limits of R27, R30 and R33 (step 1 of R39). -/
def pushHalf (p : Pre) (h : Half) : Push :=
  let pay : BitVec 10 := h.extractLsb' 0 10
  let e : Reject := ⟨p.count, h, 2 * (p.count + 1)⟩
  let cls : BitVec 6 := h.extractLsb' 10 6
  if cls == 0x3C then
    if p.count ≥ 4 || p.xis.length ≥ 3 then .bad e
    else .more { p with count := p.count + 1, xis := p.xis ++ [pay] }
  else if cls == 0x3D then
    if p.count ≥ 4 || p.hasXR || p.hasXQ || !p.xis.isEmpty then .bad e
    else .more { p with count := p.count + 1, hasXR := true, xr := pay }
  else if cls == 0x3E then
    if p.count ≥ 1 || pay.extractLsb' 4 6 != 0 || pay == 0 || decide (pay.toNat ≥ 5) then .bad e
    else .more { p with count := p.count + 1, page := pay.extractLsb' 0 4 }
  else if cls == 0x3F then
    if p.count ≥ 4 || p.hasXQ || !p.xis.isEmpty then .bad e
    else .more { p with count := p.count + 1, hasXQ := true, guard := pay.extractLsb' 6 4,
                        inv := pay.getLsbD 5, m := pay.extractLsb' 0 5 }
  else
    .done { page := p.page, word := h, hasXR := p.hasXR, xr := p.xr, hasXQ := p.hasXQ, guard := p.guard,
            inv := p.inv, m := p.m, xis := p.xis }

/-- `i` when the encoding meets the conditions of its entry. -/
def guardSome (ok : Bool) (i : Instr) : Option Instr := if ok then some i else none


/-- The base words of opcode page 0 (R44). `none` is an encoding the page's entries refuse. DEDUCED: END and GBAR with an XR or an XI of
zero payload are refused, as the None row of R34 has it, though their entries speak of non-zero payloads (notes/assumptions/68.md). -/
def decodePage0 (c : Chain) (r : Raw) : Option Instr :=
  match r.code with
  | 0x00#6 => guardSome (true) (.udf c (r.fa ++ r.fb) r.xr r.m r.xis)
  | 0x01#6 => guardSome (!r.hasXR && r.xis.isEmpty && r.m == 0 && r.fa == 0 && r.fb == 0) (.nop c)
  | 0x02#6 => guardSome (r.xis.isEmpty && r.m == 0 && r.xc == 0) (.mov c r.a r.b)
  | 0x03#6 => guardSome (r.bhi == 0 && r.xc == 0 && r.m == 0) (.movi c r.a (r.immS 5))
  | 0x04#6 => guardSome (r.xis.isEmpty && r.m == 0) (.add c r.a r.b r.xc)
  | 0x05#6 => guardSome (r.xis.isEmpty && r.m == 0) (.sub c r.a r.b r.xc)
  | 0x06#6 => guardSome (r.bhi == 0 && r.xc == 0 && r.m == 0) (.addi c r.a (r.immS 5))
  | 0x07#6 => guardSome (r.xis.isEmpty && r.m == 0) (.mul c r.a r.b r.xc)
  | 0x08#6 => guardSome (r.xis.isEmpty && r.m == 0) (.mulh c r.a r.b r.xc)
  | 0x09#6 => guardSome (r.xis.isEmpty && r.m == 0) (.mulhu c r.a r.b r.xc)
  | 0x0A#6 => guardSome (r.xis.isEmpty && r.m == 0) (.div c r.a r.b r.xc)
  | 0x0B#6 => guardSome (r.xis.isEmpty && r.m == 0) (.divu c r.a r.b r.xc)
  | 0x0C#6 => guardSome (r.xis.isEmpty && r.m == 0) (.rem c r.a r.b r.xc)
  | 0x0D#6 => guardSome (r.xis.isEmpty && r.m == 0) (.remu c r.a r.b r.xc)
  | 0x0E#6 => guardSome (r.xis.isEmpty && r.m == 0) (.and c r.a r.b r.xc)
  | 0x0F#6 => guardSome (r.xis.isEmpty && r.m == 0) (.or c r.a r.b r.xc)
  | 0x10#6 => guardSome (r.xis.isEmpty && r.m == 0) (.xor c r.a r.b r.xc)
  | 0x11#6 => guardSome (r.bhi == 0 && r.xc == 0 && r.m == 0) (.andi c r.a (r.immU 5))
  | 0x12#6 => guardSome (r.bhi == 0 && r.xc == 0 && r.m == 0) (.ori c r.a (r.immU 5))
  | 0x13#6 => guardSome (r.bhi == 0 && r.xc == 0 && r.m == 0) (.xori c r.a (r.immU 5))
  | 0x14#6 => guardSome (r.xis.isEmpty && r.m == 0) (.shl c r.a r.b r.xc)
  | 0x15#6 => guardSome (r.xis.isEmpty && r.m == 0) (.shr c r.a r.b r.xc)
  | 0x16#6 => guardSome (r.xis.isEmpty && r.m == 0) (.sar c r.a r.b r.xc)
  | 0x17#6 => guardSome (r.bhi == 0 && r.xc == 0 && r.m == 0 && (r.immU 5).toNat < 64) (.shli c r.a (r.immU 5))
  | 0x18#6 => guardSome (r.bhi == 0 && r.xc == 0 && r.m == 0 && (r.immU 5).toNat < 64) (.shri c r.a (r.immU 5))
  | 0x19#6 => guardSome (r.bhi == 0 && r.xc == 0 && r.m == 0 && (r.immU 5).toNat < 64) (.sari c r.a (r.immU 5))
  | 0x1A#6 => guardSome (r.xis.isEmpty && r.m == 0 && r.xc == 0) (.clz c r.a r.b)
  | 0x1B#6 => guardSome (r.xis.isEmpty && r.m == 0 && r.xc == 0) (.popc c r.a r.b)
  | 0x1C#6 => guardSome (r.xis.isEmpty && r.m == 0) (.min c r.a r.b r.xc)
  | 0x1D#6 => guardSome (r.xis.isEmpty && r.m == 0) (.max c r.a r.b r.xc)
  | 0x1E#6 => guardSome (r.xis.isEmpty && r.xc == 0) (.ceq c r.a r.b r.m)
  | 0x1F#6 => guardSome (r.xis.isEmpty && r.xc == 0) (.cne c r.a r.b r.m)
  | 0x20#6 => guardSome (r.xis.isEmpty && r.xc == 0) (.clt c r.a r.b r.m)
  | 0x21#6 => guardSome (r.xis.isEmpty && r.xc == 0) (.cle c r.a r.b r.m)
  | 0x22#6 => guardSome (r.xis.isEmpty && r.xc == 0) (.cltu c r.a r.b r.m)
  | 0x23#6 => guardSome (r.xis.isEmpty && r.xc == 0) (.cleu c r.a r.b r.m)
  | 0x24#6 => guardSome (r.bhi == 0 && r.xc == 0) (.ceqi c r.a (r.immS 5) r.m)
  | 0x25#6 => guardSome (r.xis.isEmpty && r.m == 0 && r.fb == 0 && r.bhi == 0 && r.xc == 0) (.prd c r.a)
  | 0x26#6 => guardSome (r.xis.isEmpty && r.m == 0 && r.fb == 0 && r.bhi == 0 && r.xc == 0) (.pwr c r.a)
  | 0x27#6 => guardSome (!r.hasXR && r.m == 0) (.br c (r.immS 10))
  | 0x28#6 => guardSome (r.bhi == 0 && r.xc == 0 && r.m == 0) (.bl c r.a (r.immS 5))
  | 0x29#6 => guardSome (r.xis.isEmpty && r.m == 0 && r.xc == 0) (.jr c r.a r.b)
  | 0x2A#6 => guardSome (r.bhi == 0 && r.xc == 0 && r.m == 0 && r.a != 0) (.loop c r.a (r.immS 5))
  | 0x2B#6 => guardSome (!r.hasXR && r.xis.isEmpty && r.m == 0 && r.fa == 0 && r.fb == 0) (.endThread c)
  | 0x2C#6 => guardSome (r.xc == 0 && memLegal r.m) (.ldb c r.a r.b r.off (MemMode.ofBits r.m))
  | 0x2D#6 => guardSome (r.xc == 0 && memLegal r.m) (.ldh c r.a r.b r.off (MemMode.ofBits r.m))
  | 0x2E#6 => guardSome (r.xc == 0 && memLegal r.m) (.ldw c r.a r.b r.off (MemMode.ofBits r.m))
  | 0x2F#6 => guardSome (r.xc == 0 && memLegal r.m) (.ldd c r.a r.b r.off (MemMode.ofBits r.m))
  | 0x30#6 =>
    if r.xis.isEmpty && r.m == 0 && r.xc == 0 then some (.sextB c r.a r.b)
    else if r.xis.isEmpty && r.m == 1 && r.xc == 0 then some (.sextH c r.a r.b)
    else if r.xis.isEmpty && r.m == 2 && r.xc == 0 then some (.sextW c r.a r.b)
    else none
  | 0x31#6 => guardSome (r.xc == 0 && memLegal r.m) (.stb c r.a r.b r.off (MemMode.ofBits r.m))
  | 0x32#6 => guardSome (r.xc == 0 && memLegal r.m) (.sth c r.a r.b r.off (MemMode.ofBits r.m))
  | 0x33#6 => guardSome (r.xc == 0 && memLegal r.m) (.stw c r.a r.b r.off (MemMode.ofBits r.m))
  | 0x34#6 => guardSome (r.xc == 0 && memLegal r.m) (.std c r.a r.b r.off (MemMode.ofBits r.m))
  | 0x35#6 => guardSome (r.bhi == 0 && r.xc == 0 && r.m == 0 && (r.immU 5).toNat < 32) (.mfs c r.a r.fb)
  | 0x36#6 => guardSome (r.bhi == 0 && r.xc == 0 && r.m == 0 && (r.immU 5).toNat < 32 && srWritable r.fb) (.mts c r.a r.fb)
  | 0x37#6 => guardSome (!r.hasXR && r.xis.isEmpty && r.m == 0) (.trap c (r.fa ++ r.fb))
  | 0x38#6 =>
    if !r.hasXR && r.xis.isEmpty && r.fa == 0 && r.fb == 0 && r.m.extractLsb' 3 2 == 0 && r.m.extractLsb' 0 3 <= 4 then some (.fenceFull c (Scope.ofBits (r.m.extractLsb' 0 3)))
    else if !r.hasXR && r.xis.isEmpty && r.fa == 0 && r.fb == 0 && r.m.extractLsb' 3 2 == 1 && r.m.extractLsb' 0 3 <= 4 then some (.fenceAcq c (Scope.ofBits (r.m.extractLsb' 0 3)))
    else if !r.hasXR && r.xis.isEmpty && r.fa == 0 && r.fb == 0 && r.m.extractLsb' 3 2 == 2 && r.m.extractLsb' 0 3 <= 4 then some (.fenceRel c (Scope.ofBits (r.m.extractLsb' 0 3)))
    else if !r.hasXR && r.xis.isEmpty && r.fa == 0 && r.fb == 0 && r.m.extractLsb' 3 2 == 3 && r.m.extractLsb' 0 3 <= 2 then some (.fenceIfetch c (Scope.ofBits (r.m.extractLsb' 0 3)))
    else none
  | 0x39#6 => guardSome (r.xis.isEmpty && r.m == 0 && r.fb == 0 && r.bhi == 0 && r.xc == 0) (.waitr c r.a)
  | 0x3A#6 => guardSome (r.bhi == 0 && r.xc == 0 && r.m == 0) (.muli c r.a (r.immS 5))
  | 0x3B#6 => guardSome (!r.hasXR && r.xis.isEmpty && r.m == 0 && r.fa == 0 && r.fb == 0) (.gbar c)
  | _ => none

/-- The base words of opcode page 1 (R44). `none` is an encoding the page's entries refuse. -/
def decodePage1 (c : Chain) (r : Raw) : Option Instr :=
  match r.code with
  | 0x00#6 => guardSome (r.xis.isEmpty && r.m == 0) (.fadd c r.a r.b r.xc)
  | 0x01#6 => guardSome (r.xis.isEmpty && r.m == 0) (.fsub c r.a r.b r.xc)
  | 0x02#6 => guardSome (r.xis.isEmpty && r.m == 0) (.fmul c r.a r.b r.xc)
  | 0x03#6 => guardSome (r.xis.isEmpty && r.m == 0 && r.hasXR) (.ffma c r.a r.b r.xc)
  | 0x04#6 => guardSome (r.xis.isEmpty && r.m == 0) (.fdiv c r.a r.b r.xc)
  | 0x05#6 => guardSome (r.xis.isEmpty && r.m == 0 && r.xc == 0) (.fsqrt c r.a r.b)
  | 0x06#6 => guardSome (r.xis.isEmpty && r.m == 0) (.fmin c r.a r.b r.xc)
  | 0x07#6 => guardSome (r.xis.isEmpty && r.m == 0) (.fmax c r.a r.b r.xc)
  | 0x08#6 => guardSome (r.xis.isEmpty && r.xc == 0) (.fceq c r.a r.b r.m)
  | 0x09#6 => guardSome (r.xis.isEmpty && r.xc == 0) (.fclt c r.a r.b r.m)
  | 0x0A#6 => guardSome (r.xis.isEmpty && r.xc == 0) (.fcle c r.a r.b r.m)
  | 0x0B#6 =>
    if r.xis.isEmpty && r.m == 0 && r.xc == 0 then some (.fcvti c r.a r.b)
    else if r.xis.isEmpty && r.m == 1 && r.xc == 0 then some (.fcvtiRz c r.a r.b)
    else none
  | 0x0C#6 =>
    if r.xis.isEmpty && r.m == 0 && r.xc == 0 then some (.icvtf c r.a r.b)
    else if r.xis.isEmpty && r.m == 1 && r.xc == 0 then some (.icvtfU c r.a r.b)
    else none
  | 0x0D#6 => guardSome (r.xis.isEmpty && r.m == 0 && r.vecA && r.vecB && r.vecC) (.vadd c r.va r.vb r.vk)
  | 0x0E#6 => guardSome (r.xis.isEmpty && r.m == 0 && r.vecA && r.vecB && r.vecC) (.vsub c r.va r.vb r.vk)
  | 0x0F#6 => guardSome (r.xis.isEmpty && r.m == 0 && r.vecA && r.vecB && r.vecC) (.vmul c r.va r.vb r.vk)
  | 0x10#6 => guardSome (r.xis.isEmpty && r.m == 0 && r.hasXR && r.vecA && r.vecB && r.vecC) (.vfma c r.va r.vb r.vk)
  | 0x11#6 => guardSome (r.xis.isEmpty && r.m == 0 && r.vecA && r.vecB && r.vecC) (.vmax c r.va r.vb r.vk)
  | 0x12#6 => guardSome (r.xis.isEmpty && r.m == 0 && r.vecA && r.vecB && r.vecC) (.vmin c r.va r.vb r.vk)
  | 0x13#6 => guardSome (r.xis.isEmpty && r.m == 0 && r.vecA && r.vecB && r.vecC) (.viadd c r.va r.vb r.vk)
  | 0x14#6 => guardSome (r.xis.isEmpty && r.m == 0 && r.vecA && r.xc == 0) (.vbcast c r.va r.b)
  | 0x15#6 => guardSome (r.xis.isEmpty && r.vecB && r.xc == 0 && r.laneM) (.vextr c r.a r.vb r.vm)
  | 0x16#6 => guardSome (r.xis.isEmpty && r.vecA && r.xc == 0 && r.laneM) (.vins c r.va r.b r.vm)
  | 0x17#6 => guardSome (r.xis.isEmpty && r.m == 0 && r.vecB && r.xc == 0) (.vsum c r.a r.vb)
  | 0x18#6 => guardSome (r.xis.isEmpty && r.m == 0 && r.vecB && r.xc == 0) (.vmaxr c r.a r.vb)
  | 0x19#6 => guardSome (r.xc == 0 && r.vecA && memLegal r.m) (.vld c r.va r.b r.off (MemMode.ofBits r.m))
  | 0x1A#6 => guardSome (r.xc == 0 && r.vecA && memLegal r.m) (.vst c r.va r.b r.off (MemMode.ofBits r.m))
  | 0x1B#6 => guardSome (r.xis.isEmpty && r.hasXR && r.vecA && r.vecC && memLegal r.m) (.vldx c r.va r.b r.vk (MemMode.ofBits r.m))
  | 0x1C#6 => guardSome (r.xis.isEmpty && r.hasXR && r.vecA && r.vecC && memLegal r.m) (.vstx c r.va r.b r.vk (MemMode.ofBits r.m))
  | 0x1D#6 =>
    if r.xis.isEmpty && r.m == 1 && r.vecA && r.vecB && r.xc == 0 then some (.vcvtBf16Fp32 c r.va r.vb)
    else if r.xis.isEmpty && r.m == 2 && r.vecA && r.vecB && r.xc == 0 then some (.vcvtFp32Bf16 c r.va r.vb)
    else if r.xis.isEmpty && r.m == 3 && r.vecA && r.vecB && r.xc == 0 then some (.vcvtDl8Fp32 c r.va r.vb)
    else if r.xis.isEmpty && r.m == 4 && r.vecA && r.vecB && r.xc == 0 then some (.vcvtFp32Dl8 c r.va r.vb)
    else none
  | 0x1E#6 => guardSome (r.xis.isEmpty && r.m == 0 && r.hasXR && r.vecA && r.vecB) (.vsel c r.va r.vb r.xc)
  | _ => none

/-- The base words of opcode page 2 (R44). `none` is an encoding the page's entries refuse. -/
def decodePage2 (c : Chain) (r : Raw) : Option Instr :=
  match r.code with
  | 0x00#6 => guardSome ((r.xc == 0 || r.a != r.xc.setWidth 7)) (.ldaw c r.a r.b r.xc r.off r.m)
  | 0x01#6 => guardSome ((r.xc == 0 || r.a != r.xc.setWidth 7)) (.ldat c r.a r.b r.xc r.off r.m)
  | 0x02#6 => guardSome (r.xc == 0 && r.m == 0) (.sta c r.a r.b r.off)
  | 0x03#6 => guardSome (r.vecA) (.vlda c r.va r.b r.xc r.off r.m)
  | 0x04#6 => guardSome (r.xc == 0 && r.m == 0 && r.vecA) (.vsta c r.va r.b r.off)
  | 0x05#6 => guardSome (!r.hasXR && r.xis.isEmpty && r.m == 0 && r.fa == 0 && r.fb != 0) (.itadv c r.fb)
  | 0x06#6 => guardSome (!r.hasXR && r.xis.isEmpty && r.m == 0 && r.fa == 0 && r.fb.toNat < 3) (.dmode c (r.fb.setWidth 2))
  | 0x07#6 => guardSome (r.xc == 0 && memLegal r.m) (.adjrd c r.a r.b r.off (MemMode.ofBits r.m))
  | 0x08#6 => guardSome (r.xc == 0 && memLegal r.m) (.adjwr c r.a r.b r.off (MemMode.ofBits r.m))
  | 0x09#6 => guardSome (r.xc == 0 && memLegal r.m) (.lr c r.a r.b r.off (MemMode.ofBits r.m))
  | 0x0A#6 => guardSome (memLegal r.m) (.sc c r.a r.b r.xc r.off (MemMode.ofBits r.m))
  | 0x0B#6 => guardSome (memLegal r.m) (.aadd c r.a r.b r.xc r.off (MemMode.ofBits r.m))
  | 0x0C#6 => guardSome (memLegal r.m) (.aand c r.a r.b r.xc r.off (MemMode.ofBits r.m))
  | 0x0D#6 => guardSome (memLegal r.m) (.aor c r.a r.b r.xc r.off (MemMode.ofBits r.m))
  | 0x0E#6 => guardSome (memLegal r.m) (.axor c r.a r.b r.xc r.off (MemMode.ofBits r.m))
  | 0x0F#6 => guardSome (memLegal r.m) (.amin c r.a r.b r.xc r.off (MemMode.ofBits r.m))
  | 0x10#6 => guardSome (memLegal r.m) (.amax c r.a r.b r.xc r.off (MemMode.ofBits r.m))
  | 0x11#6 => guardSome (memLegal r.m) (.aswp c r.a r.b r.xc r.off (MemMode.ofBits r.m))
  | 0x12#6 => guardSome (memLegal r.m) (.cas c r.a r.b r.xc r.off (MemMode.ofBits r.m))
  | 0x13#6 => guardSome (memLegal r.m && even7 r.a && even6 r.xc && r.xc != 0) (.casx c r.a r.b r.xc r.off (MemMode.ofBits r.m))
  | 0x14#6 =>
    if memLegal r.m && r.m.toNat < 16 && r.xc == 0 then some (.rupdAdjoint c r.a r.b r.off (MemMode.ofBits r.m))
    else if memLegal r.m && r.m.toNat < 16 && r.xc == 1 then some (.rupdQ64Add c r.a r.b r.off (MemMode.ofBits r.m))
    else if memLegal r.m && r.m.toNat < 16 && r.xc == 2 then some (.rupdFp32Add c r.a r.b r.off (MemMode.ofBits r.m))
    else if memLegal r.m && r.m.toNat < 16 && r.xc == 3 then some (.rupdIntAdd c r.a r.b r.off (MemMode.ofBits r.m))
    else if memLegal r.m && r.m.toNat < 16 && r.xc == 4 then some (.rupdMin c r.a r.b r.off (MemMode.ofBits r.m))
    else if memLegal r.m && r.m.toNat < 16 && r.xc == 5 then some (.rupdMax c r.a r.b r.off (MemMode.ofBits r.m))
    else if memLegal r.m && r.m.toNat < 16 && r.xc == 6 then some (.rupdOr c r.a r.b r.off (MemMode.ofBits r.m))
    else if memLegal r.m && r.m.toNat < 16 && r.xc == 7 then some (.rupdAnd c r.a r.b r.off (MemMode.ofBits r.m))
    else none
  | 0x15#6 => guardSome (r.xis.isEmpty && r.m == 0) (.spawn c r.a r.b r.xc)
  | 0x16#6 => guardSome (r.xis.isEmpty && r.m == 0 && r.fb == 0 && r.bhi == 0 && r.xc == 0) (.cpreq c r.a)
  | 0x17#6 => guardSome (!r.hasXR && r.xis.isEmpty && r.m == 0 && r.fa == 0 && r.fb == 0) (.cpseal c)
  | 0x18#6 => guardSome (!r.hasXR && r.m == 0 && r.fa == 0) (.cpwait c (r.immU 5))
  | 0x19#6 =>
    if !r.hasXR && r.xis.isEmpty && r.m == 0 && r.fb == 0 then some (.mbget c r.fa)
    else if !r.hasXR && r.xis.isEmpty && r.m == 1 && r.fb == 0 then some (.mbgetNw c r.fa)
    else none
  | 0x1A#6 => guardSome (!r.hasXR && r.xis.isEmpty && r.m == 0) (.xfer c r.fa r.fb)
  | 0x1B#6 => guardSome (!r.hasXR && r.xis.isEmpty && r.m == 0) (.mbpost c r.fa r.fb)
  | 0x1C#6 => guardSome (!r.hasXR && r.xis.isEmpty && r.fb == 0 && r.m.toNat < 4) (.xpush c r.fa (r.mbit 0) (r.mbit 1))
  | 0x1D#6 => guardSome (r.xis.isEmpty && r.fb == 0 && r.bhi == 0 && r.xc == 0 && 1 <= r.a.toNat && r.a.toNat <= 122) (.pfs c r.a r.vm (r.mbit 4))
  | 0x1E#6 => guardSome (r.fa == 0 && r.ahi == 0 && r.xc == 0 && r.m.toNat < 2) (.pfx c r.b r.off (r.mbit 0))
  | 0x1F#6 => guardSome (!r.hasXR && r.m == 0 && r.fa.toNat < 8 && r.immU 5 != 0) (.cwait c (r.fa.setWidth 3) (r.immU 5))
  | 0x20#6 => guardSome (!r.hasXR && r.m == 0 && r.fa.toNat < 8 && r.immU 5 != 0) (.cfree c (r.fa.setWidth 3) (r.immU 5))
  | 0x21#6 => guardSome (!r.hasXR && r.m == 0 && r.fa.toNat < 8 && r.immU 5 != 0) (.cadv c (r.fa.setWidth 3) (r.immU 5))
  | 0x22#6 => guardSome (!r.hasXR && r.m == 0 && r.fa.toNat < 8 && r.immU 5 != 0) (.cpost c (r.fa.setWidth 3) (r.immU 5))
  | 0x23#6 => guardSome (r.xis.isEmpty && r.xc == 0 && r.m.toNat < 8) (.smap c r.a r.b (r.m.setWidth 3))
  | 0x24#6 => guardSome (!r.hasXR && r.xis.isEmpty && r.fa == 0 && r.fb == 0 && r.m.toNat < 8) (.sunmap c (r.m.setWidth 3))
  | 0x25#6 => guardSome (!r.hasXR && r.xis.isEmpty && r.fa == 0 && r.fb == 0 && r.m.toNat < 8) (.sflush c (r.m.setWidth 3))
  | 0x26#6 => guardSome (r.xis.isEmpty && r.m == 0 && r.ahi == 0 && r.xc == 0 && r.fa.toNat < 8) (.hcfg c (r.fa.setWidth 3) r.b)
  | _ => none

/-- The base words of opcode page 3 (R44). `none` is an encoding the page's entries refuse. -/
def decodePage3 (c : Chain) (r : Raw) : Option Instr :=
  match r.code with
  | 0x00#6 =>
    if !r.hasXR && r.xis.isEmpty && r.m == 0 && r.fa == 0 && cfgLegal r.fb then some (.fmtset c r.fb)
    else if !r.hasXR && r.xis.isEmpty && r.m == 0 && r.fa == 0 && r.fb == 0 then some (.fmtsetRelease c)
    else none
  | 0x01#6 => guardSome (r.xis.isEmpty && r.m == 0 && r.fb == 0 && r.bhi == 0 && r.xc == 0) (.fmtrd c r.a)
  | 0x02#6 => guardSome (!r.hasXR && r.xis.isEmpty && r.m == 0 && r.fa.toNat < 4 && 1 <= r.fb.toNat && r.fb.toNat <= 16) (.mma c (r.fa.setWidth 2) r.fb)
  | 0x03#6 => guardSome (!r.hasXR && r.xis.isEmpty && r.fa.toNat < 16 && r.laneM && 1 <= r.fb.toNat && r.fb.toNat <= 16) (.mmat c (r.fa.setWidth 2) (r.fa.extractLsb' 2 2) r.fb r.vm)
  | 0x04#6 => guardSome (!r.hasXR && r.xis.isEmpty && r.m == 0 && r.fa.toNat < 4 && 1 <= r.fb.toNat && r.fb.toNat <= 16) (.mmasp c (r.fa.setWidth 2) r.fb)
  | 0x05#6 => guardSome (!r.hasXR && r.xis.isEmpty && r.m == 0 && r.fb == 0 && r.fa.toNat < 4) (.tzero c (r.fa.setWidth 2))
  | 0x06#6 => guardSome (!r.hasXR && r.xis.isEmpty && r.vecA && r.m.toNat < 8) (.trd c r.va (r.m.setWidth 2) (r.m.extractLsb' 2 1 ++ r.fb))
  | 0x07#6 => guardSome (!r.hasXR && r.xis.isEmpty && r.vecA && r.m.toNat < 8) (.twr c r.va (r.m.setWidth 2) (r.m.extractLsb' 2 1 ++ r.fb))
  | 0x08#6 => guardSome (r.ahi == 0 && r.xc == 0 && r.fa.toNat < 4 && r.m.toNat < 4 && r.m != 0) (.tld c (r.fa.setWidth 2) r.b r.off (r.m.setWidth 2))
  | 0x09#6 => guardSome (r.ahi == 0 && r.xc == 0 && r.fa.toNat < 4 && r.m.toNat < 4 && r.m != 0) (.tst c (r.fa.setWidth 2) r.b r.off (r.m.setWidth 2))
  | 0x0A#6 => guardSome (r.ahi == 0 && r.xc == 0 && r.fa.toNat < 4 && r.m.toNat < 4 && r.m != 0) (.tstt c (r.fa.setWidth 2) r.b r.off (r.m.setWidth 2))
  | 0x0B#6 => guardSome (r.xis.isEmpty && r.bhi == 0 && r.xc == 0 && r.fb.toNat < 16 && r.m.toNat < 4) (.qblk c r.a (r.m.setWidth 2) (r.fb.setWidth 4))
  | 0x0C#6 => guardSome (r.xis.isEmpty && r.hasXR && r.vecA && r.vecB && r.m.toNat < 4) (.vqnt c r.va r.vb r.xc (r.m.setWidth 2))
  | 0x0D#6 => guardSome (r.xis.isEmpty && r.hasXR && r.vecA && r.vecB && r.m.toNat < 4) (.vdqnt c r.va r.vb r.xc (r.m.setWidth 2))
  | 0x0E#6 => guardSome (r.xis.isEmpty && r.fb == 0 && r.bhi == 0 && r.xc == 0 && r.m.toNat < 2) (.scpush c r.a (r.mbit 0))
  | 0x0F#6 => guardSome (r.ahi == 0 && r.xc == 0 && r.m == 0 && r.fa.toNat < 16 && r.fa.setWidth 2 != r.fa.extractLsb' 2 2) (.rgrow c (r.fa.setWidth 2) (r.fa.extractLsb' 2 2) r.b r.off)
  | 0x10#6 => guardSome (!r.hasXR && r.xis.isEmpty && r.m == 0 && r.fa == 0 && r.fb == 0) (.msync c)
  | _ => none

/-- The base words of opcode page 4 (R44). `none` is an encoding the page's entries refuse. DESIGN CHOICE: CBNEXT with a = 127, whose
second register would be g128, is one of them (R390; notes/assumptions/39.md). -/
def decodePage4 (c : Chain) (r : Raw) : Option Instr :=
  match r.code with
  | 0x00#6 => guardSome (r.xis.isEmpty && r.m == 0 && r.fb == 0 && r.bhi == 0 && r.xc == 0) (.tqadd c r.a)
  | 0x01#6 => guardSome (r.xis.isEmpty && r.m == 0 && r.xc == 0) (.depadd c r.a r.b)
  | 0x02#6 => guardSome (r.xis.isEmpty && r.m == 0 && r.fb == 0 && r.bhi == 0 && r.xc == 0) (.cancel c r.a)
  | 0x03#6 => guardSome (r.xis.isEmpty && r.m == 0 && r.hasXR && 1 <= r.xc.toNat && r.xc.toNat <= 62) (.cbpush c r.a r.b r.xc)
  | 0x04#6 => guardSome (!r.hasXR && r.xis.isEmpty && r.m == 0 && r.fa == 0 && r.fb == 0) (.cbseal c)
  | 0x05#6 => guardSome (r.xis.isEmpty && r.m == 0 && r.fb == 0 && r.bhi == 0 && r.xc == 0 && 1 <= r.a.toNat && r.a.toNat <= 126) (.cbnext c r.a)
  | 0x06#6 => guardSome (r.xis.isEmpty && r.m == 0 && r.fb == 0 && r.bhi == 0 && r.xc == 0) (.cbdone c r.a)
  | 0x07#6 => guardSome (r.hasXR && r.vecA && r.va.toNat <= 12 && (r.m == 0 || r.m == 12)) (.mcst c r.va r.b r.xc r.off (r.m == 12))
  | 0x08#6 => guardSome (r.xis.isEmpty && r.m == 0 && r.fb == 0 && r.bhi == 0 && r.xc == 0) (.mcwait c r.a)
  | 0x09#6 => guardSome (r.xc == 0 && r.m == 0) (.ffence c r.a r.b r.off)
  | 0x0A#6 =>
    if !r.hasXR && r.xis.isEmpty && r.m == 0 && r.fa == 0 && r.fb == 0 then some (.eret c)
    else if !r.hasXR && r.xis.isEmpty && r.m == 1 && r.fa == 0 && r.fb == 0 then some (.eretNext c)
    else none
  | 0x0B#6 => guardSome (!r.hasXR && r.xis.isEmpty && r.m == 0) (.svc c (r.fa ++ r.fb))
  | 0x0C#6 =>
    if r.xis.isEmpty && r.m == 0 && r.fb == 0 && r.bhi == 0 && r.xc == 0 then some (.tlbinvVa c r.a)
    else if r.xis.isEmpty && r.m == 1 && r.a == 0 && r.fb == 0 && r.bhi == 0 && r.xc == 0 then some (.tlbinvCtx c)
    else if r.xis.isEmpty && r.m == 2 && r.fb == 0 && r.bhi == 0 && r.xc == 0 then some (.tlbinvReg c r.a)
    else none
  | _ => none

/-- Step 2 of R39: the instruction a complete chain encodes. The base word is the halfword reported (R40). DEDUCED: word 0x0400 behind an
XP is code 0x01 of that page with a = b = 0, which R44 lists, where R46 has it trap as a NOP (notes/assumptions/68.md). -/
def decodeRaw (r : Raw) : Except Reject Instr :=
  let found :=
    if r.page == 0 then decodePage0 r.chain r
    else if r.page == 1 then decodePage1 r.chain r
    else if r.page == 2 then decodePage2 r.chain r
    else if r.page == 3 then decodePage3 r.chain r
    else decodePage4 r.chain r
  match found with
  | some i => .ok i
  | none => .error ⟨r.nprefix, r.word, 2 * (r.nprefix + 1)⟩

/-- What a list of halfwords holds at its front. -/
inductive Decoded where
  /-- An instruction, and the halfwords after it. -/
  | ok (i : Instr) (rest : List Half)
  /-- A chain that traps ILLEGAL (R40). -/
  | illegal (e : Reject)
  /-- The list ends inside a chain. -/
  | short
deriving DecidableEq, Repr

/-- Decode from a chain's start, with the prefixes `p` already taken. -/
def decodeFrom (p : Pre) : List Half → Decoded
  | [] => .short
  | h :: rest =>
    match pushHalf p h with
    | .more p' => decodeFrom p' rest
    | .bad e => .illegal e
    | .done r =>
      match decodeRaw r with
      | .ok i => .ok i rest
      | .error e => .illegal e

/-- The decoder: total on any list of halfwords. -/
def decode (hs : List Half) : Decoded := decodeFrom {} hs

/-- A halfword from its two bytes, the low byte first (R25). -/
def halfOfBytes (lo hi : Byte) : Half := hi ++ lo

/-- The halfwords of a list of bytes in address order (R25). -/
def halvesOfBytes : List Byte → List Half
  | lo :: hi :: rest => halfOfBytes lo hi :: halvesOfBytes rest
  | _ => []

/-- A halfword with code 0x3C to 0x3F is a prefix (R27). -/
def isPrefix (h : Half) : Bool := decide ((h.extractLsb' 10 6).toNat ≥ 0x3C)

/-- The halfwords, in address order, of a word of spec/opcode_table.json: the table writes the prefix of a two-halfword
row in bits 31..16 (notes/assumptions/6.md). -/
def tableHalves (nbits w : Nat) : List Half :=
  if nbits ≤ 16 then [BitVec.ofNat 16 w]
  else
    let hi := BitVec.ofNat 16 (w / 65536)
    let lo := BitVec.ofNat 16 w
    if isPrefix hi then [hi, lo] else [lo, hi]

/-- The instruction a word of the opcode table stands for. Halfwords above the table's bits are zero. -/
def decodeTableWord (nbits w : Nat) : Option Instr :=
  match decode (tableHalves nbits w ++ [0, 0, 0]) with
  | .ok i _ => some i
  | _ => none

/-! The encoder. -/

/-- XR bits above field a of a register. -/
def hi7 (r : Reg) : BitVec 2 := r.extractLsb' 5 2
/-- Base-word bits of a register. -/
def lo7 (r : Reg) : BitVec 5 := r.extractLsb' 0 5
/-- The low five bits of an immediate. -/
def lo5 (v : Word) : BitVec 5 := v.extractLsb' 0 5
/-- A four-bit number in a five-bit field. -/
def vf (v : BitVec 4) : BitVec 5 := v.setWidth 5
/-- A vector register in XR[5:0]. -/
def vc (v : BitVec 4) : BitVec 6 := v.setWidth 6
/-- Bit `k` of a five-bit field. -/
def bit5 (b : Bool) (k : Nat) : BitVec 5 := if b then (1 : BitVec 5) <<< k else 0
/-- The payloads of `k` XI prefixes that carry `v`, the highest bits first (R28). -/
def xisOf (k : BitVec 2) (v : Word) : List (BitVec 10) :=
  if k == 0 then []
  else if k == 1 then [v.extractLsb' 0 10]
  else if k == 2 then [v.extractLsb' 10 10, v.extractLsb' 0 10]
  else [v.extractLsb' 20 10, v.extractLsb' 10 10, v.extractLsb' 0 10]

/-- A chain from its fields. -/
def Raw.mk1 (c : Chain) (page : BitVec 4) (code : BitVec 6) (ahi : BitVec 2) (fa : BitVec 5) (bhi : BitVec 2)
    (fb : BitVec 5) (xc : BitVec 6) (m : BitVec 5) (xis : List (BitVec 10)) : Raw :=
  { page := page, word := code ++ fa ++ fb, hasXR := c.hasXR, xr := ahi ++ bhi ++ xc, hasXQ := c.hasXQ,
    guard := c.guard, inv := c.inv, m := m, xis := xis }

/-- A UDF chain: its fields are free (R45). -/
def Raw.mk0 (c : Chain) (code : BitVec 6) (n : BitVec 10) (xr : BitVec 10) (m : BitVec 5)
    (xis : List (BitVec 10)) : Raw :=
  { page := 0, word := code ++ n, hasXR := c.hasXR, xr := xr, hasXQ := c.hasXQ,
    guard := c.guard, inv := c.inv, m := m, xis := xis }


/-- The chain of `i`, if `i` is an instruction and not an event. -/
def Instr.chain (i : Instr) : Chain :=
  match i with
  | .udf c _ _ _ _ => c
  | .nop c => c
  | .mov c _ _ => c
  | .movi c _ _ => c
  | .add c _ _ _ => c
  | .sub c _ _ _ => c
  | .addi c _ _ => c
  | .mul c _ _ _ => c
  | .mulh c _ _ _ => c
  | .mulhu c _ _ _ => c
  | .div c _ _ _ => c
  | .divu c _ _ _ => c
  | .rem c _ _ _ => c
  | .remu c _ _ _ => c
  | .and c _ _ _ => c
  | .or c _ _ _ => c
  | .xor c _ _ _ => c
  | .andi c _ _ => c
  | .ori c _ _ => c
  | .xori c _ _ => c
  | .shl c _ _ _ => c
  | .shr c _ _ _ => c
  | .sar c _ _ _ => c
  | .shli c _ _ => c
  | .shri c _ _ => c
  | .sari c _ _ => c
  | .clz c _ _ => c
  | .popc c _ _ => c
  | .min c _ _ _ => c
  | .max c _ _ _ => c
  | .ceq c _ _ _ => c
  | .cne c _ _ _ => c
  | .clt c _ _ _ => c
  | .cle c _ _ _ => c
  | .cltu c _ _ _ => c
  | .cleu c _ _ _ => c
  | .ceqi c _ _ _ => c
  | .prd c _ => c
  | .pwr c _ => c
  | .br c _ => c
  | .bl c _ _ => c
  | .jr c _ _ => c
  | .loop c _ _ => c
  | .endThread c => c
  | .ldb c _ _ _ _ => c
  | .ldh c _ _ _ _ => c
  | .ldw c _ _ _ _ => c
  | .ldd c _ _ _ _ => c
  | .sextB c _ _ => c
  | .sextH c _ _ => c
  | .sextW c _ _ => c
  | .stb c _ _ _ _ => c
  | .sth c _ _ _ _ => c
  | .stw c _ _ _ _ => c
  | .std c _ _ _ _ => c
  | .mfs c _ _ => c
  | .mts c _ _ => c
  | .trap c _ => c
  | .fenceFull c _ => c
  | .fenceAcq c _ => c
  | .fenceRel c _ => c
  | .fenceIfetch c _ => c
  | .waitr c _ => c
  | .muli c _ _ => c
  | .gbar c => c
  | .fadd c _ _ _ => c
  | .fsub c _ _ _ => c
  | .fmul c _ _ _ => c
  | .ffma c _ _ _ => c
  | .fdiv c _ _ _ => c
  | .fsqrt c _ _ => c
  | .fmin c _ _ _ => c
  | .fmax c _ _ _ => c
  | .fceq c _ _ _ => c
  | .fclt c _ _ _ => c
  | .fcle c _ _ _ => c
  | .fcvti c _ _ => c
  | .fcvtiRz c _ _ => c
  | .icvtf c _ _ => c
  | .icvtfU c _ _ => c
  | .vadd c _ _ _ => c
  | .vsub c _ _ _ => c
  | .vmul c _ _ _ => c
  | .vfma c _ _ _ => c
  | .vmax c _ _ _ => c
  | .vmin c _ _ _ => c
  | .viadd c _ _ _ => c
  | .vbcast c _ _ => c
  | .vextr c _ _ _ => c
  | .vins c _ _ _ => c
  | .vsum c _ _ => c
  | .vmaxr c _ _ => c
  | .vld c _ _ _ _ => c
  | .vst c _ _ _ _ => c
  | .vldx c _ _ _ _ => c
  | .vstx c _ _ _ _ => c
  | .vcvtBf16Fp32 c _ _ => c
  | .vcvtFp32Bf16 c _ _ => c
  | .vcvtDl8Fp32 c _ _ => c
  | .vcvtFp32Dl8 c _ _ => c
  | .vsel c _ _ _ => c
  | .ldaw c _ _ _ _ _ => c
  | .ldat c _ _ _ _ _ => c
  | .sta c _ _ _ => c
  | .vlda c _ _ _ _ _ => c
  | .vsta c _ _ _ => c
  | .itadv c _ => c
  | .dmode c _ => c
  | .adjrd c _ _ _ _ => c
  | .adjwr c _ _ _ _ => c
  | .lr c _ _ _ _ => c
  | .sc c _ _ _ _ _ => c
  | .aadd c _ _ _ _ _ => c
  | .aand c _ _ _ _ _ => c
  | .aor c _ _ _ _ _ => c
  | .axor c _ _ _ _ _ => c
  | .amin c _ _ _ _ _ => c
  | .amax c _ _ _ _ _ => c
  | .aswp c _ _ _ _ _ => c
  | .cas c _ _ _ _ _ => c
  | .casx c _ _ _ _ _ => c
  | .rupdAdjoint c _ _ _ _ => c
  | .rupdQ64Add c _ _ _ _ => c
  | .rupdFp32Add c _ _ _ _ => c
  | .rupdIntAdd c _ _ _ _ => c
  | .rupdMin c _ _ _ _ => c
  | .rupdMax c _ _ _ _ => c
  | .rupdOr c _ _ _ _ => c
  | .rupdAnd c _ _ _ _ => c
  | .spawn c _ _ _ => c
  | .cpreq c _ => c
  | .cpseal c => c
  | .cpwait c _ => c
  | .mbget c _ => c
  | .mbgetNw c _ => c
  | .xfer c _ _ => c
  | .mbpost c _ _ => c
  | .xpush c _ _ _ => c
  | .pfs c _ _ _ => c
  | .pfx c _ _ _ => c
  | .cwait c _ _ => c
  | .cfree c _ _ => c
  | .cadv c _ _ => c
  | .cpost c _ _ => c
  | .smap c _ _ _ => c
  | .sunmap c _ => c
  | .sflush c _ => c
  | .hcfg c _ _ => c
  | .fmtset c _ => c
  | .fmtsetRelease c => c
  | .fmtrd c _ => c
  | .mma c _ _ => c
  | .mmat c _ _ _ _ => c
  | .mmasp c _ _ => c
  | .tzero c _ => c
  | .trd c _ _ _ => c
  | .twr c _ _ _ => c
  | .tld c _ _ _ _ => c
  | .tst c _ _ _ _ => c
  | .tstt c _ _ _ _ => c
  | .qblk c _ _ _ => c
  | .vqnt c _ _ _ _ => c
  | .vdqnt c _ _ _ _ => c
  | .scpush c _ _ => c
  | .rgrow c _ _ _ _ => c
  | .msync c => c
  | .tqadd c _ => c
  | .depadd c _ _ => c
  | .cancel c _ => c
  | .cbpush c _ _ _ => c
  | .cbseal c => c
  | .cbnext c _ => c
  | .cbdone c _ => c
  | .mcst c _ _ _ _ _ => c
  | .mcwait c _ => c
  | .ffence c _ _ _ => c
  | .eret c => c
  | .eretNext c => c
  | .svc c _ => c
  | .tlbinvVa c _ => c
  | .tlbinvCtx c => c
  | .tlbinvReg c _ => c
  | .notificationRecord _ => default
  | .supervisorAction _ _ => default
  | .futureComplete _ _ => default
  | .gangSpill _ _ => default
  | .gangRestore _ => default
  | .threadLoadComplete _ => default
  | .accessReply _ _ => default
  | .endDrainComplete _ => default
  | .tlbWalkComplete _ _ => default
  | .homeRequest _ _ _ => default
  | .retryTimerExpire _ _ => default
  | .fillArrive _ _ => default
  | .invalidationArrive _ _ => default
  | .invalidationAck _ _ => default
  | .stampedStoreHome _ => default
  | .weirlimExpire _ => default
  | .rmwAtHome _ => default
  | .rupdApply _ => default
  | .lossNotice _ _ => default
  | .waitrTimeout _ => default
  | .rillAccept _ => default
  | .rillMigrate _ _ => default
  | .copyComplete _ _ _ => default
  | .mmaAccept _ => default
  | .mmaTileWrite _ => default
  | .launchParse _ => default
  | .launchSweep _ => default
  | .taskAdmit _ => default
  | .deficitCharge _ => default
  | .reservationStart _ _ => default
  | .workSteal _ => default
  | .coreContextScrub _ _ => default
  | .hostSnoop _ _ => default
  | .hostAccess _ => default
  | .backInvalidationAnswer _ _ => default
  | .completionTimeout _ => default
  | .linkDown _ => default
  | .peerRequest _ => default
  | .peerStoreRefused _ _ _ => default
  | .peerTableUpdate _ _ _ => default
  | .mcstAnswer _ _ _ => default
  | .coldReset => default
  | .measurementExtend _ _ _ => default
  | .attestationRequest _ => default
  | .auditAppend _ _ => default
  | .selfTestVerdict _ _ => default
  | .contextCreate _ => default
  | .contextRelease _ => default
  | .scrubComplete _ _ _ => default
  | .frequencyChange _ _ => default
  | .managementRegisterWrite _ => default
  | .hostLinkUp _ => default

/-- The fields of the halfwords of `i` (the inverse of `decodeRaw`), from the encoding tables of the spec. -/
def rawOf (i : Instr) : Raw :=
  match i with
  | .udf c n xr m xis => Raw.mk0 c 0 n xr m xis
  | .nop c => Raw.mk1 c 0 0x01 (0) (0) (0) (0) (0) (0) ([])
  | .mov c a b => Raw.mk1 c 0 0x02 (hi7 a) (lo7 a) (hi7 b) (lo7 b) (0) (0) ([])
  | .movi c a imm => Raw.mk1 c 0 0x03 (hi7 a) (lo7 a) (0) (lo5 imm) (0) (0) (xisOf c.nxi (imm >>> 5))
  | .add c a b k => Raw.mk1 c 0 0x04 (hi7 a) (lo7 a) (hi7 b) (lo7 b) (k) (0) ([])
  | .sub c a b k => Raw.mk1 c 0 0x05 (hi7 a) (lo7 a) (hi7 b) (lo7 b) (k) (0) ([])
  | .addi c a imm => Raw.mk1 c 0 0x06 (hi7 a) (lo7 a) (0) (lo5 imm) (0) (0) (xisOf c.nxi (imm >>> 5))
  | .mul c a b k => Raw.mk1 c 0 0x07 (hi7 a) (lo7 a) (hi7 b) (lo7 b) (k) (0) ([])
  | .mulh c a b k => Raw.mk1 c 0 0x08 (hi7 a) (lo7 a) (hi7 b) (lo7 b) (k) (0) ([])
  | .mulhu c a b k => Raw.mk1 c 0 0x09 (hi7 a) (lo7 a) (hi7 b) (lo7 b) (k) (0) ([])
  | .div c a b k => Raw.mk1 c 0 0x0A (hi7 a) (lo7 a) (hi7 b) (lo7 b) (k) (0) ([])
  | .divu c a b k => Raw.mk1 c 0 0x0B (hi7 a) (lo7 a) (hi7 b) (lo7 b) (k) (0) ([])
  | .rem c a b k => Raw.mk1 c 0 0x0C (hi7 a) (lo7 a) (hi7 b) (lo7 b) (k) (0) ([])
  | .remu c a b k => Raw.mk1 c 0 0x0D (hi7 a) (lo7 a) (hi7 b) (lo7 b) (k) (0) ([])
  | .and c a b k => Raw.mk1 c 0 0x0E (hi7 a) (lo7 a) (hi7 b) (lo7 b) (k) (0) ([])
  | .or c a b k => Raw.mk1 c 0 0x0F (hi7 a) (lo7 a) (hi7 b) (lo7 b) (k) (0) ([])
  | .xor c a b k => Raw.mk1 c 0 0x10 (hi7 a) (lo7 a) (hi7 b) (lo7 b) (k) (0) ([])
  | .andi c a imm => Raw.mk1 c 0 0x11 (hi7 a) (lo7 a) (0) (lo5 imm) (0) (0) (xisOf c.nxi (imm >>> 5))
  | .ori c a imm => Raw.mk1 c 0 0x12 (hi7 a) (lo7 a) (0) (lo5 imm) (0) (0) (xisOf c.nxi (imm >>> 5))
  | .xori c a imm => Raw.mk1 c 0 0x13 (hi7 a) (lo7 a) (0) (lo5 imm) (0) (0) (xisOf c.nxi (imm >>> 5))
  | .shl c a b k => Raw.mk1 c 0 0x14 (hi7 a) (lo7 a) (hi7 b) (lo7 b) (k) (0) ([])
  | .shr c a b k => Raw.mk1 c 0 0x15 (hi7 a) (lo7 a) (hi7 b) (lo7 b) (k) (0) ([])
  | .sar c a b k => Raw.mk1 c 0 0x16 (hi7 a) (lo7 a) (hi7 b) (lo7 b) (k) (0) ([])
  | .shli c a imm => Raw.mk1 c 0 0x17 (hi7 a) (lo7 a) (0) (lo5 imm) (0) (0) (xisOf c.nxi (imm >>> 5))
  | .shri c a imm => Raw.mk1 c 0 0x18 (hi7 a) (lo7 a) (0) (lo5 imm) (0) (0) (xisOf c.nxi (imm >>> 5))
  | .sari c a imm => Raw.mk1 c 0 0x19 (hi7 a) (lo7 a) (0) (lo5 imm) (0) (0) (xisOf c.nxi (imm >>> 5))
  | .clz c a b => Raw.mk1 c 0 0x1A (hi7 a) (lo7 a) (hi7 b) (lo7 b) (0) (0) ([])
  | .popc c a b => Raw.mk1 c 0 0x1B (hi7 a) (lo7 a) (hi7 b) (lo7 b) (0) (0) ([])
  | .min c a b k => Raw.mk1 c 0 0x1C (hi7 a) (lo7 a) (hi7 b) (lo7 b) (k) (0) ([])
  | .max c a b k => Raw.mk1 c 0 0x1D (hi7 a) (lo7 a) (hi7 b) (lo7 b) (k) (0) ([])
  | .ceq c a b d => Raw.mk1 c 0 0x1E (hi7 a) (lo7 a) (hi7 b) (lo7 b) (0) (d) ([])
  | .cne c a b d => Raw.mk1 c 0 0x1F (hi7 a) (lo7 a) (hi7 b) (lo7 b) (0) (d) ([])
  | .clt c a b d => Raw.mk1 c 0 0x20 (hi7 a) (lo7 a) (hi7 b) (lo7 b) (0) (d) ([])
  | .cle c a b d => Raw.mk1 c 0 0x21 (hi7 a) (lo7 a) (hi7 b) (lo7 b) (0) (d) ([])
  | .cltu c a b d => Raw.mk1 c 0 0x22 (hi7 a) (lo7 a) (hi7 b) (lo7 b) (0) (d) ([])
  | .cleu c a b d => Raw.mk1 c 0 0x23 (hi7 a) (lo7 a) (hi7 b) (lo7 b) (0) (d) ([])
  | .ceqi c a imm d => Raw.mk1 c 0 0x24 (hi7 a) (lo7 a) (0) (lo5 imm) (0) (d) (xisOf c.nxi (imm >>> 5))
  | .prd c a => Raw.mk1 c 0 0x25 (hi7 a) (lo7 a) (0) (0) (0) (0) ([])
  | .pwr c a => Raw.mk1 c 0 0x26 (hi7 a) (lo7 a) (0) (0) (0) (0) ([])
  | .br c off => Raw.mk1 c 0 0x27 (0) (lo5 (off >>> 5)) (0) (lo5 off) (0) (0) (xisOf c.nxi (off >>> 10))
  | .bl c a off => Raw.mk1 c 0 0x28 (hi7 a) (lo7 a) (0) (lo5 off) (0) (0) (xisOf c.nxi (off >>> 5))
  | .jr c a b => Raw.mk1 c 0 0x29 (hi7 a) (lo7 a) (hi7 b) (lo7 b) (0) (0) ([])
  | .loop c a off => Raw.mk1 c 0 0x2A (hi7 a) (lo7 a) (0) (lo5 off) (0) (0) (xisOf c.nxi (off >>> 5))
  | .endThread c => Raw.mk1 c 0 0x2B (0) (0) (0) (0) (0) (0) ([])
  | .ldb c a b off mm => Raw.mk1 c 0 0x2C (hi7 a) (lo7 a) (hi7 b) (lo7 b) (0) (mm.bits) (xisOf c.nxi off)
  | .ldh c a b off mm => Raw.mk1 c 0 0x2D (hi7 a) (lo7 a) (hi7 b) (lo7 b) (0) (mm.bits) (xisOf c.nxi off)
  | .ldw c a b off mm => Raw.mk1 c 0 0x2E (hi7 a) (lo7 a) (hi7 b) (lo7 b) (0) (mm.bits) (xisOf c.nxi off)
  | .ldd c a b off mm => Raw.mk1 c 0 0x2F (hi7 a) (lo7 a) (hi7 b) (lo7 b) (0) (mm.bits) (xisOf c.nxi off)
  | .sextB c a b => Raw.mk1 c 0 0x30 (hi7 a) (lo7 a) (hi7 b) (lo7 b) (0) (0) ([])
  | .sextH c a b => Raw.mk1 c 0 0x30 (hi7 a) (lo7 a) (hi7 b) (lo7 b) (0) (1) ([])
  | .sextW c a b => Raw.mk1 c 0 0x30 (hi7 a) (lo7 a) (hi7 b) (lo7 b) (0) (2) ([])
  | .stb c a b off mm => Raw.mk1 c 0 0x31 (hi7 a) (lo7 a) (hi7 b) (lo7 b) (0) (mm.bits) (xisOf c.nxi off)
  | .sth c a b off mm => Raw.mk1 c 0 0x32 (hi7 a) (lo7 a) (hi7 b) (lo7 b) (0) (mm.bits) (xisOf c.nxi off)
  | .stw c a b off mm => Raw.mk1 c 0 0x33 (hi7 a) (lo7 a) (hi7 b) (lo7 b) (0) (mm.bits) (xisOf c.nxi off)
  | .std c a b off mm => Raw.mk1 c 0 0x34 (hi7 a) (lo7 a) (hi7 b) (lo7 b) (0) (mm.bits) (xisOf c.nxi off)
  | .mfs c a sr => Raw.mk1 c 0 0x35 (hi7 a) (lo7 a) (0) (sr) (0) (0) (xisOf c.nxi 0)
  | .mts c a sr => Raw.mk1 c 0 0x36 (hi7 a) (lo7 a) (0) (sr) (0) (0) (xisOf c.nxi 0)
  | .trap c n => Raw.mk1 c 0 0x37 (0) (n.extractLsb' 5 5) (0) (n.extractLsb' 0 5) (0) (0) ([])
  | .fenceFull c s => Raw.mk1 c 0 0x38 (0) (0) (0) (0) (0) (fenceBits 0 s) ([])
  | .fenceAcq c s => Raw.mk1 c 0 0x38 (0) (0) (0) (0) (0) (fenceBits 1 s) ([])
  | .fenceRel c s => Raw.mk1 c 0 0x38 (0) (0) (0) (0) (0) (fenceBits 2 s) ([])
  | .fenceIfetch c s => Raw.mk1 c 0 0x38 (0) (0) (0) (0) (0) (fenceBits 3 s) ([])
  | .waitr c a => Raw.mk1 c 0 0x39 (hi7 a) (lo7 a) (0) (0) (0) (0) ([])
  | .muli c a imm => Raw.mk1 c 0 0x3A (hi7 a) (lo7 a) (0) (lo5 imm) (0) (0) (xisOf c.nxi (imm >>> 5))
  | .gbar c => Raw.mk1 c 0 0x3B (0) (0) (0) (0) (0) (0) ([])
  | .fadd c a b k => Raw.mk1 c 1 0x00 (hi7 a) (lo7 a) (hi7 b) (lo7 b) (k) (0) ([])
  | .fsub c a b k => Raw.mk1 c 1 0x01 (hi7 a) (lo7 a) (hi7 b) (lo7 b) (k) (0) ([])
  | .fmul c a b k => Raw.mk1 c 1 0x02 (hi7 a) (lo7 a) (hi7 b) (lo7 b) (k) (0) ([])
  | .ffma c a b k => Raw.mk1 c 1 0x03 (hi7 a) (lo7 a) (hi7 b) (lo7 b) (k) (0) ([])
  | .fdiv c a b k => Raw.mk1 c 1 0x04 (hi7 a) (lo7 a) (hi7 b) (lo7 b) (k) (0) ([])
  | .fsqrt c a b => Raw.mk1 c 1 0x05 (hi7 a) (lo7 a) (hi7 b) (lo7 b) (0) (0) ([])
  | .fmin c a b k => Raw.mk1 c 1 0x06 (hi7 a) (lo7 a) (hi7 b) (lo7 b) (k) (0) ([])
  | .fmax c a b k => Raw.mk1 c 1 0x07 (hi7 a) (lo7 a) (hi7 b) (lo7 b) (k) (0) ([])
  | .fceq c a b d => Raw.mk1 c 1 0x08 (hi7 a) (lo7 a) (hi7 b) (lo7 b) (0) (d) ([])
  | .fclt c a b d => Raw.mk1 c 1 0x09 (hi7 a) (lo7 a) (hi7 b) (lo7 b) (0) (d) ([])
  | .fcle c a b d => Raw.mk1 c 1 0x0A (hi7 a) (lo7 a) (hi7 b) (lo7 b) (0) (d) ([])
  | .fcvti c a b => Raw.mk1 c 1 0x0B (hi7 a) (lo7 a) (hi7 b) (lo7 b) (0) (0) ([])
  | .fcvtiRz c a b => Raw.mk1 c 1 0x0B (hi7 a) (lo7 a) (hi7 b) (lo7 b) (0) (1) ([])
  | .icvtf c a b => Raw.mk1 c 1 0x0C (hi7 a) (lo7 a) (hi7 b) (lo7 b) (0) (0) ([])
  | .icvtfU c a b => Raw.mk1 c 1 0x0C (hi7 a) (lo7 a) (hi7 b) (lo7 b) (0) (1) ([])
  | .vadd c a b k => Raw.mk1 c 1 0x0D (0) (vf a) (0) (vf b) (vc k) (0) ([])
  | .vsub c a b k => Raw.mk1 c 1 0x0E (0) (vf a) (0) (vf b) (vc k) (0) ([])
  | .vmul c a b k => Raw.mk1 c 1 0x0F (0) (vf a) (0) (vf b) (vc k) (0) ([])
  | .vfma c a b k => Raw.mk1 c 1 0x10 (0) (vf a) (0) (vf b) (vc k) (0) ([])
  | .vmax c a b k => Raw.mk1 c 1 0x11 (0) (vf a) (0) (vf b) (vc k) (0) ([])
  | .vmin c a b k => Raw.mk1 c 1 0x12 (0) (vf a) (0) (vf b) (vc k) (0) ([])
  | .viadd c a b k => Raw.mk1 c 1 0x13 (0) (vf a) (0) (vf b) (vc k) (0) ([])
  | .vbcast c a b => Raw.mk1 c 1 0x14 (0) (vf a) (hi7 b) (lo7 b) (0) (0) ([])
  | .vextr c a b lane => Raw.mk1 c 1 0x15 (hi7 a) (lo7 a) (0) (vf b) (0) (vf lane) ([])
  | .vins c a b lane => Raw.mk1 c 1 0x16 (0) (vf a) (hi7 b) (lo7 b) (0) (vf lane) ([])
  | .vsum c a b => Raw.mk1 c 1 0x17 (hi7 a) (lo7 a) (0) (vf b) (0) (0) ([])
  | .vmaxr c a b => Raw.mk1 c 1 0x18 (hi7 a) (lo7 a) (0) (vf b) (0) (0) ([])
  | .vld c a b off mm => Raw.mk1 c 1 0x19 (0) (vf a) (hi7 b) (lo7 b) (0) (mm.bits) (xisOf c.nxi off)
  | .vst c a b off mm => Raw.mk1 c 1 0x1A (0) (vf a) (hi7 b) (lo7 b) (0) (mm.bits) (xisOf c.nxi off)
  | .vldx c a b k mm => Raw.mk1 c 1 0x1B (0) (vf a) (hi7 b) (lo7 b) (vc k) (mm.bits) ([])
  | .vstx c a b k mm => Raw.mk1 c 1 0x1C (0) (vf a) (hi7 b) (lo7 b) (vc k) (mm.bits) ([])
  | .vcvtBf16Fp32 c a b => Raw.mk1 c 1 0x1D (0) (vf a) (0) (vf b) (0) (1) ([])
  | .vcvtFp32Bf16 c a b => Raw.mk1 c 1 0x1D (0) (vf a) (0) (vf b) (0) (2) ([])
  | .vcvtDl8Fp32 c a b => Raw.mk1 c 1 0x1D (0) (vf a) (0) (vf b) (0) (3) ([])
  | .vcvtFp32Dl8 c a b => Raw.mk1 c 1 0x1D (0) (vf a) (0) (vf b) (0) (4) ([])
  | .vsel c a b k => Raw.mk1 c 1 0x1E (0) (vf a) (0) (vf b) (k) (0) ([])
  | .ldaw c a b k off lag => Raw.mk1 c 2 0x00 (hi7 a) (lo7 a) (hi7 b) (lo7 b) (k) (lag) (xisOf c.nxi off)
  | .ldat c a b k off lag => Raw.mk1 c 2 0x01 (hi7 a) (lo7 a) (hi7 b) (lo7 b) (k) (lag) (xisOf c.nxi off)
  | .sta c a b off => Raw.mk1 c 2 0x02 (hi7 a) (lo7 a) (hi7 b) (lo7 b) (0) (0) (xisOf c.nxi off)
  | .vlda c a b k off lag => Raw.mk1 c 2 0x03 (0) (vf a) (hi7 b) (lo7 b) (k) (lag) (xisOf c.nxi off)
  | .vsta c a b off => Raw.mk1 c 2 0x04 (0) (vf a) (hi7 b) (lo7 b) (0) (0) (xisOf c.nxi off)
  | .itadv c n => Raw.mk1 c 2 0x05 (0) (0) (0) (n) (0) (0) ([])
  | .dmode c n => Raw.mk1 c 2 0x06 (0) (0) (0) (n.setWidth 5) (0) (0) ([])
  | .adjrd c a b off mm => Raw.mk1 c 2 0x07 (hi7 a) (lo7 a) (hi7 b) (lo7 b) (0) (mm.bits) (xisOf c.nxi off)
  | .adjwr c a b off mm => Raw.mk1 c 2 0x08 (hi7 a) (lo7 a) (hi7 b) (lo7 b) (0) (mm.bits) (xisOf c.nxi off)
  | .lr c a b off mm => Raw.mk1 c 2 0x09 (hi7 a) (lo7 a) (hi7 b) (lo7 b) (0) (mm.bits) (xisOf c.nxi off)
  | .sc c a b k off mm => Raw.mk1 c 2 0x0A (hi7 a) (lo7 a) (hi7 b) (lo7 b) (k) (mm.bits) (xisOf c.nxi off)
  | .aadd c a b k off mm => Raw.mk1 c 2 0x0B (hi7 a) (lo7 a) (hi7 b) (lo7 b) (k) (mm.bits) (xisOf c.nxi off)
  | .aand c a b k off mm => Raw.mk1 c 2 0x0C (hi7 a) (lo7 a) (hi7 b) (lo7 b) (k) (mm.bits) (xisOf c.nxi off)
  | .aor c a b k off mm => Raw.mk1 c 2 0x0D (hi7 a) (lo7 a) (hi7 b) (lo7 b) (k) (mm.bits) (xisOf c.nxi off)
  | .axor c a b k off mm => Raw.mk1 c 2 0x0E (hi7 a) (lo7 a) (hi7 b) (lo7 b) (k) (mm.bits) (xisOf c.nxi off)
  | .amin c a b k off mm => Raw.mk1 c 2 0x0F (hi7 a) (lo7 a) (hi7 b) (lo7 b) (k) (mm.bits) (xisOf c.nxi off)
  | .amax c a b k off mm => Raw.mk1 c 2 0x10 (hi7 a) (lo7 a) (hi7 b) (lo7 b) (k) (mm.bits) (xisOf c.nxi off)
  | .aswp c a b k off mm => Raw.mk1 c 2 0x11 (hi7 a) (lo7 a) (hi7 b) (lo7 b) (k) (mm.bits) (xisOf c.nxi off)
  | .cas c a b k off mm => Raw.mk1 c 2 0x12 (hi7 a) (lo7 a) (hi7 b) (lo7 b) (k) (mm.bits) (xisOf c.nxi off)
  | .casx c a b k off mm => Raw.mk1 c 2 0x13 (hi7 a) (lo7 a) (hi7 b) (lo7 b) (k) (mm.bits) (xisOf c.nxi off)
  | .rupdAdjoint c a b off mm => Raw.mk1 c 2 0x14 (hi7 a) (lo7 a) (hi7 b) (lo7 b) (0) (mm.bits) (xisOf c.nxi off)
  | .rupdQ64Add c a b off mm => Raw.mk1 c 2 0x14 (hi7 a) (lo7 a) (hi7 b) (lo7 b) (1) (mm.bits) (xisOf c.nxi off)
  | .rupdFp32Add c a b off mm => Raw.mk1 c 2 0x14 (hi7 a) (lo7 a) (hi7 b) (lo7 b) (2) (mm.bits) (xisOf c.nxi off)
  | .rupdIntAdd c a b off mm => Raw.mk1 c 2 0x14 (hi7 a) (lo7 a) (hi7 b) (lo7 b) (3) (mm.bits) (xisOf c.nxi off)
  | .rupdMin c a b off mm => Raw.mk1 c 2 0x14 (hi7 a) (lo7 a) (hi7 b) (lo7 b) (4) (mm.bits) (xisOf c.nxi off)
  | .rupdMax c a b off mm => Raw.mk1 c 2 0x14 (hi7 a) (lo7 a) (hi7 b) (lo7 b) (5) (mm.bits) (xisOf c.nxi off)
  | .rupdOr c a b off mm => Raw.mk1 c 2 0x14 (hi7 a) (lo7 a) (hi7 b) (lo7 b) (6) (mm.bits) (xisOf c.nxi off)
  | .rupdAnd c a b off mm => Raw.mk1 c 2 0x14 (hi7 a) (lo7 a) (hi7 b) (lo7 b) (7) (mm.bits) (xisOf c.nxi off)
  | .spawn c a b k => Raw.mk1 c 2 0x15 (hi7 a) (lo7 a) (hi7 b) (lo7 b) (k) (0) ([])
  | .cpreq c a => Raw.mk1 c 2 0x16 (hi7 a) (lo7 a) (0) (0) (0) (0) ([])
  | .cpseal c => Raw.mk1 c 2 0x17 (0) (0) (0) (0) (0) (0) ([])
  | .cpwait c n => Raw.mk1 c 2 0x18 (0) (0) (0) (lo5 n) (0) (0) (xisOf c.nxi (n >>> 5))
  | .mbget c a => Raw.mk1 c 2 0x19 (0) (a) (0) (0) (0) (0) ([])
  | .mbgetNw c a => Raw.mk1 c 2 0x19 (0) (a) (0) (0) (0) (1) ([])
  | .xfer c a b => Raw.mk1 c 2 0x1A (0) (a) (0) (b) (0) (0) ([])
  | .mbpost c a b => Raw.mk1 c 2 0x1B (0) (a) (0) (b) (0) (0) ([])
  | .xpush c a q d => Raw.mk1 c 2 0x1C (0) (a) (0) (0) (0) ((bit5 d 1 ||| bit5 q 0)) ([])
  | .pfs c a stream cis => Raw.mk1 c 2 0x1D (hi7 a) (lo7 a) (0) (0) (0) ((bit5 cis 4 ||| vf stream)) ([])
  | .pfx c b off cis => Raw.mk1 c 2 0x1E (0) (0) (hi7 b) (lo7 b) (0) (bit5 cis 0) (xisOf c.nxi off)
  | .cwait c h n => Raw.mk1 c 2 0x1F (0) (h.setWidth 5) (0) (lo5 n) (0) (0) (xisOf c.nxi (n >>> 5))
  | .cfree c h n => Raw.mk1 c 2 0x20 (0) (h.setWidth 5) (0) (lo5 n) (0) (0) (xisOf c.nxi (n >>> 5))
  | .cadv c h n => Raw.mk1 c 2 0x21 (0) (h.setWidth 5) (0) (lo5 n) (0) (0) (xisOf c.nxi (n >>> 5))
  | .cpost c h n => Raw.mk1 c 2 0x22 (0) (h.setWidth 5) (0) (lo5 n) (0) (0) (xisOf c.nxi (n >>> 5))
  | .smap c a b w => Raw.mk1 c 2 0x23 (hi7 a) (lo7 a) (hi7 b) (lo7 b) (0) (w.setWidth 5) ([])
  | .sunmap c w => Raw.mk1 c 2 0x24 (0) (0) (0) (0) (0) (w.setWidth 5) ([])
  | .sflush c w => Raw.mk1 c 2 0x25 (0) (0) (0) (0) (0) (w.setWidth 5) ([])
  | .hcfg c h b => Raw.mk1 c 2 0x26 (0) (h.setWidth 5) (hi7 b) (lo7 b) (0) (0) ([])
  | .fmtset c cfg => Raw.mk1 c 3 0x00 (0) (0) (0) (cfg) (0) (0) ([])
  | .fmtsetRelease c => Raw.mk1 c 3 0x00 (0) (0) (0) (0) (0) (0) ([])
  | .fmtrd c a => Raw.mk1 c 3 0x01 (hi7 a) (lo7 a) (0) (0) (0) (0) ([])
  | .mma c d n => Raw.mk1 c 3 0x02 (0) (d.setWidth 5) (0) (n) (0) (0) ([])
  | .mmat c d t n s0 => Raw.mk1 c 3 0x03 (0) ((0#1 ++ t ++ d)) (0) (n) (0) (vf s0) ([])
  | .mmasp c d n => Raw.mk1 c 3 0x04 (0) (d.setWidth 5) (0) (n) (0) (0) ([])
  | .tzero c t => Raw.mk1 c 3 0x05 (0) (t.setWidth 5) (0) (0) (0) (0) ([])
  | .trd c a t piece => Raw.mk1 c 3 0x06 (0) (vf a) (0) (piece.extractLsb' 0 5) (0) ((0#2 ++ piece.extractLsb' 5 1 ++ t)) ([])
  | .twr c a t piece => Raw.mk1 c 3 0x07 (0) (vf a) (0) (piece.extractLsb' 0 5) (0) ((0#2 ++ piece.extractLsb' 5 1 ++ t)) ([])
  | .tld c t b off f => Raw.mk1 c 3 0x08 (0) (t.setWidth 5) (hi7 b) (lo7 b) (0) (f.setWidth 5) (xisOf c.nxi off)
  | .tst c t b off f => Raw.mk1 c 3 0x09 (0) (t.setWidth 5) (hi7 b) (lo7 b) (0) (f.setWidth 5) (xisOf c.nxi off)
  | .tstt c t b off f => Raw.mk1 c 3 0x0A (0) (t.setWidth 5) (hi7 b) (lo7 b) (0) (f.setWidth 5) (xisOf c.nxi off)
  | .qblk c a t blk => Raw.mk1 c 3 0x0B (hi7 a) (lo7 a) (0) (vf blk) (0) (t.setWidth 5) ([])
  | .vqnt c a b k q => Raw.mk1 c 3 0x0C (0) (vf a) (0) (vf b) (k) (q.setWidth 5) ([])
  | .vdqnt c a b k q => Raw.mk1 c 3 0x0D (0) (vf a) (0) (vf b) (k) (q.setWidth 5) ([])
  | .scpush c a q => Raw.mk1 c 3 0x0E (hi7 a) (lo7 a) (0) (0) (0) (bit5 q 0) ([])
  | .rgrow c w t b off => Raw.mk1 c 3 0x0F (0) ((0#1 ++ t ++ w)) (hi7 b) (lo7 b) (0) (0) (xisOf c.nxi off)
  | .msync c => Raw.mk1 c 3 0x10 (0) (0) (0) (0) (0) (0) ([])
  | .tqadd c a => Raw.mk1 c 4 0x00 (hi7 a) (lo7 a) (0) (0) (0) (0) ([])
  | .depadd c a b => Raw.mk1 c 4 0x01 (hi7 a) (lo7 a) (hi7 b) (lo7 b) (0) (0) ([])
  | .cancel c a => Raw.mk1 c 4 0x02 (hi7 a) (lo7 a) (0) (0) (0) (0) ([])
  | .cbpush c a b k => Raw.mk1 c 4 0x03 (hi7 a) (lo7 a) (hi7 b) (lo7 b) (k) (0) ([])
  | .cbseal c => Raw.mk1 c 4 0x04 (0) (0) (0) (0) (0) (0) ([])
  | .cbnext c a => Raw.mk1 c 4 0x05 (hi7 a) (lo7 a) (0) (0) (0) (0) ([])
  | .cbdone c a => Raw.mk1 c 4 0x06 (hi7 a) (lo7 a) (0) (0) (0) (0) ([])
  | .mcst c a b k off rel => Raw.mk1 c 4 0x07 (0) (vf a) (hi7 b) (lo7 b) (k) ((if rel then 12 else 0)) (xisOf c.nxi off)
  | .mcwait c a => Raw.mk1 c 4 0x08 (hi7 a) (lo7 a) (0) (0) (0) (0) ([])
  | .ffence c a b off => Raw.mk1 c 4 0x09 (hi7 a) (lo7 a) (hi7 b) (lo7 b) (0) (0) (xisOf c.nxi off)
  | .eret c => Raw.mk1 c 4 0x0A (0) (0) (0) (0) (0) (0) ([])
  | .eretNext c => Raw.mk1 c 4 0x0A (0) (0) (0) (0) (0) (1) ([])
  | .svc c n => Raw.mk1 c 4 0x0B (0) (n.extractLsb' 5 5) (0) (n.extractLsb' 0 5) (0) (0) ([])
  | .tlbinvVa c a => Raw.mk1 c 4 0x0C (hi7 a) (lo7 a) (0) (0) (0) (0) ([])
  | .tlbinvCtx c => Raw.mk1 c 4 0x0C (0) (0) (0) (0) (0) (1) ([])
  | .tlbinvReg c a => Raw.mk1 c 4 0x0C (hi7 a) (lo7 a) (0) (0) (0) (2) ([])
  | .notificationRecord _ => default
  | .supervisorAction _ _ => default
  | .futureComplete _ _ => default
  | .gangSpill _ _ => default
  | .gangRestore _ => default
  | .threadLoadComplete _ => default
  | .accessReply _ _ => default
  | .endDrainComplete _ => default
  | .tlbWalkComplete _ _ => default
  | .homeRequest _ _ _ => default
  | .retryTimerExpire _ _ => default
  | .fillArrive _ _ => default
  | .invalidationArrive _ _ => default
  | .invalidationAck _ _ => default
  | .stampedStoreHome _ => default
  | .weirlimExpire _ => default
  | .rmwAtHome _ => default
  | .rupdApply _ => default
  | .lossNotice _ _ => default
  | .waitrTimeout _ => default
  | .rillAccept _ => default
  | .rillMigrate _ _ => default
  | .copyComplete _ _ _ => default
  | .mmaAccept _ => default
  | .mmaTileWrite _ => default
  | .launchParse _ => default
  | .launchSweep _ => default
  | .taskAdmit _ => default
  | .deficitCharge _ => default
  | .reservationStart _ _ => default
  | .workSteal _ => default
  | .coreContextScrub _ _ => default
  | .hostSnoop _ _ => default
  | .hostAccess _ => default
  | .backInvalidationAnswer _ _ => default
  | .completionTimeout _ => default
  | .linkDown _ => default
  | .peerRequest _ => default
  | .peerStoreRefused _ _ _ => default
  | .peerTableUpdate _ _ _ => default
  | .mcstAnswer _ _ _ => default
  | .coldReset => default
  | .measurementExtend _ _ _ => default
  | .attestationRequest _ => default
  | .auditAppend _ _ => default
  | .selfTestVerdict _ _ => default
  | .contextCreate _ => default
  | .contextRelease _ => default
  | .scrubComplete _ _ _ => default
  | .frequencyChange _ _ => default
  | .managementRegisterWrite _ => default
  | .hostLinkUp _ => default

/-- The halfwords of a chain in address order (R25, R33). -/
def Raw.emit (r : Raw) : List Half :=
  (if r.page == 0 then [] else [0b111110#6 ++ (0#6 ++ r.page)]) ++
  (if r.hasXR then [0b111101#6 ++ r.xr] else []) ++
  (if r.hasXQ then [0b111111#6 ++ (r.guard ++ BitVec.ofBool r.inv ++ r.m)] else []) ++
  (r.xis.map fun x => 0b111100#6 ++ x) ++ [r.word]

/-- The encoder: the halfwords of a well-formed instruction, in address order. -/
def encode (i : Instr) : List Half := (rawOf i).emit

/-- The base word, which PRIV and RILLOP report (R220). -/
def Instr.baseWord (i : Instr) : Half := (rawOf i).word
/-- Length of the chain in bytes, 2 to 10 (R26). -/
def Instr.len (i : Instr) : Nat := 2 * ((rawOf i).nprefix + 1)

end Sys2Proof
end

