-- ==== Sys2Proof/Config.lean ====
section
/-!
DEFINITION. What is fixed for every AMY-6, and the values the spec leaves open.
An opaque constant below has no body: nothing in Lean can evaluate it, so a statement that mentions it holds
whatever its value is (notes/assumptions/4.md, 14.md).
-/
namespace Sys2Proof.Config

/-- Dies of a device (R12, R74). -/
abbrev dies : Nat := 6
/-- Clusters, and slices, of a die (R74, R144). -/
abbrev clusters : Nat := 64
/-- Cores of a cluster ring (R74). -/
abbrev coresPerCluster : Nat := 8
/-- Bytes of device memory: 768 GiB (R143). -/
abbrev deviceBytes : Nat := 768 * 2 ^ 30
/-- Bytes of one cistern (R182). -/
abbrev cisternBytes : Nat := 131072
/-- First byte of the cistern aperture (R185). -/
abbrev cisternAperture : Nat := 0x03FFFF0000000000
/-- First byte past the cistern aperture: R185 gives its last byte as 0x03FF_FFFF_FFFF_FFFF. -/
abbrev cisternApertureEnd : Nat := 0x0400000000000000
/-- First byte of the handle aperture (R327). -/
abbrev handleAperture : Nat := 0x03FFFE0000000000
/-- First byte past the handle aperture (R327). -/
abbrev handleApertureEnd : Nat := 0x03FFFE0001000000
/-- First byte of the sluice code range and entry of the standard sluice program (R299, R486). -/
abbrev sluiceCode : Nat := 0x03FFFD0000000000
/-- First byte past the sluice code range (R486). -/
abbrev sluiceCodeEnd : Nat := 0x03FFFD0001000000
/-- First VA that no access may use (R142). -/
abbrev vaEnd : Nat := 2 ^ 58

/-- The nth free bit: a choice the spec leaves to the device. -/
opaque freeBit : Nat → Bool
/-- The nth free number: a choice among several that the spec leaves to the device. -/
opaque freeNat : Nat → Nat
/-- The HBM bank, of its die's two stacks (R11), that holds a device address (R478): the spec gives no map within a die. -/
opaque bankOf : Nat → Nat
/-- Spare rows of an HBM bank beyond its first (R478): a bank has spares, and the spec gives no number. -/
opaque furtherSpareRows : Nat → Nat
/-- The page of host memory that the host's translation gives a page of a process address space, by PASID (R429). -/
opaque hostPage : BitVec 20 → Nat → Nat
/-- Bytes of the certificate over the public half of the device identity key (R473): its form is not in the spec. -/
opaque certificate : List (BitVec 8)
/-- Which of two fields that pop gets the older entry, for the instruction at a PC (R64): the same on every run and on every
AMY-6, since two pops are among the reproducible operations (R4, R6). -/
opaque popSwap : BitVec 64 → Bool
/-- SHA-512, which R471 and R475 name and no section of spec/ defines. -/
opaque sha512 : List (BitVec 8) → BitVec 512
/-- The ECDSA P-521 signature (r, s) of a digest under the device identity key (R473, R474): 66 bytes each. -/
opaque signature : BitVec 512 → BitVec 528 × BitVec 528
/-- The digest of the boot image that a cold reset loads as number n (R472): image contents are not in the spec. -/
opaque imageDigest : Nat → BitVec 512
/-- Whether the signature of boot image n verifies (R472): keys and images are not in the spec. -/
opaque imageVerifies : Nat → Bool

end Sys2Proof.Config
end

