-- ==== Sys2Proof/Machine/State.lean ====
section
/-!
DEFINITION. The state of the whole device as plain data, the reasons a step stops, and the state after a cold reset.
The device has 196,608 slots in 3,072 cores, 6,144 in slice cores, 384 slices and 768 GiB of memory: a state lists only
what is in use. INVENTORY.md names the rule behind each field. A field marked "model" is the model's own and no state of the spec.
-/
namespace Sys2Proof.Machine

/-- Why the machine stops. -/
inductive Fault where
  /-- A physical address outside every memory: raised by walks, records and engines when a privileged register or a
  table entry names a PA at or beyond 768 GiB (R143); the spec gives such an access no outcome. Safe: the model stops. -/
  | noMemory (addr : Nat)
deriving DecidableEq, Repr

/-- Why the model refuses a step. -/
inductive Refusal where
  /-- No meaning yet for the instruction: raised by `exec` alone. Safe. -/
  | notModelled (mnemonic : String)
deriving DecidableEq, Repr

/-- The states of a slot (R47). -/
inductive SlotState where
  | free | loading | ready | stalled | parked | draining | halted | spilling
deriving DecidableEq, Repr, Inhabited

/-- How a waiting instruction is to end apart from its own condition (model): R251, R277. -/
inductive Wake where
  | none | timeout | spurious
deriving DecidableEq, Repr, Inhabited

/-- What came back for the outstanding request of a stalled thread to the host (model): R434, R435. -/
inductive Reply where
  | none | waiting | done | unsupported | failed
  /-- The destination of an XFER is to be acknowledged, has been, or has failed to be; `src`: its source failed to answer (R303). -/
  | ending (src : Bool)
  | ended (src : Bool)
  | endFailed (src : Bool)
  /-- An XFER whose copy is under way until COPY_COMPLETE (R321). -/
  | copying
deriving DecidableEq, Repr, Inhabited

/-- A cached leaf of a TLB, with the region entry it names (R155). -/
structure TlbEntry where
  die : Nat
  ctx : Nat
  va : Nat
  span : Nat
  pte : Word
  dw0 : Word
  dw1 : Word
  dw2 : Word
deriving DecidableEq, Repr, Inhabited

/-- A state of an aged grain: its home address, data, stamp and bad sectors (R243, R492), with the accepted store that made it
(model): who issued it and its number in `State.storeClock`. -/
structure Grain where
  home : Nat
  data : List Byte
  stamp : BitVec 32
  bad : List Nat
  writer : Nat
  wrote : Nat
deriving DecidableEq, Repr, Inhabited

/-- What a thread knows of an aged grain (model; R206, R215): no later aged load of it returns a stamp below `stamp` or a
state made before store number `wrote`. -/
structure AgedSeen where
  grain : Nat
  stamp : BitVec 32
  wrote : Nat
deriving DecidableEq, Repr, Inhabited

/-- A waiting aged load (R250, R261): the page's leaf as translated at issue, the state a VLDA has found of its first grain with
the bytes it read of it, and the state that a stored grain has served the load with. -/
structure AgedWait where
  entry : TlbEntry
  got : Option (List Byte × Grain)
  served : Option Grain
deriving DecidableEq, Repr, Inhabited

/-- A store whose state the value of a register comes from, with the thread whose aged load returned it (model; R201, R215): the
numbers of that thread and of the store's writer, and of the store. -/
structure Dep where
  reader : Nat
  writer : Nat
  wrote : Nat
deriving DecidableEq, Repr, Inhabited

/-- Batch state of a thread (R306, R307). -/
structure Batch where
  ring : Vector Byte 64
  opened : Byte
  fbatch : Word
  fva : Word
  sealedNo : BitVec 32
deriving DecidableEq, Repr, Inhabited

/-- A thread in a slot: a user thread, a sluice slot's program or a rill. -/
structure Thread where
  /-- SLOTID (R74): [18] rill, [17:15] die, [14:9] cluster or slice, [8:6] core, [5:0] slot. -/
  id : Nat
  state : SlotState
  /-- Supervisor level (R55). -/
  sup : Bool
  ctx : Nat
  tenant : Nat
  /-- TASKID (R411). -/
  task : Word
  graphno : BitVec 32
  launch : Nat
  gang : Nat
  rank : BitVec 11
  size : BitVec 11
  nregs : Nat
  nvregs : Nat
  /-- First register row and first vector entry of the allotment (R56, R120). -/
  rbase : Nat
  vbase : Nat
  g : Vector Word 128
  v : Vector Vec 16
  /-- Registers and vector registers that hold an uncorrectable error (R477). -/
  badG : List Nat
  badV : List Nat
  /-- The predicate word (R62). -/
  p : BitVec 16
  pc : Word
  iter : BitVec 32
  weirlim : BitVec 32
  tapeb : Word
  tapel : Word
  tapep : Word
  dmode : BitVec 2
  trapvec : Word
  trappc : Word
  trapcause : Word
  trapval : Word
  fpcsr : BitVec 7
  rgspan : Word
  cbdesc : Word
  savearea : Word
  monctl : Word
  /-- The flume queue the thread pops, oldest first (R63). -/
  flume : List Word
  batch : Batch
  row : Option Nat
  mcPos : BitVec 16
  mcNeg : BitVec 16
  mcLow : BitVec 12
  mcOwed : Nat
  /-- The reservation the core believes the thread holds: its number and granule (R277). -/
  resv : Option (Nat × Nat)
  /-- Arrived at the gang's barrier episode (R90). -/
  arrived : Bool
  /-- Its END has entered Draining: no live member any more (R66). -/
  ended : Bool
  /-- The drain has sealed the open batch (R92). -/
  lastSealed : Bool
  /-- Core cycle at which the waiting instruction issued (R251, R293). -/
  since : Nat
  wake : Wake
  /-- The decoded instruction that waits (model): it completes as it was fetched (R43, R50, R51). -/
  held : Option Instr
  /-- The chain traps NOMAP at its next issue, with this TRAPVAL: its page future was refused (R231). -/
  nomap : Option Word
  /-- Future entry a rill or a sluice slot waits on in its slot (R54, R285). -/
  future : Option Nat
  reply : Reply
  /-- An acquire at device scope or wider came earlier in program order, so plain reads are home-coherent (R205). -/
  homeCoh : Bool
  /-- The greatest scope of the FENCEs of kind rel, full or ifetch so far: later writes are release writes at it (R202). -/
  relScope : Option Scope
  /-- Posted writes to a host port that no completion covers yet (R433). -/
  postedA : Bool
  postedB : Bool
  /-- Volatile writes are among them (R213). -/
  volatileA : Bool
  volatileB : Bool
  /-- The peer an outstanding request waits on (R441). -/
  awaits : Option Nat
  /-- Windows and handles, by core, that a stalled gather or scatter has checked (R138): 0 to 7 windows, 8 to 15 handles. -/
  pins : List (Nat × Nat)
  agedWait : Option AgedWait
  /-- The translations that a stalled instruction has used, which it goes on with (model; R167, R491). -/
  walks : List TlbEntry
  /-- HCTX under which a host request of the waiting instruction has begun, if one has (R491). -/
  asked : Option Word
  /-- What the thread's aged loads and stamped stores know (model; R206, R215). -/
  seen : List AgedSeen
  /-- Latest store, by writer, whose state an aged load returned; and as it stood at the last acquire (model; R215). -/
  heard : List (Nat × Nat)
  front : List (Nat × Nat)
  /-- The stores whose states the last aged load returned, as (writer, number); and those that the values of registers (0 to 127 general,
  128 up vectors) and of the flume queue's entries depend on (model; R67, R201, R215). -/
  got : List (Nat × Nat)
  flow : List (Nat × List Dep)
  flumeFlow : List (List Dep)
  /-- Successors that the completion of its task has counted down so far (R93, R412). -/
  counted : Nat
deriving DecidableEq, Repr, Inhabited

/-- MOESI states of a grain (R170, R171). -/
inductive Moesi where
  | modified | owned | exclusive | shared | invalid
deriving DecidableEq, Repr, Inhabited

/-- A filled grain of a cistern window: its VA, size, home address and state (R170, R183, R184). -/
structure WinFill where
  va : Nat
  size : Nat
  home : Nat
  state : Moesi
deriving DecidableEq, Repr, Inhabited

/-- A mapped cistern window (R182). -/
structure Window where
  num : Nat
  owner : Nat
  va : Nat
  f : Nat
  n : Nat
  fills : List WinFill
deriving DecidableEq, Repr, Inhabited

/-- An open prefetch stream (R189). -/
structure Stream where
  num : Nat
  ctx : Nat
  sup : Bool
  owner : Nat
  base : Word
  stride : Word
  count : Nat
  lead : Nat
  head : Nat
  cistern : Bool
deriving DecidableEq, Repr, Inhabited

/-- A mailbox entry (R300 to R302). -/
structure MailReq where
  src : Word
  dst : Word
  len : Word
  flags : Word
  tag : Word
deriving DecidableEq, Repr, Inhabited

/-- A range scoreboard entry (R309), with what MBPOST needs of its request. -/
structure Score where
  idx : Nat
  ctx : Nat
  req : MailReq
  /-- The requester's SLOTID, what the records that name it hold (R303), and its launch slot. -/
  owner : Nat
  task : Word
  rank : BitVec 11
  savearea : Word
  launch : Nat
  /-- Taken by an MBGET (R321). -/
  taken : Bool
  /-- The entries with which an XFER has translated its ranges (R303, R304). -/
  entries : List TlbEntry
deriving DecidableEq, Repr, Inhabited

/-- A batch row (R305). `batch` is used once the owner has been spilled, with where its save record's part lies. -/
structure BatchRow where
  num : Nat
  owner : Option Nat
  batch : Batch
  save : Option Nat
  /-- The translation that gave `save` (R167). -/
  entry : Option TlbEntry
deriving DecidableEq, Repr, Inhabited

/-- A general circular-buffer handle (R312). COUNT = 0: unconfigured. -/
structure Handle where
  base : Nat
  size : Nat
  count : Nat
  ch : Nat
  filled : Nat
deriving DecidableEq, Repr, Inhabited

/-- A captured step of an MMA, MMASP or MMAT that has not been applied yet (R333, R336, R338). -/
structure MmaStep where
  dst : Tile
  cfg : BitVec 5
  /-- The A operand as FP32 values from a tile (MMAT), row by row; empty otherwise. -/
  aTile : List F32
  aSlot : List Byte
  bSlot : List Byte
  aScales : List F32
  bScales : List F32
deriving DecidableEq, Repr, Inhabited

/-- A format context of the matrix unit (R328). -/
structure FmtCtx where
  holder : Option Nat
  cfg : BitVec 5
  tiles : Vector (Vector F32 1024) 4
  pending : List MmaStep
  /-- Tiles that hold an uncorrectable error (R477). -/
  badTiles : List Nat
deriving DecidableEq, Repr, Inhabited

/-- A line of an instruction cache (R169): its key, its bytes, which of its sixteen sectors are valid, and its sectors whose check
is marked bad, by key div 32. -/
structure ILine where
  key : Nat
  data : List Byte
  valid : BitVec 16
  bad : List Nat
deriving DecidableEq, Repr, Inhabited

/-- A core (its id is SLOTID[17:6]), or with id 4096 + 64 × die + slice a slice core, which has an instruction cache and none of the
rest (R282). -/
structure Core where
  id : Nat
  cycle : Nat
  ctx : Option Nat
  windows : List Window
  streams : List Stream
  mailbox : List MailReq
  score : List Score
  rows : List BatchRow
  handles : Vector Handle 8
  /-- h8 and h9: slot references, oldest first; h10 and h11: scales (R311). -/
  q8 : List Word
  q9 : List Word
  f10 : List F32
  f11 : List F32
  fmt : FmtCtx
  /-- The micro-TLB's data and instruction entries (R155). -/
  micro : List TlbEntry
  microI : List TlbEntry
  icache : List ILine
deriving DecidableEq, Repr, Inhabited

/-- A context (R482, R483, R491). -/
structure Context where
  num : Nat
  tenant : Nat
  priv : Bool
  pageroot : Word
  regiontab : Word
  supvec : Word
  hctx : Word
  /-- The Headgate accepts no launch for it any more: its release has begun (R483). -/
  closing : Bool
  /-- The scrubs of its release have started (R476, R483). -/
  scrubbing : Bool
  /-- The control-page slot that asked for the release, and the list of frame runs it named (R482, R483). -/
  releaser : Nat
  frames : Nat
  nframes : Nat
deriving DecidableEq, Repr, Inhabited

/-- An untracked copy, or any copy of an aged grain with its stamp (R179, R243). `holder` is a core's id for an L1
copy and 4096 + die for a remote-partition copy. -/
structure Copy where
  holder : Nat
  home : Nat
  size : Nat
  data : List Byte
  stamp : Option (BitVec 32)
  /-- Sectors of the copy whose check is marked bad, by home address div 32 (R481, R492). -/
  bad : List Nat
  /-- Which sectors of an untracked copy of a line are valid (R169); an aged grain is held whole. -/
  valid : BitVec 16
  /-- For an aged grain: the store that made its state, and the first store of each writer that came after it (model; R215). -/
  writer : Nat
  wrote : Nat
  later : List (Nat × Nat)
deriving DecidableEq, Repr, Inhabited

/-- A line that the local partition of its slice holds (R14, R169): which of its sectors are valid, the context whose access brought it
in, and whether it is dirty (R476). -/
structure L2Line where
  line : Nat
  valid : BitVec 16
  ctx : Nat
  dirty : Bool
deriving DecidableEq, Repr, Inhabited

/-- A grain that a core's L1 holds as a tracked copy (R169, R170): homed on the core's die, or of home 1 (R431), which a remote
partition holds too, under 4096 + its die. -/
structure Held where
  core : Nat
  grain : Nat
  size : Nat
  state : Moesi
deriving DecidableEq, Repr, Inhabited

/-- A directory entry (R171, R432). -/
structure DirEntry where
  /-- Home address of the grain and its bytes. -/
  grain : Nat
  size : Nat
  state : Moesi
  owner : Option Nat
  sharers : BitVec 64
  seq : BitVec 16
  /-- A granted transaction not yet acknowledged (R176). -/
  busy : Bool
  hostA : Bool
  hostB : Bool
deriving DecidableEq, Repr, Inhabited

/-- A fill on its way to a core's L1 (R174). -/
structure PendFill where
  core : Nat
  grain : Nat
  size : Nat
  seq : BitVec 16
  write : Bool
deriving DecidableEq, Repr, Inhabited

/-- An invalidation: in flight to a cluster, or the last one it received for a grain (R174). -/
structure Inval where
  cluster : Nat
  grain : Nat
  seq : BitVec 16
deriving DecidableEq, Repr, Inhabited

/-- What a refused request waits for (R176). -/
inductive Want where
  | grain (addr : Nat) (write : Bool)
  /-- An entry of a slice's weir table; a slot of a slice core (slice: 64 × die + slice). -/
  | weir (slice : Nat)
  | rill (slice : Nat)
deriving DecidableEq, Repr, Inhabited

/-- A refused request (R176, R177), tickets in the order in which they were granted. `slot` is the SLOTID that waits; a request
that no thread waits on has 2^20 + its core, and a rill that no SPAWN waits for 2^20 + 4096 + its spawner. -/
structure Refused where
  slot : Nat
  want : Want
  count : Nat
  ticket : Bool
deriving DecidableEq, Repr, Inhabited

/-- A reservation-table entry, oldest first in the state's list (R275). -/
structure Resv where
  slice : Nat
  granule : Nat
  holder : Nat
  rid : Nat
deriving DecidableEq, Repr, Inhabited

/-- A weir entry (R250). -/
structure Weir where
  slice : Nat
  slot : Nat
  grain : Nat
  least : BitVec 32
deriving DecidableEq, Repr, Inhabited

/-- A member of a gang: its rank, the slot it holds or the one it left when spilled, and whether it lives. The other fields keep
what the save record of a spilled member does not hold (R235): SAVEAREA and MONCTL, and what orders its later accesses. -/
structure Member where
  rank : Nat
  slot : Nat
  live : Bool
  save : Word
  monctl : Word
  relScope : Option Scope
  seen : List AgedSeen
  heard : List (Nat × Nat)
  flow : List (Nat × List Dep)
  flumeFlow : List (List Dep)
deriving DecidableEq, Repr, Inhabited

/-- Where a gang stands. -/
inductive GangState where
  | running
  /-- Restored, and not every member is in place yet (R237). -/
  | loading
  /-- Spilled, waiting for a page future entry. -/
  | future (idx : Nat)
  /-- Spilled, waiting for the next completion of any future. -/
  | anyFuture
  /-- Spilled, queued for restore. -/
  | restore
  /-- UNPLACEABLE: waits for an ACTION (R238). -/
  | unplaceable
  /-- Spilled by pre-emption: a resume entry at the head of its cluster's queue (R417). -/
  | resume
deriving DecidableEq, Repr, Inhabited

/-- A gang (R69, R70, R408, R409). -/
structure Gang where
  id : Nat
  launch : Nat
  ctx : Nat
  tenant : Nat
  sup : Bool
  task : Word
  graphno : BitVec 32
  size : Nat
  nregs : Nat
  nvregs : Nat
  pin : Bool
  save : Word
  /-- Admitting cluster (64 × die + cluster) and the clusters it spans, in order. -/
  home : Nat
  clusters : List Nat
  state : GangState
  members : List Member
  /-- Members that faulted: rank, VA, and the future entry, 1024 for none, 1025 for one that was refused (R231, R232). -/
  faulters : List (Nat × Word × Nat)
  /-- Successors that the removal of its task has counted down so far (R412). -/
  counted : Nat
  /-- The slot whose END found no other live member: its drain completes the task (R93). -/
  completer : Option Nat
  /-- Thread-cycles accrued and not yet charged to the deficit (R417). -/
  accrued : Nat
deriving DecidableEq, Repr, Inhabited

/-- A launch slot as the Headgate holds it (R402, R403). -/
structure Launch where
  accepted : Byte
  running : Bool
  ctx : Nat
  tenant : Nat
  thrcyc : Nat
  tasks : Nat
  dropped : Nat
  deperr : Nat
  escal : Nat
  /-- S and R of each agent (R420): cores, 4096 + a slice core, 8192 + an update unit, 12288 + a cluster's queues, 16384 for the
  Headgate. -/
  sent : List (Nat × Nat)
  received : List (Nat × Nat)
  /-- Roots still to be enqueued, as (cluster, task) pairs in order: every queue was full (R405, R415). -/
  roots : List (Nat × Word)
  /-- CTX.SUP of its record (R403, R414). -/
  sup : Bool
  /-- What the last sweep that found every agent idle returned for the sums (R421). -/
  sweep : Option Nat
deriving DecidableEq, Repr, Inhabited

/-- A queue entry (R415): queues are the entries of one cluster and tenant, in the order of the state's list. -/
structure QEntry where
  cluster : Nat
  tenant : Nat
  ctx : Nat
  launch : Nat
  task : Word
  /-- CTX.SUP of the launch slot applies: a root task (R414). -/
  rootSup : Bool
  /-- A resume entry: the spilled gang (R417). -/
  resume : Option Nat
  /-- A kind-3 record has been written and is not answered (R416). -/
  reported : Bool
  /-- When it was first seen at the head of its queue, by `State.now` (R418). -/
  since : Option Nat
  /-- Successors that its drop has counted down so far (R412). -/
  counted : Nat
deriving DecidableEq, Repr, Inhabited

/-- A cluster reservation (R418), in the order in which the waits reached 2^16 cycles. -/
structure Hold where
  cluster : Nat
  tenant : Nat
  clusters : List Nat
  /-- When its head's wait reached 2^16 cycles, by `State.now` (model). -/
  since : Nat
  /-- The head it was made for: its launch slot, its task, and its gang for a resume entry. -/
  launch : Nat
  task : Word
  resume : Option Nat
deriving DecidableEq, Repr, Inhabited

/-- A cancel-table entry (R419). -/
structure Cancelled where
  tenant : Nat
  inst : BitVec 32
  launch : Nat
deriving DecidableEq, Repr, Inhabited

/-- A constraint of a sweep: its level (0: deferred), the home addresses of its bodies' level-table bytes and of its list
entry, the entries that translated them (R167), and how far it is (R383, R384, R386). -/
structure Constraint where
  level : Nat
  entries : List TlbEntry
  bodies : List Nat
  entry : Nat
  handed : Bool
  done : Bool
deriving DecidableEq, Repr, Inhabited

/-- A sweep entry of a Turnout (R379 to R386), with its constraints in stream order. -/
structure Sweep where
  /-- Home address of the descriptor, which also names the die. -/
  home : Nat
  ctx : Nat
  running : Bool
  items : List Constraint
deriving DecidableEq, Repr, Inhabited

/-- A host port (R428, R435). -/
structure HostPort where
  pcie : Bool
  up : Bool
  atomics : Bool
  /-- Completions arrive at once; when false, a request waits for ACCESS_REPLY or COMPLETION_TIMEOUT. -/
  answers : Bool
  hdmBase : Nat
  /-- Posted writes lost on the link (R435). -/
  errlog : Nat
  /-- Posted writes on their way, oldest first, while completions do not arrive at once (R433, R435). -/
  posts : List (Nat × List Byte)
deriving DecidableEq, Repr, Inhabited

/-- A peer-table entry that is not (incarnation 0, down) (R436). -/
structure Peer where
  num : BitVec 12
  inc : BitVec 8
  up : Bool
  /-- Its answers arrive at once (model); when false, a request waits for ACCESS_REPLY (R441). -/
  answers : Bool
deriving DecidableEq, Repr, Inhabited

/-- What a store to a peer does there once the peer accepts it: it writes bytes at a key, or it is an update (R291, R438). -/
inductive OwedWrite where
  | bytes (key : Nat) (bs : List Byte)
  | update (r : RupdReq)
deriving DecidableEq, Repr

/-- A store to a peer that is on its way, or whose acknowledgement is (R438, R441): its slot, or a number that no slot has once the thread
has left it (R212), and the record of kind 4 that a refusal writes. -/
structure OwedStore where
  slot : Nat
  note : Note
  /-- It is volatile (R213). -/
  vol : Bool
  va : Word
  peer : Nat
  what : OwedWrite
deriving DecidableEq, Repr

/-- An export entry (R438): what a context of a peer may reach, and the context of this device whose tables translate it; or what a
peer exports to a context of this device, by page addresses of the peer, with no tables. -/
structure Export where
  peer : BitVec 12
  inc : BitVec 8
  ctx : Nat
  tables : Nat
  lo : Nat
  hi : Nat
  rd : Bool
  wr : Bool
deriving DecidableEq, Repr, Inhabited

/-- A multicast group entry that is not all zero (R443). -/
structure Group where
  num : Nat
  dw0 : Word
  dw1 : Word
deriving DecidableEq, Repr, Inhabited

/-- A notification record whose ACTION is awaited (R228): its context, its number, the supervisor block that it stands in (R491) and
what it concerns. -/
structure OutRec where
  ctx : Nat
  k : Nat
  block : Nat
  note : Note
deriving DecidableEq, Repr

/-- The security islands and the firmware state behind the management path (R471 to R485). -/
structure Island where
  /-- MR0 to MR7 of die d at 8d (R471). -/
  mr : Vector (BitVec 512) 48
  head : BitVec 512
  seq : Word
  ringBase : Nat
  ringSize : Nat
  /-- Transient counts, and used spare rows of HBM banks (die, bank), and the banks reported to firmware (R478). -/
  transients : List (TestUnit × Nat)
  spares : List ((Nat × Nat) × Nat)
  reported : List (Nat × Nat)
  freq : Vector Nat 6
  /-- Booting is not finished, or an image failed: no launch slot is parsed (R472, R484). -/
  recovery : Bool
  booted : Bool
  /-- PAs of the launch window, the island mailbox and the control page (R402, R430). -/
  lwin : Nat
  mbox : Nat
  ctrl : Nat
  /-- Accepted sequence of each control-page slot (R482). -/
  ctrlAcc : Vector Byte 32
  /-- The last attestation report (R474). -/
  report : List Byte
  /-- What the island last returned for the certificate of the identity key (R473). -/
  certificate : List Byte
deriving DecidableEq, Repr, Inhabited

/-- Which agent moves next (model). -/
inductive Pick where
  /-- Pending event number n. -/
  | event (n : Nat)
  /-- The next ready slot of a core, or of a slice core (id 4096 + 64 × die + slice). -/
  | core (id : Nat)
deriving DecidableEq, Repr, Inhabited

/-- The device. -/
structure State where
  /-- The thread whose turn it is (model: checked out of `others`). -/
  cpu : Thread
  /-- Every other thread that occupies a slot, by ascending SLOTID. -/
  others : List Thread
  cores : List Core
  /-- Cycle counts of slice cores, by 64 × die + slice (R281). -/
  sliceCycles : List (Nat × Nat)
  contexts : List Context
  /-- Memory in canonical form; the keys are laid out in Machine/Ops.lean. -/
  mem : List Host.Cell
  /-- 32-byte sectors whose check is marked bad, by address div 32 (R477). -/
  bad : List Nat
  /-- Stamps of the grains whose INIT bit is 1 (R242). -/
  stamps : List (Nat × BitVec 32)
  /-- Discarded stamped stores, by slice 64 × die + slice (R254). -/
  discards : List (Nat × Nat)
  resvs : List Resv
  nextRid : Nat
  weir : List Weir
  tlb : List TlbEntry
  /-- The translations that the fetch or the instruction under way has used so far (model; R167, R491). -/
  used : List TlbEntry
  copies : List Copy
  dirs : List DirEntry
  fills : List PendFill
  invals : List Inval
  lastInval : List Inval
  refused : List Refused
  /-- Tracked copies in the L1 caches (R170, R172, R174). -/
  tracked : List Held
  /-- Lines in the local partitions of the slices (R14, R169). -/
  l2 : List L2Line
  /-- Accepted stamped stores so far, and the store, as (writer, number), that made the state of a grain (model; R215). -/
  storeClock : Nat
  stampWrites : List (Nat × (Nat × Nat))
  gangs : List Gang
  nextGang : Nat
  launches : Vector Launch 64
  queues : List QEntry
  /-- CLUPART of cluster 64 × die + cluster (R401). -/
  clupart : Vector (BitVec 4) 384
  tencfg : Vector Word 16
  /-- Deficits by (cluster, tenant) (R417). -/
  deficits : List ((Nat × Nat) × Int)
  /-- The tenant last served, by cluster (R417). -/
  served : List (Nat × Nat)
  holds : List Hold
  cancels : List Cancelled
  sweeps : List Sweep
  portA : HostPort
  portB : HostPort
  selfNum : BitVec 12
  selfInc : BitVec 8
  peers : List Peer
  owedStores : List OwedStore
  exports : List Export
  /-- What peers export to contexts of this device (R438). -/
  grants : List Export
  groups : List Group
  island : Island
  retired : List TestUnit
  /-- Units that failed in use, retired when their user releases them (R479). -/
  failing : List TestUnit
  /-- Threads of a core that has failed, by slot, that it has still to halt (model; R50, R479). -/
  halting : List Nat
  records : List OutRec
  /-- Engine and outside events still to happen, oldest first (model). -/
  events : List Instr
  /-- Which agents move next, first first (model); when empty, events first and then the cores in turn. -/
  picks : List Pick
  /-- The core last served by the turn order (model). -/
  turn : Nat
  /-- Counter of free values (model). -/
  free : Nat
  /-- What accesses by the host and by peers, and reads by firmware, were answered, latest first; none is a negative answer (model). -/
  answers : List (Option (BitVec 128))
deriving DecidableEq, Repr

/-- No batch sealed or open. -/
def Batch.empty : Batch :=
  { ring := Vector.replicate 64 0, opened := 0, fbatch := 0, fva := 0, sealedNo := 0 }

/-- A slot that holds no thread: cleared (R61), its special registers at the values of R72. -/
def Thread.free (id : Nat) : Thread :=
  { id := id, state := .free, sup := false, ctx := 0, tenant := 0, task := 0, graphno := 0, launch := 0, gang := 0,
    rank := 0, size := 0, nregs := 0, nvregs := 0, rbase := 0, vbase := 0,
    g := Vector.replicate 128 0, v := Vector.replicate 16 0, badG := [], badV := [], p := 1, pc := 0,
    iter := 0, weirlim := 0x00100000, tapeb := 0, tapel := 0, tapep := 0, dmode := 0, trapvec := 0, trappc := 0,
    trapcause := 0, trapval := 0, fpcsr := 0, rgspan := 0, cbdesc := 0, savearea := 0, monctl := 0,
    flume := [], batch := Batch.empty, row := none, mcPos := 0, mcNeg := 0, mcLow := 0, mcOwed := 0,
    resv := none, arrived := false, ended := false, lastSealed := false, since := 0, wake := .none, held := none, nomap := none, future := none, reply := .none,
    homeCoh := false, relScope := none, postedA := false, postedB := false, volatileA := false,
    volatileB := false, awaits := none, pins := [], agedWait := none, walks := [], asked := none,
    seen := [], heard := [], front := [], got := [], flow := [], flumeFlow := [], counted := 0 }

/-- An unconfigured handle. -/
def Handle.none : Handle := { base := 0, size := 0, count := 0, ch := 0, filled := 0 }
/-- A free format context: every tile element +0 (R329). -/
def FmtCtx.none : FmtCtx :=
  { holder := Option.none, cfg := 0, tiles := Vector.replicate 4 (Vector.replicate 1024 0), pending := [], badTiles := [] }

/-- A core out of reset (R484). -/
def Core.fresh (id : Nat) : Core :=
  { id := id, cycle := 0, ctx := none, windows := [], streams := [], mailbox := [], score := [], rows := [],
    handles := Vector.replicate 8 Handle.none, q8 := [], q9 := [], f10 := [], f11 := [], fmt := FmtCtx.none,
    micro := [], microI := [], icache := [] }

/-- An idle launch slot (R402). -/
def Launch.idle : Launch :=
  { accepted := 0, running := false, ctx := 0, tenant := 0, thrcyc := 0, tasks := 0, dropped := 0, deperr := 0,
    escal := 0, sent := [], received := [], roots := [], sup := false, sweep := none }

/-- A port after reset, before firmware sets it (notes/assumptions/1.md). -/
def HostPort.fresh : HostPort :=
  { pcie := false, up := true, atomics := false, answers := true, hdmBase := 0, errlog := 0, posts := [] }

/-- The islands after reset (R471, R475, R482); notes/assumptions/1.md names the values the spec does not give. -/
def Island.fresh : Island :=
  { mr := Vector.replicate 48 0, head := 0, seq := 0, ringBase := 0, ringSize := 0, transients := [], spares := [], reported := [],
    freq := Vector.replicate 6 1100, recovery := false, booted := false, lwin := 0, mbox := 0x2000, ctrl := 0x3000,
    ctrlAcc := Vector.replicate 32 0, report := [], certificate := [] }

/-- The device right after a cold reset (R484): every slot Free, every table empty, memory with nothing listed. -/
def State.reset : State :=
  { cpu := Thread.free 0, others := [], cores := [], sliceCycles := [], contexts := [], mem := [], bad := [],
    stamps := [], discards := [], resvs := [], nextRid := 0, weir := [], tlb := [], used := [], copies := [], dirs := [],
    fills := [], invals := [], lastInval := [], refused := [], tracked := [], l2 := [], storeClock := 0, stampWrites := [], gangs := [], nextGang := 0,
    launches := Vector.replicate 64 Launch.idle, queues := [], clupart := Vector.replicate 384 0,
    tencfg := Vector.replicate 16 0x20, deficits := [], served := [], holds := [], cancels := [], sweeps := [],
    portA := HostPort.fresh, portB := HostPort.fresh, selfNum := 0, selfInc := 0, peers := [], owedStores := [], exports := [],
    grants := [], groups := [], island := Island.fresh, retired := [], failing := [], halting := [], records := [], events := [],
    picks := [], turn := 0, free := 0, answers := [] }

end Sys2Proof.Machine
end

