-- ==== Sys2Proof/Machine/Memory.lean ====
section
/-!
DEFINITION. Memory as a canonical list of cells, the layout of its keys, byte order, and the one operation through
which a write is performed at a home (R199, R271).
-/
namespace Sys2Proof.Machine

/-! Byte order: the lowest byte stands at the lowest address (R25, R118, R289). -/

/-- The number whose bytes, lowest first, are `bs`. -/
def leNat : List Byte → Nat
  | [] => 0
  | b :: bs => b.toNat + 256 * leNat bs

/-- The lowest `n` bytes of `v`, lowest first. -/
def leBytes : Nat → Nat → List Byte
  | 0, _ => []
  | n + 1, v => BitVec.ofNat 8 v :: leBytes n (v / 256)

/-! The cells. -/

namespace Memory

/-- What the byte at `a` holds: an unlisted address reads 0 (notes/assumptions/2.md). -/
def lookup : List Host.Cell → Nat → Byte
  | [], _ => 0
  | (k, b) :: rest, a => if k = a then b else lookup rest a

/-- Enter byte `b` at `a`, which is not listed, by rising address. -/
def insert : List Host.Cell → Nat → Byte → List Host.Cell
  | [], a, b => [(a, b)]
  | (k, c) :: rest, a, b => if k < a then (k, c) :: insert rest a b else (a, b) :: (k, c) :: rest

/-- Put byte `b` at `a`, keeping the canonical form. -/
def write (m : List Host.Cell) (a : Nat) (b : Byte) : List Host.Cell :=
  let m := m.filter fun c => c.1 != a
  if b = 0 then m else insert m a b

/-- Every key of the list is above `a`. -/
def above (a : Nat) : List Host.Cell → Bool
  | [] => true
  | (k, _) :: _ => decide (a < k)

/-- The canonical form: addresses strictly rising, no listed byte equal to what an unlisted address reads as. -/
def wf : List Host.Cell → Bool
  | [] => true
  | (k, b) :: rest => b != 0 && above k rest && wf rest

/-- Write consecutive bytes from `a` up. -/
def writes (m : List Host.Cell) (a : Nat) : List Byte → List Host.Cell
  | [] => m
  | b :: bs => writes (write m a b) (a + 1) bs

/-- Read `n` consecutive bytes from `a` up. -/
def reads (m : List Host.Cell) (a : Nat) : Nat → List Byte
  | 0 => []
  | n + 1 => lookup m a :: reads m (a + 1) n

end Memory

/-! Keys: one number line holds every memory of the model. -/

/-- Host memory (homes 1 and 2) by host physical address (R143). -/
def hostKey (pa : Nat) : Nat := 2 ^ 52 + pa
/-- The sluice code store of a die (R486). -/
def sluiceKey (die off : Nat) : Nat := 2 ^ 53 + die * 2 ^ 24 + off
/-- A cistern byte of a core (R182). -/
def cisternKey (core off : Nat) : Nat := 2 ^ 54 + core * 2 ^ 17 + off
/-- A byte of a peer's device memory (R143). -/
def peerKey (peer pa : Nat) : Nat := 2 ^ 56 + peer * 2 ^ 40 + pa

/-- Home slice 64 × die + slice of a device address (R144). -/
def sliceOf (pa : Nat) : Nat :=
  64 * (pa / 2 ^ 37) + ((pa / 512 % 64) ^^^ (pa / 2 ^ 15 % 64))

/-! Small list helpers: everything a kernel has to evaluate is structural. -/

/-- The first element that satisfies `p`. -/
def first? {α : Type} (p : α → Bool) : List α → Option α
  | [] => none
  | x :: xs => if p x then some x else first? p xs

/-- Remove the first element that satisfies `p`. -/
def dropFirst {α : Type} (p : α → Bool) : List α → List α
  | [] => []
  | x :: xs => if p x then xs else x :: dropFirst p xs

/-- Change the first element that satisfies `p`. -/
def mapFirst {α : Type} (p : α → Bool) (f : α → α) : List α → List α
  | [] => []
  | x :: xs => if p x then f x :: xs else x :: mapFirst p f xs

/-- The value at key `k` of an association list, or `d`. -/
def assocD {κ α : Type} [DecidableEq κ] (d : α) (k : κ) : List (κ × α) → α
  | [] => d
  | (j, x) :: xs => if j = k then x else assocD d k xs

/-- Set the value at key `k` of an association list. -/
def assocSet {κ α : Type} [DecidableEq κ] (k : κ) (v : α) : List (κ × α) → List (κ × α)
  | [] => [(k, v)]
  | (j, x) :: xs => if j = k then (k, v) :: xs else (j, x) :: assocSet k v xs

/-- The list `[0, …, n - 1]`. -/
def upTo (n : Nat) : List Nat := List.range n

/-- The least of the numbers, if any. -/
def least : List Nat → Option Nat
  | [] => none
  | x :: xs => match least xs with | none => some x | some y => some (min x y)

/-! Sectors and the end-to-end check (R477). -/

/-- The sectors that bytes `a` to `a + n - 1` touch. -/
def sectorsOf (a n : Nat) : List Nat :=
  if n = 0 then [] else (upTo ((a + n - 1) / 32 - a / 32 + 1)).map (· + a / 32)

/-- One of the bytes `a` to `a + n - 1` lies in a sector whose check is marked bad (R18, R477). -/
def State.badAt (s : State) (a n : Nat) : Bool := (sectorsOf a n).any fun k => s.bad.contains k

/-- The sectors left bad after a store of bytes `a` to `a + n - 1`: one that covers a whole sector writes it a fresh
check (R164, R477). -/
def badAfter (bad : List Nat) (a n : Nat) : List Nat :=
  bad.filter fun k => !(decide (a ≤ 32 * k) && decide (32 * k + 32 ≤ a + n))

/-- Ranges [a, a+n) and [b, b+m) share a byte. -/
def overlaps (a n b m : Nat) : Bool := decide (a < b + m) && decide (b < a + n) && decide (0 < n) && decide (0 < m)

/-- Reservation entries that a write of bytes `a` to `a + n - 1` ends (R276). -/
def State.lostBy (s : State) (a n : Nat) : List Resv := s.resvs.filter fun r => overlaps a n r.granule 64

/-- Queue a loss notice for each of the entries (R276). -/
def noticesOf (rs : List Resv) : List Instr := rs.map fun r => .lossNotice r.holder r.rid

/-- A core whose windows have lost every filled grain that a write of bytes `a` to `a + n - 1` invalidates (R184). -/
def Core.dropFills (a n : Nat) (c : Core) : Core :=
  { c with windows := c.windows.map fun w => { w with fills := w.fills.filter fun f => !overlaps a n f.home f.size } }

/-! Directory entries (R171). -/

/-- The 512-byte line of an address (R169). -/
def lineOf (a : Nat) : Nat := a / 512 * 512

/-- Clusters of a die whose bits are set, ascending. -/
def sharersOf (d : DirEntry) : List Nat := (upTo 64).filter fun c => d.sharers.getLsbD c

/-- The invalidations of every copy that a directory entry names, each with the next sequence number (R173). -/
def DirEntry.invals (d : DirEntry) : List Inval :=
  (upTo (sharersOf d).length).map fun j =>
    { cluster := 64 * (d.grain / 2 ^ 37) + (sharersOf d).getD j 0, grain := d.grain, seq := d.seq + BitVec.ofNat 16 (j + 1) }

/-- The entry once each of them has been acknowledged, and the host has given up its copies (R432): no copy is named. -/
def DirEntry.withdrawn (d : DirEntry) : DirEntry :=
  { d with state := .invalid, owner := none, sharers := 0, seq := d.seq + BitVec.ofNat 16 (sharersOf d).length, hostA := false, hostB := false }

/-- The last invalidations that clusters have received, after `i` as well (R174). -/
def noteInval (l : List Inval) (i : Inval) : List Inval := i :: l.filter fun x => !(x.cluster == i.cluster && x.grain == i.grain)

/-- A copy of an aged grain in an L1 of the die that the grain is homed on: the directory tracks it (R243, R248). -/
def Copy.trackedAged (c : Copy) : Bool := c.stamp.isSome && decide (c.holder < 4096) && c.holder / 512 == c.home / 2 ^ 37

/-- The tracked copies of aged grains that overlap bytes `a` to `a + n - 1` hold them no more. -/
def State.dropAged (s : State) (a n : Nat) : State :=
  { s with copies := s.copies.filter fun c => !(c.trackedAged && overlaps a n c.home c.size) }

/-- Every tracked copy of a grain that overlaps bytes `a` to `a + n - 1` is invalidated, in the L1 caches and in the windows, and
the invalidations are acknowledged (R171, R174, R184). DESIGN CHOICE: these invalidations wake no WAITR whose granule has not been
written, although its core may have held the grain (R277; notes/assumptions/61.md). -/
def State.withdraw (s : State) (a n : Nat) : State :=
  { s.dropAged a n with
    tracked := s.tracked.filter fun h => !overlaps a n h.grain h.size
    lastInval := ((s.dirs.filter fun d => overlaps a n d.grain d.size).flatMap DirEntry.invals).foldl noteInval s.lastInval
    dirs := s.dirs.map fun d => if overlaps a n d.grain d.size then d.withdrawn else d
    cores := s.cores.map (Core.dropFills a n) }

/-! Line monitors (R228, R231, R404, R482). -/

/-- Address of the supervisor block of a context (R226). -/
def Context.supBlock (c : Context) : Nat := (c.supvec.extractLsb' 16 36).toNat * 65536

/-- The futures of context `c` that the write of bytes `a` to `a + n - 1` of memory `m` leaves in state 2 or 3 (R231). -/
def futureEvents (m : List Host.Cell) (a n : Nat) (c : Context) : List Instr :=
  let f := c.supBlock + 0x8000
  if overlaps a n f 0x4000 then
    (((upTo (n / 16 + 2)).map (· + (a - f) / 16)).filter fun i =>
      decide (i < 1024) && overlaps a n (f + 16 * i) 8 && decide ((Memory.lookup m (f + 16 * i)).toNat % 4 ≥ 2)).map (.futureComplete c.num)
  else []

/-- The slots of an area of `k` slots of 128 bytes at `base` whose SEQ byte the write covers (R404, R482). -/
def seqEvents (base k : Nat) (e : Nat → Instr) (a n : Nat) : List Instr :=
  if overlaps a n base (128 * k) then ((upTo k).filter fun j => overlaps a n (base + 128 * j + 0x7F) 1).map e else []

/-- A request for an attestation report through the island mailbox (R474): a write of the mailbox's last byte, with the nonce that
stands in it (notes/assumptions/45.md), if every sector of it is delivered (R18, R477): `bad` are the sectors that are not. -/
def mailboxEvents (m : List Host.Cell) (bad : List Nat) (mbox a n : Nat) : List Instr :=
  if overlaps a n (mbox + 0xFFF) 1 then
    [.attestationRequest (if (sectorsOf (mbox + 0xF80) 64).any bad.contains then none
      else some (BitVec.ofNat 512 (leNat (Memory.reads m (mbox + 0xF80) 64))))]
  else []

/-- What the line monitors see of a write of bytes `a` to `a + n - 1` that left memory `m`: an ACTION of an open record, a
completed future, a SEQ byte of the control page, and once the device has started a SEQ byte of the launch window and a request in the
mailbox. -/
def State.monitored (s : State) (m : List Host.Cell) (a n : Nat) : List Instr :=
  (s.records.filter fun r => overlaps a n (r.block + 0x4000 + 64 * (r.k % 256) + 0x28) 8).map (fun r => .supervisorAction r.ctx r.k) ++
  s.contexts.flatMap (futureEvents m a n) ++
  seqEvents s.island.ctrl 32 (fun k => if Memory.lookup m (s.island.ctrl + 128 * k) = 2 then .contextRelease k else .contextCreate k) a n ++
  (if s.island.booted then seqEvents s.island.lwin 64 .launchParse a n ++ mailboxEvents m (badAfter s.bad a n) s.island.mbox a n else [])

/-- Bytes change where they are kept: a covered sector gets a fresh check, every reservation on a granule that is written is
lost, with a notice (R276), and the line monitors look at the write. -/
def State.putBytes (s : State) (a : Nat) (bs : List Byte) : State :=
  let m := Memory.writes s.mem a bs
  { s with
    mem := m
    bad := badAfter s.bad a bs.length
    resvs := s.resvs.filter fun r => !overlaps a bs.length r.granule 64
    events := s.events ++ noticesOf (s.lostBy a bs.length) ++ s.monitored m a bs.length }

/-- Bytes are written at their home (R199, R271), which first invalidates every tracked copy of them. -/
def State.homeWrite (s : State) (a : Nat) (bs : List Byte) : State := (s.withdraw a bs.length).putBytes a bs

/-- The sectors of bytes `a` to `a + n - 1` are stored with their check marked bad (R18, R477). -/
def State.markBad (s : State) (a n : Nat) : State :=
  { s with bad := s.bad ++ (sectorsOf a n).filter fun k => !s.bad.contains k }

/-- Drop the reservation entries that satisfy `p`, with a loss notice for each (R276). -/
def State.dropResv (s : State) (p : Resv → Bool) : State :=
  { s with resvs := s.resvs.filter fun r => !p r, events := s.events ++ noticesOf (s.resvs.filter p) }

/-- `n` bytes at their home as a number. -/
def State.peek (s : State) (a n : Nat) : Nat := leNat (Memory.reads s.mem a n)

/-- Write the lowest `n` bytes of `v` at a home. -/
def State.poke (s : State) (a n v : Nat) : State := s.homeWrite a (leBytes n v)

end Sys2Proof.Machine
end

