-- ==== Sys2Proof/Machine/Caches.lean ====
section
/-!
DEFINITION. The caches and directories (R14, R15, R169 to R180, R243, R248, R275): what an L1, a remote partition, an
instruction cache and a directory hold, how a line is displaced, how a grain is granted, and refusals with their tickets.
The bytes of a tracked copy are the ones kept at its home, so a tracked copy has a state and no data of its own (R175,
R178; notes/assumptions/16.md).
-/
namespace Sys2Proof.Machine

/-- The list without repeats. -/
def nub : List Nat → List Nat
  | [] => []
  | x :: xs => let ys := nub xs; if ys.contains x then ys else x :: ys

/-- A choice among `n` that the spec leaves to the device. -/
def State.pickFree (s : State) (n : Nat) : Nat × State := (Config.freeNat s.free % n, { s with free := s.free + 1 })

/-! Ways (R169, R478). The set of a line and the numbers of units are the model's (notes/assumptions/36.md). -/

/-- Ways `lo` to `lo + n - 1` of a set that are not retired. -/
def State.waysLeft (s : State) (unit set lo n : Nat) : Nat :=
  n - s.retired.countP fun u => match u with | .way x i w => x == unit && i == set && decide (lo ≤ w) && decide (w < lo + n) | _ => false

/-- Lines that core `k`'s L1 holds in a set. -/
def State.l1Lines (s : State) (k set : Nat) : List Nat :=
  (nub ((s.tracked.filter fun h => h.core == k).map (fun h => lineOf h.grain) ++
    (s.copies.filter fun c => c.holder == k).map fun c => lineOf c.home)).filter fun a => a / 512 % 16 == set

/-- A directory entry once core `k` has given up its copy in state M, O or E (R172). -/
def DirEntry.released (d : DirEntry) : DirEntry :=
  match d.state with
  | .owned => { d with state := .shared, owner := none }
  | _ => { d with state := .invalid, owner := none, sharers := 0 }

/-- Core `k`'s L1 gives up the tracked copies that satisfy `p`: one in state M, O or E tells its home, and one in state S leaves
silently (R172). -/
def State.giveUp (s : State) (k : Nat) (p : Held → Bool) : State :=
  let gone := s.tracked.filter fun h => h.core == k && p h && h.state != .shared
  { s with
    tracked := s.tracked.filter fun h => !(h.core == k && p h)
    dirs := s.dirs.map fun d => if d.owner == some k && gone.any (fun h => h.grain == d.grain) then d.released else d }

/-- Line `a` leaves core `k`'s L1: its tracked grains as R172 says, and an untracked copy silently. -/
def State.dropL1 (s : State) (k a : Nat) : State :=
  { s.giveUp k fun h => lineOf h.grain == a with copies := s.copies.filter fun c => !(c.holder == k && lineOf c.home == a) }

/-- Room for line `a` in core `k`'s L1: a full set displaces a line that the core chooses; none when every way of the set is
retired. -/
def State.fitL1 (s : State) (k a : Nat) : Option State :=
  let set := a / 512 % 16
  let lines := s.l1Lines k set
  let ways := s.waysLeft k set 0 8
  if lines.contains (lineOf a) then some s
  else if ways = 0 then none
  else if lines.length < ways then some s
  else let (j, s) := s.pickFree lines.length; some (s.dropL1 k (lines.getD j 0))

/-- Set of a line in an L2 slice. -/
def l2Set (a : Nat) : Nat := a / 2 ^ 15 % 256

/-- Lines that a die's remote partition holds in the slice and set of `a` (R14, R179). -/
def State.partLines (s : State) (die a : Nat) : List Nat :=
  (nub ((s.tracked.filter fun h => h.core == 4096 + die).map (fun h => lineOf h.grain) ++
    (s.copies.filter fun c => c.holder == 4096 + die).map fun c => lineOf c.home)).filter fun b =>
    sliceOf b % 64 == sliceOf a % 64 && l2Set b == l2Set a

/-- A die's remote partition holds the line no more. -/
def State.dropPart (s : State) (die line : Nat) : State :=
  { s with
    tracked := s.tracked.filter fun h => !(h.core == 4096 + die && lineOf h.grain == line)
    copies := s.copies.filter fun c => !(c.holder == 4096 + die && lineOf c.home == line) }

/-- Room for line `a` in a die's remote partition. -/
def State.fitPart (s : State) (die a : Nat) : Option State :=
  let lines := s.partLines die a
  let ways := s.waysLeft (8192 + 64 * die + sliceOf a % 64) (l2Set a) 14 2
  if lines.contains (lineOf a) then some s
  else if ways = 0 then none
  else if lines.length < ways then some s
  else let (j, s) := s.pickFree lines.length; some (s.dropPart die (lines.getD j 0))

/-- The sectors of a line that bytes `a` to `a + n - 1` touch, as valid bits (R169). -/
def sectorBits (a n : Nat) : BitVec 16 := (sectorsOf a n).foldl (fun m k => m ||| ((1 : BitVec 16) <<< (k % 16))) 0

/-- The sectors of bytes `a` to `a + n - 1` of the device are valid in the local partition of their slice from now on, unless every way
of the set is retired; a full set displaces a line that the slice chooses (R14, R169). Only what the directory grants enters its line
here (notes/assumptions/16.md). -/
def State.keepLine (s : State) (a n ctx : Nat) (dirty : Bool) : State :=
  let mine (x : L2Line) : Bool := sliceOf x.line == sliceOf a && l2Set x.line == l2Set a
  let set := s.l2.filter mine
  let ways := s.waysLeft (8192 + sliceOf a) (l2Set a) 0 14
  let new : L2Line := { line := lineOf a, valid := sectorBits a n, ctx := ctx, dirty := dirty }
  match first? (fun x => x.line == lineOf a) set with
  | some old => { s with l2 := { old with valid := old.valid ||| sectorBits a n, dirty := old.dirty || dirty } :: s.l2.filter fun x => x.line != lineOf a }
  | none =>
    if ways = 0 then s
    else if set.length < ways then { s with l2 := new :: s.l2 }
    else
      let (j, s) := s.pickFree set.length
      let gone := (set.map (·.line)).getD j 0
      { s with l2 := new :: s.l2.filter fun x => x.line != gone }

/-- Room with holder `h`: a core's L1, or 4096 + die for a remote partition. -/
def State.fit (s : State) (h a : Nat) : Option State := if h ≥ 4096 then s.fitPart (h - 4096) a else s.fitL1 h a

/-! The directory (R171 to R175). -/

/-- The directory entry of a grain; a new one when there is none. A line whose region changes grain keeps the entries of its old
grains (R170). -/
def State.dirEntry (s : State) (grain size : Nat) : DirEntry :=
  (first? (fun d => d.grain == grain && d.size == size) s.dirs).getD
    { grain := grain, size := size, state := .invalid, owner := none, sharers := 0, seq := 0, busy := false, hostA := false, hostB := false }

/-- Put an entry. -/
def State.putDir (s : State) (d : DirEntry) : State := { s with dirs := d :: s.dirs.filter fun e => !(e.grain == d.grain && e.size == d.size) }

/-- Entries of a slice's directory: one for each line of its local partition, and 8,192 (R169). -/
abbrev dirEntries : Nat := 256 * 14 + 8192

/-- A directory entry is displaced: every copy it names is invalidated, and every reservation on its line is lost (R171,
R276). DESIGN CHOICE: a later entry of the grain starts at number 0 again, while clusters keep the number of the last invalidation
they have received (notes/assumptions/54.md). -/
def State.displace (s : State) (d : DirEntry) : State :=
  let s := (s.withdraw d.grain d.size).dropResv fun r => lineOf r.granule == lineOf d.grain
  { s with
    dirs := s.dirs.filter fun e => !(e.grain == d.grain && e.size == d.size)
    copies := s.copies.filter fun c => !((if c.holder ≥ 4096 then c.holder - 4096 else c.holder / 512) == d.grain / 2 ^ 37 && overlaps c.home c.size d.grain d.size) }

/-- Room for an entry of `grain`: a full directory displaces one that is in no transaction and names no host copy. -/
def State.fitDir (s : State) (grain size : Nat) : State :=
  let mine := s.dirs.filter fun d => sliceOf d.grain == sliceOf grain
  if mine.any (fun d => d.grain == grain && d.size == size) || decide (mine.length < dirEntries) then s
  else
    let idle := mine.filter fun d => !d.busy && !d.hostA && !d.hostB
    let (j, s) := s.pickFree idle.length
    match idle[j]? with
    | some d => s.displace d
    | none => s

/-- Another agent reads a grain that a copy in state M or E holds alone (R170). -/
def Moesi.shared' : Moesi → Moesi
  | .modified => .owned
  | .exclusive => .shared
  | m => m

/-- The copies of bytes `a` to `a + n - 1` share them from now on. -/
def State.demote (s : State) (a n : Nat) : State :=
  { s with
    tracked := s.tracked.map fun h => if overlaps a n h.grain h.size then { h with state := h.state.shared' } else h
    cores := s.cores.map fun (c : Core) => { c with windows := c.windows.map fun w =>
      { w with fills := w.fills.map fun f => if overlaps a n f.home f.size then { f with state := f.state.shared' } else f } } }

/-- Core `k`'s L1 or a window of it holds the grain in state M. -/
def State.holdsDirty (s : State) (k g : Nat) : Bool :=
  s.tracked.any (fun h => h.core == k && h.grain == g && h.state == .modified) ||
    s.cores.any fun c => c.id == k && c.windows.any fun w => w.fills.any fun f => f.home == g && f.state == .modified

/-- The entry as its owner's copy stands: an owner in state E has written the grain without telling the directory (R170, R175). -/
def State.upgraded (s : State) (d : DirEntry) : DirEntry :=
  if d.state == .exclusive && d.owner.any (s.holdsDirty · d.grain) then { d with state := .modified } else d

/-- A request for the grain of entry `d` by core `k` has been granted (R170, R171): the entry, without its number. -/
def DirEntry.granted (d : DirEntry) (k : Nat) (write : Bool) : DirEntry :=
  let bit : BitVec 64 := 1 <<< (k / 8 % 64)
  if write then { d with state := .modified, owner := some k, sharers := bit }
  else match d.state with
    | .invalid => { d with state := .exclusive, owner := some k, sharers := bit }
    | .modified => { d with state := .owned, sharers := d.sharers ||| bit }
    | .owned => { d with sharers := d.sharers ||| bit }
    | .exclusive => { d with state := .shared, owner := none, sharers := d.sharers ||| bit }
    | .shared => { d with sharers := d.sharers ||| bit }

/-- The state in which the grain is granted. -/
def DirEntry.grants (d : DirEntry) (write : Bool) : Moesi :=
  if write then .modified else if d.state == .invalid then .exclusive else .shared

/-- Core `k`'s L1 or window is granted a grain, in one transaction that is acknowledged at once (R171 to R173): the state it
gets. A write invalidates every other copy, and a read leaves every other copy sharing the grain. -/
def State.grantNow (s : State) (k g size : Nat) (write : Bool) : Moesi × State :=
  let s := (s.fitDir g size).keepLine g size s.cpu.ctx write
  let s := if write then s.withdraw g size else s
  let d := s.upgraded (s.dirEntry g size)
  let s := if write then s else s.demote g size
  (d.grants write, s.putDir { d.granted k write with seq := d.seq + 1 })

/-- Core `k`'s L1 holds the grain in this state. The states of old grains of its line stand (R170). -/
def State.holdGrain (s : State) (h : Held) : State :=
  { s with tracked := h :: s.tracked.filter fun x => !(x.core == h.core && x.grain == h.grain && x.size == h.size) }

/-- Some L1 or window of the cluster of core `k` holds the grain. -/
def State.heldBy (s : State) (k g : Nat) : Bool :=
  s.tracked.any (fun h => h.core / 8 == k / 8 && h.grain == g) ||
    s.cores.any fun c => c.id / 8 == k / 8 && c.windows.any fun w => w.fills.any fun f => f.home == g

/-- Core `k`'s L1 or a window of it holds the grain in state M, O or E. -/
def State.ownsGrain (s : State) (k g : Nat) : Bool :=
  s.tracked.any (fun h => h.core == k && h.grain == g && h.state != .shared && h.state != .invalid) ||
    s.cores.any fun c => c.id == k && c.windows.any fun w => w.fills.any fun f => f.home == g && f.state != .shared && f.state != .invalid

/-- A window of core `k` no longer holds grain `g` (R193): the directory takes the cluster out of an entry whose grain no cache or
window of it holds any more, and names the cistern as its owner no more. -/
def State.unshare (s : State) (k g : Nat) : State :=
  if s.heldBy k g then { s with dirs := s.dirs.map fun d =>
    if d.grain == g && d.owner == some k && !s.ownsGrain k g then { d with state := .shared, owner := none } else d }
  else { s with dirs := s.dirs.map fun d =>
    if d.grain == g then
      let left := d.sharers &&& ~~~((1 : BitVec 64) <<< (k / 8 % 64))
      if left == 0 then { d with state := .invalid, owner := none, sharers := 0 }
      else if d.owner.any (fun o => o / 8 == k / 8) then { d with state := .shared, owner := none, sharers := left }
      else { d with sharers := left }
    else d }

/-! Refusals and tickets (R176, R177). -/

/-- The slice that refuses. -/
def Want.slice : Want → Nat
  | .grain a _ => sliceOf a
  | .weir k | .rill k => k

/-- Two requests wait for one resource. -/
def Want.same : Want → Want → Bool
  | .grain a _, .grain b _ => a == b
  | .weir j, .weir k => j == k
  | .rill j, .rill k => j == k
  | _, _ => false

/-- The slice may serve the request of `slot` when what it wants is free: no other request for it holds an earlier ticket
(R177). -/
def State.mayServe (s : State) (slot : Nat) (w : Want) : Bool :=
  match first? (fun r => r.ticket && r.want.same w) s.refused with
  | some r => r.slot == slot
  | none => true

/-- The request has been served: its ticket is free (R177). -/
def State.served' (s : State) (slot : Nat) (w : Want) : State :=
  { s with refused := s.refused.filter fun r => !(r.slot == slot && r.want.same w) }

/-- Refuse a request with a retry hint: the eighth refusal, or the first later one that finds an entry free, gives it one of
the slice's 64 tickets (R177). -/
def State.refuse (s : State) (slot : Nat) (w : Want) : State :=
  let mine (r : Refused) : Bool := r.slot == slot && r.want.same w
  let old := (first? mine s.refused).getD { slot := slot, want := w, count := 0, ticket := false }
  let free := decide ((s.refused.filter fun r => r.ticket && r.want.slice == w.slice).length < 64)
  let new := { old with want := w, count := old.count + 1, ticket := old.ticket || (decide (old.count + 1 ≥ 8) && free) }
  { s with refused := if old.ticket then mapFirst mine (fun _ => new) s.refused else s.refused.filter (fun r => !mine r) ++ [new] }

/-! Untracked copies and aged grains (R179, R180, R243, R248). -/

/-- The die of a copy's holder. -/
def Copy.die (c : Copy) : Nat := if c.holder ≥ 4096 then c.holder - 4096 else c.holder / 512

/-- The untracked copy of a line that `holder` holds. -/
def State.copy? (s : State) (holder line : Nat) : Option Copy :=
  first? (fun c => c.holder == holder && c.stamp.isNone && c.home == line) s.copies

/-- `holder` holds no untracked copy of the line. -/
def State.dropCopy (s : State) (holder line : Nat) : State :=
  { s with copies := s.copies.filter fun c => !(c.holder == holder && c.stamp.isNone && c.home == line) }

/-- What a cache takes of a line: its bytes, which sectors of it are valid, and which are marked bad (R169, R481). -/
structure LineData where
  data : List Byte
  valid : BitVec 16
  bad : List Nat
deriving DecidableEq, Repr

/-- A line as its home has it. -/
def State.homeLine (s : State) (line : Nat) : LineData :=
  { data := Memory.reads s.mem line 512, valid := BitVec.allOnes 16, bad := (sectorsOf line 512).filter s.bad.contains }

/-- The number of the sector of `a` in its line. -/
def sectorNo (a : Nat) : Nat := a / 32 % 16

namespace LineData
/-- The sector of `a` is valid. -/
def has (l : LineData) (a : Nat) : Bool := l.valid.getLsbD (sectorNo a)
/-- Line `l` with the sector of `a` taken from `new`. -/
def withSector (l new : LineData) (a : Nat) : LineData :=
  let o := 32 * sectorNo a
  { data := l.data.take o ++ (new.data.drop o).take 32 ++ l.data.drop (o + 32)
    valid := l.valid ||| ((1 : BitVec 16) <<< sectorNo a)
    bad := l.bad.filter (fun k => k != a / 32) ++ new.bad.filter fun k => k == a / 32 }
/-- Line `l` with every valid sector of `new`. -/
def merge (l new : LineData) (line : Nat) : LineData :=
  if new.valid == BitVec.allOnes 16 then new
  else (upTo 16).foldl (fun l j => if new.valid.getLsbD j then l.withSector new (line + 32 * j) else l) l
/-- No sector is valid. -/
def empty : LineData := { data := List.replicate 512 0, valid := 0, bad := [] }
end LineData

/-- The copy as a line. -/
def Copy.lineData (c : Copy) : LineData := { data := c.data, valid := c.valid, bad := c.bad }

/-- `holder` holds exactly this copy of the line, if it has room. -/
def State.putCopy (s : State) (holder line : Nat) (l : LineData) : State :=
  match (s.dropCopy holder line).fit holder line with
  | some s => { s with copies := { holder := holder, home := line, size := 512, data := l.data, stamp := none, bad := l.bad, valid := l.valid, writer := 0, wrote := 0, later := [] } :: s.copies }
  | none => s.dropCopy holder line

/-- Bytes `k` to `k + n - 1` of a copy that holds some of them become what memory `m` has, and their sectors as `bad` says; a sector
of the copy that keeps other bytes keeps its bad mark. -/
def Copy.sync (m : List Host.Cell) (bad : List Nat) (k n : Nat) (c : Copy) : Copy :=
  let lo := max k c.home
  let hi := min (k + n) (c.home + c.size)
  { c with
    data := c.data.take (lo - c.home) ++ Memory.reads m lo (hi - lo) ++ c.data.drop (hi - c.home)
    bad := badAfter c.bad k n ++ (sectorsOf lo (hi - lo)).filter fun b => bad.contains b && !(badAfter c.bad k n).contains b }

/-- The bytes `k` to `k + n - 1` of every untracked copy held on `die` become what they are at home: a write by an agent
of the die is seen in the die's copies (R180, R205; notes/assumptions/9.md). -/
def State.syncCopies (s : State) (die k n : Nat) : State :=
  { s with copies := s.copies.map fun c =>
      if c.die == die && c.stamp.isNone && overlaps k n c.home c.size then c.sync s.mem s.bad k n else c }

/-- The agent of slot `slot` has written bytes `k` to `k + n - 1`; one that is no thread of the device finds no copy to change. -/
def State.syncFor (s : State) (slot k n : Nat) : State := if slot < 2 ^ 19 then s.syncCopies (slot / 2 ^ 15 % 8) k n else s

/-- A write at the home by an agent of `die`. -/
def State.writeFrom (s : State) (die a : Nat) (bs : List Byte) : State := (s.homeWrite a bs).syncCopies die a bs.length

/-- The copy of an aged grain that `holder` holds. -/
def State.grainCopy? (s : State) (holder g : Nat) : Option Copy :=
  first? (fun c => c.holder == holder && c.stamp.isSome && c.home == g) s.copies

/-- A copy as a state of its grain. -/
def Copy.grain (c : Copy) : Grain :=
  { home := c.home, data := c.data, stamp := c.stamp.getD 0, bad := c.bad, writer := c.writer, wrote := c.wrote }

/-- `holder` holds no copy of the aged grain: a tracked one leaves as R172 says, any other silently. -/
def State.dropGrain (s : State) (holder g : Nat) : State :=
  let t := if s.copies.any fun c => c.holder == holder && c.home == g && c.trackedAged then s.giveUp holder fun h => h.grain == g else s
  { t with copies := s.copies.filter fun c => !(c.holder == holder && c.stamp.isSome && c.home == g) }

/-- The age of a stamp for ITER (R246). -/
def ageOf (iter stamp : BitVec 32) : Int := (iter - stamp).toInt

/-- Install a grain state with `holder`, if it has room, unless it holds a copy whose stamp is of smaller age (R248). -/
def State.installAt (s : State) (holder : Nat) (iter : BitVec 32) (g : Grain) : State :=
  match s.grainCopy? holder g.home with
  | some old => if decide (ageOf iter (old.stamp.getD 0) < ageOf iter g.stamp) then s else put s
  | none => put s
where
  put (s : State) : State :=
    match (s.dropGrain holder g.home).fit holder g.home with
    | some s => { s with copies := { holder := holder, home := g.home, size := g.data.length, data := g.data, stamp := some g.stamp, bad := g.bad, valid := BitVec.allOnes 16,
                                      writer := g.writer, wrote := g.wrote, later := [] } :: s.copies }
    | none => s.dropGrain holder g.home

/-- Install a state obtained from the home in the L1 of core `k`, where the directory tracks it if the grain is homed on the
core's die, and else in the die's remote partition too (R248). -/
def State.installGrain (s : State) (k : Nat) (iter : BitVec 32) (g : Grain) : State :=
  let s := s.installAt k iter g
  if g.home / 2 ^ 37 == k / 512 then
    if s.copies.any (fun c => c.holder == k && c.home == g.home && c.trackedAged) &&
        !s.tracked.any (fun h => h.core == k && h.grain == g.home && h.size == g.data.length) then
      let (m, s) := s.grantNow k g.home g.data.length false
      s.holdGrain { core := k, grain := g.home, size := g.data.length, state := m }
    else s
  else s.installAt (4096 + k / 512) iter g

/-! Translations (R155 to R157). -/

namespace TlbEntry
/-- The page holds `va`. -/
def covers (e : TlbEntry) (va : Nat) : Bool := va / 2 ^ (14 + e.span) == e.va / 2 ^ (14 + e.span)
/-- The entry is one for `va` of context `ctx` on `die`. -/
def serves (e : TlbEntry) (die ctx va : Nat) : Bool := e.die == die && e.ctx == ctx && e.covers va
end TlbEntry

/-- The agent a translation acts for: the core whose micro-TLB it uses, if any, and whether it fetches. -/
structure Walker where
  die : Nat
  ctx : Nat
  sup : Bool
  core : Option Nat
  fetch : Bool
  /-- The translations that the waiting instruction has used, which it goes on with, and HCTX as its host request began with it (R167,
  R491). -/
  walks : List TlbEntry := []
  hctx : Option Word := none
  /-- It is a thread, whose walk can wait; an engine's event waits as a whole. -/
  waits : Bool := true
deriving DecidableEq, Repr

/-- The micro-TLB entries it uses. -/
def Core.microOf (c : Core) (fetch : Bool) : List TlbEntry := if fetch then c.microI else c.micro
/-- Replace them. -/
def Core.setMicro (c : Core) (fetch : Bool) (l : List TlbEntry) : Core := if fetch then { c with microI := l } else { c with micro := l }

/-- One more entry in a list of at most `n`; a full one loses an entry that the hardware chooses. -/
def insertEntry (n : Nat) (l : List TlbEntry) (e : TlbEntry) (s : State) : List TlbEntry × State :=
  if l.length < n then (l ++ [e], s)
  else let (j, s) := s.pickFree l.length; (l.eraseIdx j ++ [e], s)

/-! Instruction caches (R43, R169, R219). -/

/-- The line of key `k` that core `c` holds. -/
def Core.iline? (c : Core) (k : Nat) : Option ILine := first? (fun l => l.key == lineOf k) c.icache

/-- The cores that satisfy `p` hold no instruction line. -/
def State.dropIcaches (s : State) (p : Nat → Bool) : State :=
  { s with cores := s.cores.map fun (c : Core) => if p c.id then { c with icache := [] } else c }

end Sys2Proof.Machine
end

