-- ==== Sys2Proof/Machine/Ops.lean ====
section
/-!
DEFINITION. The named operations over the state: threads, cores and contexts; how a meaning runs (`runChain`); taking
a trap (`takeTrap`, R220 to R227) and, beside it, the return from one (`returnTo`, R240); page faults (`takePage`,
R230 to R232).
-/
namespace Sys2Proof.Machine

/-! Trap causes (R220). -/
namespace Cause
abbrev illegal : BitVec 8 := 0x01
abbrev regrange : BitVec 8 := 0x02
abbrev priv : BitVec 8 := 0x03
abbrev align : BitVec 8 := 0x04
abbrev prot : BitVec 8 := 0x05
abbrev nomap : BitVec 8 := 0x06
abbrev region : BitVec 8 := 0x07
abbrev stale : BitVec 8 := 0x08
abbrev tapefull : BitVec 8 := 0x09
abbrev tapeempty : BitVec 8 := 0x0A
abbrev tapemismatch : BitVec 8 := 0x0B
abbrev adjovf : BitVec 8 := 0x0C
abbrev badscale : BitVec 8 := 0x0D
abbrev desync : BitVec 8 := 0x0E
abbrev fmtctx : BitVec 8 := 0x0F
abbrev vregrange : BitVec 8 := 0x10
abbrev taperegion : BitVec 8 := 0x11
abbrev remote : BitVec 8 := 0x12
abbrev atomunsup : BitVec 8 := 0x13
abbrev trapnest : BitVec 8 := 0x14
abbrev svc : BitVec 8 := 0x15
abbrev unplaceable : BitVec 8 := 0x16
abbrev rillop : BitVec 8 := 0x17
abbrev trap : BitVec 8 := 0x18
abbrev memerr : BitVec 8 := 0x19

/-- The causes that go to the thread's own handler when R222 allows it (R220, column To). -/
def user (c : BitVec 8) : Bool := c == stale || c == tapefull || c == tapeempty || c == adjovf || c == badscale || c == trap
end Cause

/-! Threads. -/

namespace Thread
/-- Bit 18 of SLOTID (R74). -/
def isRill (t : Thread) : Bool := decide (t.id ≥ 2 ^ 18)
/-- Slot 63 of a core (R54). -/
def isSluice (t : Thread) : Bool := !t.isRill && t.id % 64 == 63
/-- DIE (R74). -/
def die (t : Thread) : Nat := t.id / 2 ^ 15 % 8
/-- CLUSTER; the slice of a rill (R74). -/
def cluster (t : Thread) : Nat := t.id / 512 % 64
/-- CORE, the index in the cluster ring (R74). -/
def ring (t : Thread) : Nat := t.id / 64 % 8
/-- SLOTID[17:6], which numbers the core. -/
def coreId (t : Thread) : Nat := t.id / 64 % 4096
/-- 64 × die + cluster. -/
def clusterId (t : Thread) : Nat := t.id / 512 % 512
/-- The thread of slot `s` of core `k` of the same cluster. -/
def idAt (t : Thread) (k : Nat) : Nat := t.id / 512 * 512 + k * 64 + t.id % 64
/-- TASKID as MFS and records show it (R54, R411). -/
def taskId (t : Thread) : Word := if t.isSluice then (1 <<< 63) ||| BitVec.ofNat 64 t.id else t.task
/-- TRAPCAUSE.HND (R221). -/
def hnd (t : Thread) : Bool := t.trapcause.getLsbD 16
/-- TRAPCAUSE.LEN (R221). -/
def trapLen (t : Thread) : BitVec 4 := t.trapcause.extractLsb' 8 4
/-- Live from its launch until its END enters Draining (R66). -/
def live (t : Thread) : Bool := t.state != .free && !t.ended
/-- The cycles between two turns of the thread's slot (R48, R281). -/
def period (t : Thread) : Nat := if t.isRill then 16 else 64
/-- Waits for a condition or for a result (R47). -/
def waiting (t : Thread) : Bool := t.state == .parked || t.state == .stalled
/-- The thread as an agent of R215: one number for each member of a gang. -/
def writer (t : Thread) : Nat := 2048 * t.gang + t.rank.toNat
/-- What the thread waited with is over. -/
def unwait (t : Thread) : Thread :=
  { t with wake := .none, held := none, reply := .none, arrived := false, awaits := none, pins := [], agedWait := none, walks := [], asked := none }
end Thread

/-- TRAPCAUSE from its fields (R221). -/
def trapCauseOf (aux : BitVec 32) (hnd : Bool) (len : BitVec 4) (cause : BitVec 8) : Word :=
  aux ++ (0#15 ++ (BitVec.ofBool hnd ++ (0#4 ++ (len ++ cause))))

/-! The state: threads, cores, contexts. -/

namespace State
/-- The thread with SLOTID `id`, if its slot holds one. -/
def thread? (s : State) (id : Nat) : Option Thread :=
  if s.cpu.id = id then (if s.cpu.state = .free then none else some s.cpu) else first? (fun t => t.id == id) s.others

/-- Insert a thread, by ascending SLOTID. -/
def insertThread (t : Thread) : List Thread → List Thread
  | [] => [t]
  | u :: us => if t.id < u.id then t :: u :: us else if t.id = u.id then t :: us else u :: insertThread t us

/-- Replace the thread with `t`'s SLOTID. -/
def putThread (s : State) (t : Thread) : State :=
  if s.cpu.id = t.id then { s with cpu := t } else { s with others := insertThread t s.others }

/-- Remove the thread with SLOTID `id`: its slot becomes Free and is cleared (R61). -/
def freeThread (s : State) (id : Nat) : State :=
  if s.cpu.id = id then { s with cpu := Thread.free id } else { s with others := s.others.filter fun t => t.id != id }

/-- Every thread that holds a slot. -/
def threads (s : State) : List Thread := if s.cpu.state = .free then s.others else s.cpu :: s.others

/-- Change every thread that holds a slot and satisfies `p`. -/
def mapThreads (s : State) (p : Thread → Bool) (f : Thread → Thread) : State :=
  { s with cpu := if s.cpu.state != .free && p s.cpu then f s.cpu else s.cpu
           others := s.others.map fun t => if p t then f t else t }

/-- Make the thread with SLOTID `id` the one whose turn it is. -/
def focus (s : State) (id : Nat) : State :=
  if s.cpu.id = id then s
  else match first? (fun t => t.id == id) s.others with
    | none => s
    | some t =>
      let rest := s.others.filter fun u => u.id != id
      { s with cpu := t, others := if s.cpu.state = .free then rest else insertThread s.cpu rest }

/-- Core number `id`; a core not listed is as it came out of reset. -/
def core (s : State) (id : Nat) : Core := (first? (fun c => c.id == id) s.cores).getD (Core.fresh id)

/-- Insert or replace a core, by ascending number. -/
def insertCore (c : Core) : List Core → List Core
  | [] => [c]
  | d :: ds => if c.id < d.id then c :: d :: ds else if c.id = d.id then c :: ds else d :: insertCore c ds

/-- Put core `c` back. -/
def putCore (s : State) (c : Core) : State := { s with cores := insertCore c s.cores }

/-- The core the current thread runs on. -/
def myCore (s : State) : Core := s.core s.cpu.coreId

/-- Context number `n`, if it exists. -/
def context? (s : State) (n : Nat) : Option Context := first? (fun c => c.num == n) s.contexts

/-- The registers of context `n`; zero when it does not exist. -/
def contextD (s : State) (n : Nat) : Context :=
  (s.context? n).getD { num := n, tenant := 0, priv := false, pageroot := 0, regiontab := 0, supvec := 0, hctx := 0, closing := false, scrubbing := false, releaser := 0, frames := 0, nframes := 0 }

/-- Put context `c` back. -/
def putContext (s : State) (c : Context) : State :=
  { s with contexts := mapFirst (fun d => d.num == c.num) (fun _ => c) s.contexts }

/-- The cycle count a thread's instructions see: its core's, or its slice core's (R53, R283). -/
def cycleOf (s : State) (t : Thread) : Nat :=
  if t.isRill then assocD 0 t.clusterId s.sliceCycles else (s.core t.coreId).cycle

/-- Add an event to the end of the pending ones. -/
def post (s : State) (e : Instr) : State := { s with events := s.events ++ [e] }

/-- The gang with number `n`. -/
def gang? (s : State) (n : Nat) : Option Gang := first? (fun g => g.id == n) s.gangs

/-- Put gang `g` back. -/
def putGang (s : State) (g : Gang) : State := { s with gangs := mapFirst (fun h => h.id == g.id) (fun _ => g) s.gangs }

/-- Launch slot `k`. -/
def launch (s : State) (k : Nat) : Launch := if h : k < 64 then s.launches[k] else Launch.idle

/-- Change launch slot `k`; numbers of 64 and above name no launch. -/
def modLaunch (s : State) (k : Nat) (f : Launch → Launch) : State :=
  if h : k < 64 then { s with launches := s.launches.set k (f s.launches[k]) } else s

/-- Agent `a` sends a message of launch slot `k` (R420). -/
def sends (s : State) (k a : Nat) : State := s.modLaunch k fun l => { l with sent := assocSet a (assocD 0 a l.sent + 1) l.sent }
/-- Agent `a` receives one. -/
def receives (s : State) (k a : Nat) : State := s.modLaunch k fun l => { l with received := assocSet a (assocD 0 a l.received + 1) l.received }
end State

/-- Number of the core a thread runs on, or 4096 + 64 × die + slice for a rill. -/
def Thread.agent (t : Thread) : Nat := if t.isRill then 4096 + t.clusterId else t.coreId
/-- The update unit of the slice of a device address as an agent (R420). -/
def updateUnit (a : Nat) : Nat := 8192 + sliceOf a
/-- The queues of a cluster as an agent (R420). -/
def queuesOf (c : Nat) : Nat := 12288 + c
/-- The Headgate as an agent (R420). -/
def headgate : Nat := 16384

/-! How a meaning runs. -/

/-- What a waiting instruction leaves behind besides the state of its slot. -/
inductive WaitRec where
  | nothing
  /-- A weir entry, unless the slice's 256 entries are taken (R250, R252), with what the load keeps while it waits and what it
  has installed so far (R261). -/
  | weir (w : Weir) (keep : AgedWait) (install : List Grain)
  /-- A request that the home slice refuses (R176). -/
  | refused (w : Want)
  /-- A gather or scatter that has checked these windows and handles (R138), and what else it leaves. -/
  | pinned (pins : List (Nat × Nat)) (rec : WaitRec)
  /-- An arrival at the gang's barrier (R90). -/
  | barrier
  /-- A request to the host, or to this peer, that is out (R435, R441). -/
  | request (peer : Option Nat)
  /-- The request of a copy whose answer acknowledges its destination (R303). -/
  | ending (peer : Option Nat)
  /-- The completion that covers the thread's posted writes on this port has arrived, and was for nothing else (R433). -/
  | flushed (p : Port)
  /-- A back-invalidation the host has to answer (R432). -/
  | snoop (p : Port) (grain : Nat)
deriving DecidableEq, Repr

/-- Why a meaning does not complete. The state it has reached is then dropped, so it has no effect (R39, R50, R51). -/
inductive Stop where
  /-- A trap, with TRAPVAL and AUX (R220). -/
  | trap (cause : BitVec 8) (val : Word) (aux : BitVec 32)
  /-- MEMERR, with the unit that holds the error, TRAPVAL and AUX (R18, R478). -/
  | memerr (unit : Option TestUnit) (val : Word) (aux : BitVec 32)
  /-- The slot is Parked (true) or Stalled (false), and the instruction is tried again later; a stalled one goes on with the translations
  that it has used (R167, R491). -/
  | wait (parked : Bool) (rec : WaitRec) (walks : List TlbEntry)
  /-- The page of `va` is not present (R148, R230). -/
  | page (va : Word)
  /-- A page of a copy's range is not present: its request record is `note` (R303); the copy goes on with the translations of the pages
  before it (R304). -/
  | copyPage (va : Word) (note : Note) (walks : List TlbEntry)
  /-- A trap that reports a batch's failure (R318, R319): the batch state it leaves, and whether a completed CPWAIT's acquire
  came first. -/
  | report (b : Batch) (acquired : Bool) (cause : BitVec 8) (val : Word) (aux : BitVec 32)
  | fault (f : Fault)
deriving DecidableEq, Repr

/-- A computation over the state that may stop. -/
abbrev Exec (α : Type) := StateT State (Except Stop) α

/-- Stop with a trap. -/
def trap {α : Type} (cause : BitVec 8) (val : Word) (aux : BitVec 32 := 0) : Exec α := throw (.trap cause val aux)
/-- Stop with MEMERR for an error that `unit` holds. -/
def memErr {α : Type} (unit : Option TestUnit) (val : Word) (aux : BitVec 32 := 0) : Exec α := throw (.memerr unit val aux)
/-- Park (R51). -/
def park {α : Type} (rec : WaitRec := .nothing) : Exec α := throw (.wait true rec [])
/-- Stall (R50). -/
def stall {α : Type} (rec : WaitRec := .nothing) : Exec α := do throw (.wait false rec (← get).used)
/-- Trap when `bad` holds. -/
def trapIf (bad : Bool) (cause : BitVec 8) (val : Word) (aux : BitVec 32 := 0) : Exec Unit :=
  if bad then trap cause val aux else pure ()
/-- Stop with MEMERR when `bad` holds. -/
def memErrIf (bad : Bool) (unit : Option TestUnit) (val : Word) : Exec Unit := if bad then memErr unit val else pure ()

/-- The thread whose turn it is. -/
def getCpu : Exec Thread := do return (← get).cpu
/-- Change it. -/
def modCpu (f : Thread → Thread) : Exec Unit := modify fun s => { s with cpu := f s.cpu }
/-- The core it runs on. -/
def getCore : Exec Core := do return (← get).myCore
/-- Change that core. -/
def modCore (f : Core → Core) : Exec Unit := modify fun s => s.putCore (f s.myCore)

/-- M[2:0] as a number: device is 2. -/
def scopeRank (sc : Scope) : Nat := sc.bits.toNat

/-- Every untracked copy on a die is dropped (R181). -/
def State.dropUntracked (s : State) (die : Nat) : State :=
  { s with copies := s.copies.filter fun c => !(c.die == die && (c.stamp.isNone || c.home / 2 ^ 37 != die)) }

/-- An acquire at scope `sc` by the current thread: at device scope or wider it drops the die's untracked copies, and the
thread's later plain reads are home-coherent (R181, R205). Core and cluster scope act as device in a rill (R197). What aged
loads have read before it binds the later ones (R215). -/
def State.acquireAt (s : State) (sc : Scope) : State :=
  let s := { s with cpu := { s.cpu with front := s.cpu.heard } }
  if decide (scopeRank sc ≥ 2) || s.cpu.isRill then
    let s := s.dropUntracked s.cpu.die
    { s with cpu := { s.cpu with homeCoh := true } }
  else s

/-- As `State.acquireAt`. -/
def acquire (sc : Scope) : Exec Unit := modify fun s => s.acquireAt sc

/-- A free choice: the next free bit (notes/assumptions/4.md). -/
def choose : Exec Bool := do
  let s ← get
  set { s with free := s.free + 1 }
  return Config.freeBit s.free

/-- The guard of a chain, as the predicate word stands (R31, R38). p0 is always 1 (R62). -/
def guardOn (c : Chain) (p : BitVec 16) : Bool := xor (c.guard == 0 || p.getLsbD c.guard.toNat) c.inv

/-- Go on at `pc`: a waiting slot is Ready again (R50, R51). -/
def Thread.goTo (t : Thread) (pc : Word) : Thread :=
  { t.unwait with pc := pc, state := .ready }

/-- The instruction of length `len` completes and the thread goes on at its successor address (R26). -/
def State.advance (s : State) (len : Nat) : State := { s with cpu := s.cpu.goTo (s.cpu.pc + BitVec.ofNat 64 len) }

/-- An address as the PC holds it: bit 0 is always 0 (R26). -/
def evenPc (x : Word) : Word := x &&& ~~~1

/-- R37: where a taken transfer may not go. -/
def checkTarget (t : Word) : Exec Unit := do
  trapIf (t.getLsbD 0) Cause.align t
  trapIf (decide (t.toNat ≥ Config.vaEnd)) Cause.prot t

/-! Taking a trap. -/

/-- The notification record of a trap of `t` (R227). -/
def trapNote (t : Thread) (cause : BitVec 8) (pc val : Word) (aux : BitVec 32) (len : BitVec 4) (newpc : Word) : Note :=
  { ctx := t.ctx, kind := 1, cause := cause, rank := if t.isSluice then 0 else t.rank, taskid := t.taskId, trappc := pc, trapval := val, aux := aux,
    len := len, savearea := if t.isSluice || t.isRill then 0 else t.savearea, newpc := newpc,
    target := if t.isSluice || t.isRill then .slot t.id else .member t.gang t.rank.toNat,
    launch := if t.isSluice then 64 else t.launch }

/-- The slot is Halted and its supervisor is to be told (R225). Earlier accesses of the thread have been performed already, since
the model performs each access in the step of its instruction, but for updates that wait at their homes: NOTIFICATION_RECORD waits
for those. -/
def State.haltWith (s : State) (t : Thread) (n : Note) : State :=
  ({ s with cpu := { t.unwait with state := .halted } } : State).post (.notificationRecord n)

/-- Whether a trap of cause `cause` enters the thread's own handler (R222). -/
def Thread.handles (t : Thread) (cause : BitVec 8) : Bool :=
  !t.isRill && !t.isSluice && Cause.user cause && t.trapvec != 0 && !t.hnd && !t.trapvec.getLsbD 0 &&
    decide (t.trapvec.toNat < Config.vaEnd)

/-- The unit that holds the byte at key `k` (R478): a bank of HBM of the byte's die (R11), or a cistern line; none of the table for other
memory. -/
def unitAt (k : Nat) : Option TestUnit :=
  if k < Config.deviceBytes then some (.bank (k / 2 ^ 37) (Config.bankOf k))
  else if cisternKey 0 0 ≤ k && k < peerKey 0 0 then some (.line ((k - cisternKey 0 0) / 2 ^ 17) ((k - cisternKey 0 0) % 2 ^ 17 / 512))
  else none

/-- A way of a set that holds a copy, ways `lo` to `lo + n - 1` (R478): which of them is a free choice. -/
def State.wayAt (s : State) (unit set lo n : Nat) : TestUnit := .way unit set (lo + Config.freeNat s.free % n)

/-- An error has been detected: the unit that holds it runs a self-test, whose verdict is a free choice (R478;
notes/assumptions/37.md). -/
def State.selfTest (s : State) (unit : Option TestUnit) : State :=
  match unit with
  | some u => ({ s with free := s.free + 1 } : State).post (.selfTestVerdict u (Config.freeBit s.free))
  | none => s

/-- An update of the thread in `slot` has not been applied yet (R291). -/
def State.updating (s : State) (slot : Nat) : Bool := s.events.any fun e => match e with | .rupdApply r => r.slot == slot | _ => false

/-- One that overlaps bytes `k` to `k + n - 1`. -/
def State.updatingAt (s : State) (slot k n : Nat) : Bool :=
  s.events.any fun e => match e with | .rupdApply r => r.slot == slot && overlaps k n r.addr 8 | _ => false

/-- The current thread takes a trap at its chain, of `len` bytes (R220 to R225). The thread is as it was before the
chain: a trap has no other effect (R39). An SVC keeps its own cause while HND = 1, and HND stays as it is (R221, R222,
R241). -/
def takeTrap (s : State) (cause : BitVec 8) (val : Word) (aux : BitVec 32) (len : Nat) : State :=
  let t := s.cpu
  let l := BitVec.ofNat 4 len
  if t.isRill then s.haltWith t (trapNote t cause t.pc val aux l 0)
  else if t.handles cause then
    { s with cpu := { t.goTo t.trapvec with trappc := t.pc, trapcause := trapCauseOf aux true l cause, trapval := val } }
  else if t.hnd && cause != Cause.svc then
    s.haltWith { t with trapcause := trapCauseOf (cause.setWidth 32) true t.trapLen Cause.trapnest }
      (trapNote t Cause.trapnest t.trappc val (cause.setWidth 32) t.trapLen t.pc)
  else s.haltWith { t with trappc := t.pc, trapcause := trapCauseOf aux t.hnd l cause, trapval := val }
      (trapNote t cause t.pc val aux l 0)

/-- The return from a handler (R240): HND is cleared and the thread goes on at `pc`. -/
def Thread.returnTo (t : Thread) (pc : Word) : Thread :=
  { t.goTo pc with trapcause := t.trapcause &&& ~~~(1#64 <<< 16) }

/-! Page futures. -/

/-- Future entry `i` of a context (R231). -/
def Context.futureAt (c : Context) (i : Nat) : Nat := c.supBlock + 0x8000 + 16 * i

/-- The first of entries `i`, `i+1`, … (`n` of them) whose doubleword 0, less its reserved bits, satisfies `p`. One that is not
delivered satisfies nothing (R18; notes/assumptions/40.md). -/
def findFuture (s : State) (c : Context) (p : Nat → Bool) : Nat → Nat → Option Nat
  | 0, _ => none
  | n + 1, i => if !s.badAt (c.futureAt i) 8 && p (s.peek (c.futureAt i) 8) then some i else findFuture s c p n (i + 1)

/-- A page request record (R227, R230). DESIGN CHOICE: its cause, AUX and LEN are 0 (notes/assumptions/55.md). It needs no ACTION; its
target names the thread whose accesses come before it (R225). -/
def pageNote (t : Thread) (va : Word) (idx : Nat) : Note :=
  { ctx := t.ctx, kind := 2, cause := 0, rank := if t.isSluice then 0 else t.rank, taskid := t.taskId, trappc := va, trapval := BitVec.ofNat 64 idx,
    aux := 0, len := 0, savearea := if t.isSluice || t.isRill then 0 else t.savearea, newpc := 0,
    target := if t.isSluice || t.isRill then .slot t.id else .member t.gang t.rank.toNat, launch := 64 }

/-- Take or join the future of the page of `va` (R230): the entry's index, or none when no entry is free. A new entry's
page request record is `note` of the index. Doubleword 1 counts waiting gangs (R231), so it rises only for a gang, and only
once for all its members: `counts` says whether it does for entry `i`. -/
def joinFuture (s : State) (ctx : Nat) (va : Word) (counts : Nat → Bool) (note : Nat → Note) : Option Nat × State :=
  let c := s.contextD ctx
  let page := va.toNat / 2 ^ 14
  match findFuture s c (fun d => d % 4 == 1 && d / 2 ^ 14 % 2 ^ 44 == page) 1024 0 with
  | some i => (some i, if counts i then s.poke (c.futureAt i + 8) 8 (s.peek (c.futureAt i + 8) 8 + 1) else s)
  | none =>
    match findFuture s c (fun d => d % 4 == 0) 1024 0 with
    | some i =>
      let s := s.poke (c.futureAt i) 8 (page * 2 ^ 14 + 1)
      let s := s.poke (c.futureAt i + 8) 8 (if counts i then 1 else 0)
      (some i, s.post (.notificationRecord (note i)))
    | none => (none, s)

/-- An access or fetch of the current thread meets a page that is not present (R54, R148, R230, R232, R285): a rill or a
sluice slot waits in its slot; the gang of any other thread is spilled. -/
def takePage (s : State) (va : Word) : State :=
  let t := s.cpu
  let stays := t.isRill || t.isSluice
  let counts (i : Nat) : Bool := !stays && !((s.gang? t.gang).any fun g => g.faulters.any fun f => f.2.2 == i)
  let (idx, s) := joinFuture s t.ctx va counts (pageNote t va)
  if stays then
    { s with cpu := { t with state := .parked, held := none, walks := [], asked := none, future := some (idx.getD 1024), nomap := some va } }
  else
    let s := { s with cpu := { t with state := .spilling, held := none, walks := [], asked := none, nomap := none }
                      gangs := mapFirst (fun g => g.id == t.gang)
                        (fun g => { g with faulters := g.faulters ++ [(t.rank.toNat, va, idx.getD 1024)] }) s.gangs }
    s.post (.gangSpill t.gang (match idx with | some i => .future i | none => .anyFuture))

/-- The current thread, a sluice slot in an XFER, stays Stalled until the future of a page of the copy completes
(R303); it keeps the translations of the pages before it (R304). -/
def takeCopyPage (s : State) (i : Instr) (va : Word) (note : Note) (walks : List TlbEntry) : State :=
  let (idx, s) := joinFuture s s.cpu.ctx va (fun _ => false) (fun k => { note with trapval := BitVec.ofNat 64 k })
  { s with cpu := { s.cpu with state := .stalled, held := some i, walks := walks, future := some (idx.getD 1024), nomap := some va } }

/-! Waiting. -/

/-- Host port `p`. -/
def State.port (s : State) (p : Port) : HostPort := match p with | .a => s.portA | .b => s.portB
/-- Change host port `p`. -/
def State.modPort (s : State) (p : Port) (f : HostPort → HostPort) : State :=
  match p with | .a => { s with portA := f s.portA } | .b => { s with portB := f s.portB }

/-- The posted writes of a port arrive at the host, oldest first (R433). -/
def State.drainPosts (s : State) (p : Port) : State :=
  ((s.port p).posts.foldl (fun s w => s.homeWrite w.1 w.2) s).modPort p fun q => { q with posts := [] }

namespace Reply
/-- A request is outstanding. -/
def out : Reply → Bool
  | .waiting | .ending _ => true
  | _ => false
/-- What a copy asked of its source has failed. -/
def sourceFailed : Reply → Bool
  | .failed | .unsupported => true
  | .ending f | .ended f | .endFailed f => f
  | _ => false
/-- An answer for a copy's source is still to come. -/
def sourceOpen (r : Reply) : Bool := r == .none || r == .waiting
/-- One for its destination is. -/
def endOpen : Reply → Bool
  | .ended _ | .endFailed _ => false
  | _ => true
/-- The destination's acknowledgement has failed. -/
def endFails : Reply → Bool
  | .endFailed _ => true
  | _ => false
/-- The acknowledgement of a copy's destination is asked for. -/
def toEnd (r : Reply) : Reply := if r.endOpen then .ending r.sourceFailed else r
end Reply

/-- What a wait leaves behind (R50, R51). -/
def State.leave (s : State) : WaitRec → State
  | .nothing => s
  | .barrier => { s with cpu := { s.cpu with arrived := true } }
  | .request p => { s with cpu := { s.cpu with reply := if s.cpu.reply = .none then .waiting else s.cpu.reply, awaits := p } }
  | .ending p => { s with cpu := { s.cpu with reply := s.cpu.reply.toEnd, awaits := p } }
  | .refused w => s.refuse s.cpu.id w
  | .flushed p =>
    let s := if (s.port p).up then s.drainPosts p else s
    { s with cpu := match p with
        | .a => { s.cpu with postedA := false, volatileA := false, reply := .none }
        | .b => { s.cpu with postedB := false, volatileB := false, reply := .none } }
  | .pinned pins r => State.leave { s with cpu := { s.cpu with pins := pins } } r
  | .weir w keep gs =>
    let s := gs.foldl (fun s g => s.installGrain s.cpu.coreId s.cpu.iter g) s
    let s := { s with cpu := { s.cpu with agedWait := some keep } }
    if s.weir.any (fun x => x.slot == w.slot && x.grain == w.grain) then s
    else if decide ((s.weir.filter fun x => x.slice == w.slice).length ≥ 256) || !s.mayServe w.slot (.weir w.slice) then
      s.refuse w.slot (.weir w.slice)
    else { s.served' w.slot (.weir w.slice) with weir := s.weir ++ [w] }
  | .snoop p g =>
    let e := Instr.backInvalidationAnswer p g
    if s.events.any (fun x => match x with | .backInvalidationAnswer q h => q == p && h == g | _ => false) then s else s.post e

/-- A request to the host has begun (R491). -/
def WaitRec.requests : WaitRec → Bool
  | .request p | .ending p => p.isNone
  | .pinned _ r => r.requests
  | _ => false

/-- The current thread waits with its chain as the saved PC and none of its effects (R50, R51): it keeps the translations that it has
used, and HCTX as its host request began with it (R167, R491). -/
def State.hold (s : State) (i : Option Instr) (parked : Bool) (rec : WaitRec) (walks : List TlbEntry) : State :=
  let t := s.cpu
  State.leave { s with cpu := { t with state := if parked then .parked else .stalled, held := i, walks := walks,
                                       asked := if rec.requests then some (t.asked.getD (s.contextD t.ctx).hctx) else t.asked,
                                       since := if t.waiting then t.since else s.cycleOf t } } rec

/-! A page that is not present. -/

/-- A host copy of `s` that is gone in `s'`: a device write has taken it back (R432). -/
def State.hostLost (s s' : State) : Option DirEntry :=
  first? (fun d => (d.hostA || d.hostB) && !(s'.dirs.any fun e => e.grain == d.grain && e.hostA == d.hostA && e.hostB == d.hostB)) s.dirs

/-- A bank of HBM or a way of a cache runs a self-test and refuses work (R478). -/
def State.memTested (s : State) : Bool :=
  s.events.any fun e => match e with | .selfTestVerdict (.bank _ _) _ | .selfTestVerdict (.way _ _ _) _ => true | _ => false

/-- As `f`, which writes a future of the current context for the chain `i`: a SUPVEC that names no memory stops the machine, and while a
bank or a way is under test (R478; notes/assumptions/37.md), or the host holds a copy of what `f` writes (R432), the thread waits. -/
def withFutures (i : Option Instr) (s : State) (f : State → State) : Host.Outcome State Fault Refusal :=
  let b := (s.contextD s.cpu.ctx).supBlock
  if b + 65536 ≤ Config.deviceBytes then
    .next (if s.memTested then s.hold i false .nothing s.cpu.walks
      else match s.hostLost (f s) with
        | some d => s.hold i false (.snoop (if d.hostA then .a else .b) d.grain) s.cpu.walks
        | none => f s)
  else .fault (.noMemory b)

/-- As `takePage`. -/
def pageOutcome (i : Option Instr) (s : State) (va : Word) : Host.Outcome State Fault Refusal := withFutures i s fun s => takePage s va

/-- The outcome of a meaning: what it did, or the original state with the trap, wait or fault that stopped it. -/
def finish (i : Instr) (s : State) (r : Except Stop (Unit × State)) : Host.Outcome State Fault Refusal :=
  match r with
  | .ok (_, s') => .next s'
  | .error (.trap cause val aux) => .next (takeTrap s cause val aux i.len)
  | .error (.memerr u val aux) => .next (takeTrap (s.selfTest u) Cause.memerr val aux i.len)
  | .error (.wait parked rec walks) => .next (s.hold (some i) parked rec walks)
  | .error (.page va) => pageOutcome (some i) s va
  | .error (.copyPage va note walks) => withFutures (some i) { s with cpu := { s.cpu with walks := walks } } fun s => takeCopyPage s i va note walks
  | .error (.report b acq cause val aux) =>
    let s := if acq then s.acquireAt .device else s
    .next (takeTrap { s with cpu := { s.cpu with batch := b } } cause val aux i.len)
  | .error (.fault f) => .fault f

/-- Run an instruction: a false guard ends it here (R38); otherwise `body` is step 4 of R39. -/
def runChain (c : Chain) (i : Instr) (body : Exec Unit) (s : State) : Host.Outcome State Fault Refusal :=
  if guardOn c s.cpu.p then finish i s (body s) else .next (s.advance i.len)

/-- Who may run an instruction besides user and supervisor threads of slots 0 to 62. -/
inductive Level where
  /-- Every thread. -/
  | any
  /-- Supervisor level only (R168). -/
  | sup
  /-- The sluice slot only (R486). -/
  | sluice
  /-- Every slot but the sluice slot (R423, R486). -/
  | notSluice
deriving DecidableEq, Repr

/-- The thread may not run an instruction of this level. -/
def Level.denies (l : Level) (t : Thread) : Bool :=
  match l with
  | .any => false
  | .sup => !t.sup
  | .sluice => !t.isSluice
  | .notSluice => t.isSluice

/-- RILLOP and PRIV, the first checks of step 4 (R39, R283). -/
def gate (i : Instr) (rillOk : Bool) (level : Level) : Exec Unit := do
  let t ← getCpu
  trapIf (t.isRill && !rillOk) Cause.rillop (i.baseWord.setWidth 64)
  trapIf (level.denies t) Cause.priv (i.baseWord.setWidth 64)

/-- An instruction, or the fetch of one, begins: it has translated nothing yet. -/
def State.anew (s : State) : State := { s with used := [] }

/-- The chain has been fetched: what its fetch has translated and asked for is none of its instruction's (R491). -/
def State.fetched (s : State) : State :=
  { s with used := [], cpu := { s.cpu with walks := [], asked := none, reply := .none, awaits := none } }

/-- Fields `rs` of the thread's register data flow depend on nothing from now on. -/
def Thread.dropFlow (t : Thread) (rs : List Nat) : Thread := { t with flow := t.flow.filter fun x => !rs.contains x.1 }

/-- The instruction completes: go on at its successor. -/
def done (i : Instr) : Exec Unit := modify fun s => s.advance i.len

end Sys2Proof.Machine
end

