-- ==== Sys2Proof/Machine/Operands.lean ====
section
/-!
DEFINITION. Register operands: the limits of R56 to R58, g0 (R57), the flume ports g126 and g127 (R63 to R66), register
runs and pairs (R289, R316), the two-source and other layouts (R34), vector registers (R117 to R120) and the predicate
word (R62).
-/
namespace Sys2Proof.Machine

/-- How a field of an instruction uses the register it names. -/
inductive Use where
  | rd (r : Reg)
  | wr (r : Reg)
  | rw (r : Reg)
  /-- Element `r` of a register run or pair: g126 and g127 cannot stand there (R289, R316, R390). -/
  | run (r : Nat)
deriving DecidableEq, Repr

/-- The registers a thread may name below g126: NREGS, or 24 for a rill (R58, R280). -/
def Thread.limit (t : Thread) : Nat := if t.isRill then 24 else t.nregs

/-- Register `i` is outside the allotment (R58); for a rill that includes g126 and g127 (R280). -/
def Thread.outside (t : Thread) (i : Nat) : Bool := decide (t.limit ≤ i) && (t.isRill || decide (i ≤ 125))

/-- The number REGRANGE reports for a use, if it traps (R58, R65). -/
def Use.fault (t : Thread) (u : Use) : Option Nat :=
  match u with
  | .rd r => if t.outside r.toNat || r == 127 then some r.toNat else none
  | .wr r => if t.outside r.toNat || r == 126 then some r.toNat else none
  | .rw r => if t.outside r.toNat || r == 126 || r == 127 then some r.toNat else none
  | .run i => if decide (t.limit ≤ i) || decide (126 ≤ i) then some i else none

/-- The use pops the upstream queue (R64). -/
def Use.pops (u : Use) : Bool := match u with | .rd r => r == 126 | _ => false
/-- The use pushes the downstream queue (R64). -/
def Use.pushes (u : Use) : Bool := match u with | .wr r => r == 127 | _ => false

/-- The first REGRANGE among the uses, in the order of the fields (R58). -/
def firstFault (t : Thread) : List Use → Option Nat
  | [] => none
  | u :: us => match u.fault t with | some n => some n | none => firstFault t us

/-- The thread in the slot upstream of `t`: the same slot of core (c - 1) mod 8 (R63). -/
def Thread.upstream (t : Thread) : Nat := t.idAt ((t.ring + 7) % 8)
/-- The thread in the slot downstream of `t`. -/
def Thread.downstream (t : Thread) : Nat := t.idAt ((t.ring + 1) % 8)

/-- The slot holds a live member of `t`'s gang (R66); the sluice slots of a ring are each other's partners (R54). -/
def State.partner (s : State) (t : Thread) (id : Nat) : Bool :=
  match s.thread? id with
  | none => false
  | some u => u.live && ((t.isSluice && u.isSluice) || (!t.isSluice && u.gang == t.gang))

/-- VREGRANGE for the first of the vector registers that lies at or above the allotment m (R119). -/
def checkVregs : List VReg → Exec Unit
  | [] => pure ()
  | v :: vs => do
    let t ← getCpu
    trapIf (decide (t.nvregs ≤ v.toNat)) Cause.vregrange (v.setWidth 64)
    checkVregs vs

/-- The upstream queue lacks an entry that the uses pop (R64). -/
def State.short (s : State) (us : List Use) : Bool := decide (s.cpu.flume.length < us.countP Use.pops)

/-- The downstream queue has no room for what the uses push (R64). -/
def State.full (s : State) (us : List Use) : Bool :=
  us.any Use.pushes && match s.thread? s.cpu.downstream with | some d => decide (d.flume.length ≥ 8) | none => false

/-- REGRANGE when the partner that should supply or take an entry is not a live member of the gang (R66). When both partners
are gone and the instruction pops and pushes, 126 is reported: R66 does not say which (notes/assumptions/35.md). -/
def checkPartners (us : List Use) : Exec Unit := do
  let s ← get
  trapIf (s.short us && !s.partner s.cpu s.cpu.upstream) Cause.regrange 126
  trapIf (us.any Use.pushes && !s.partner s.cpu s.cpu.downstream) Cause.regrange 127

/-- The instruction parks until it can take all its pops and pushes (R64). -/
def waitFlume (us : List Use) : Exec Unit := do
  let s ← get
  if s.short us || s.full us then park else pure ()

/-- The register checks of step 4 of R39: REGRANGE (R58, R65, R66), VREGRANGE (R119), then the instruction's own checks that
come before it may park (`mid`), and the flume queues. -/
def checkOperands (us : List Use) (vs : List VReg) (mid : Exec Unit := pure ()) : Exec Unit := do
  let t ← getCpu
  match firstFault t us with
  | some n => trap Cause.regrange (BitVec.ofNat 64 n)
  | none => do
    checkPartners us
    checkVregs vs
    mid
    waitFlume us

/-- As `checkOperands`, without vector registers. -/
def checkUses (us : List Use) : Exec Unit := checkOperands us []

/-- Register `i` as it stands: g0 reads zero (R57). -/
def Thread.reg (t : Thread) (i : Nat) : Word := if h : 0 < i ∧ i < 128 then t.g[i]'h.2 else 0

/-- Register `i` written: a write to g0 is discarded (R57), and any other register has a fresh check (R477). -/
def Thread.setReg (t : Thread) (i : Nat) (x : Word) : Thread :=
  if h : 0 < i ∧ i < 128 then { t with g := t.g.set i x h.2, badG := t.badG.filter fun j => j != i } else t

/-- The registers are read together: MEMERR with TRAPVAL 0 for one that holds an uncorrectable error (R18, R477). g0 holds
nothing (R57). -/
def checkRegs (rs : List Nat) : Exec Unit := do
  let t ← getCpu
  match first? (fun i => i != 0 && t.badG.contains i) rs with
  | some i => memErr (some (.row t.coreId (t.rbase + i / 8))) 0
  | none => pure ()

/-- Read a field: g126 pops one entry (R64). -/
def readG (r : Reg) : Exec Word := do
  let t ← getCpu
  if r == 126 then
    match t.flume with
    | x :: q => do modCpu fun t => { t with flume := q }; return x
    | [] => park
  else do
    checkRegs [r.toNat]
    return t.reg r.toNat

/-- Write a field: g127 pushes one entry (R64). -/
def writeG (r : Reg) (x : Word) : Exec Unit := do
  if r == 127 then
    modify fun s => match s.thread? s.cpu.downstream with
      | some d => s.putThread { d with flume := d.flume ++ [x] }
      | none => s
  else modCpu fun t => t.setReg r.toNat x

/-- Register c, which cannot be a flume port (R29). -/
def wide (k : RegC) : Reg := k.setWidth 7

/-- Two fields read: when both pop, which of them gets the older entry is a free value that one launch meets the same on
every run (R4, R64; notes/assumptions/7.md). -/
def readG2 (a b : Reg) : Exec (Word × Word) := do
  let x ← readG a
  let y ← readG b
  return if a == 126 && b == 126 && Config.popSwap (← getCpu).pc then (y, x) else (x, y)

/-- Write register c unless c = 0, which names none. -/
def writeC (k : RegC) (x : Word) : Exec Unit := if k == 0 then pure () else writeG (wide k) x

/-! Layouts (R34). -/

/-- Uses of a two-source form: with XR it reads gb and gc, without XR ga and gb; both write ga (R29). -/
def uses2 (c : Chain) (a b : Reg) (k : RegC) : List Use :=
  if c.hasXR then [.wr a, .rd b, .rd (wide k)] else [.rw a, .rd b]

/-- Its sources x and y (R78). -/
def sources2 (c : Chain) (a b : Reg) (k : RegC) : Exec (Word × Word) :=
  if c.hasXR then do
    let x ← readG b
    let y ← readG (wide k)
    return (x, y)
  else readG2 a b

/-- A two-source instruction that writes `op x y` to ga (R78). -/
def binary (i : Instr) (c : Chain) (a b : Reg) (k : RegC) (op : Word → Word → Word) (s : State) :
    Host.Outcome State Fault Refusal :=
  runChain c i (do
    gate i true .any
    checkUses (uses2 c a b k)
    let (x, y) ← sources2 c a b k
    writeG a (op x y)
    done i) s

/-- A one-source instruction that writes `op y` to ga (R78). -/
def unary (i : Instr) (c : Chain) (a b : Reg) (op : Word → Word) (s : State) : Host.Outcome State Fault Refusal :=
  runChain c i (do
    gate i true .any
    checkUses [.wr a, .rd b]
    let y ← readG b
    writeG a (op y)
    done i) s

/-- An immediate instruction that writes `op x` to ga, with x = G(a) (R78). -/
def immediate (i : Instr) (c : Chain) (a : Reg) (op : Word → Word) (s : State) : Host.Outcome State Fault Refusal :=
  runChain c i (do
    gate i true .any
    checkUses [.rw a]
    let x ← readG a
    writeG a (op x)
    done i) s

/-! The predicate word (R62, R81). -/

/-- The predicate word with p0 = 1 (R62). -/
def fixP (p : BitVec 16) : BitVec 16 := p ||| 1

/-- The predicate a compare writes: M[3:0], where 0 and 1 both select p1 (R81). -/
def predOf (d : PredDest) : Nat := if (d.extractLsb' 0 4) == 0 then 1 else (d.extractLsb' 0 4).toNat

/-- Bit `n` of a predicate word set to `v`. -/
def setPred (p : BitVec 16) (n : Nat) (v : Bool) : BitVec 16 :=
  if v then p ||| ((1 : BitVec 16) <<< n) else p &&& ~~~((1 : BitVec 16) <<< n)

/-- The result `t` of a compare goes to its destination; M[4] accumulates with AND (R81). -/
def writePred (d : PredDest) (t : Bool) : Exec Unit :=
  modCpu fun th => { th with p := setPred th.p (predOf d) (if d.getLsbD 4 then th.p.getLsbD (predOf d) && t else t) }

/-- A register compare (R81). -/
def compare (i : Instr) (c : Chain) (a b : Reg) (d : PredDest) (rel : Word → Word → Bool) (s : State) :
    Host.Outcome State Fault Refusal :=
  runChain c i (do
    gate i true .any
    checkUses [.rd a, .rd b]
    let (x, y) ← readG2 a b
    writePred d (rel x y)
    done i) s

/-! Vector registers (R117 to R120). -/

/-- Vector register `a`: MEMERR with TRAPVAL 0 when it holds an uncorrectable error (R18, R477). -/
def readV (a : VReg) : Exec Vec := do
  let t ← getCpu
  memErrIf (t.badV.contains a.toNat) (some (.vec t.coreId (t.vbase + a.toNat))) 0
  return t.v[a.toNat]

/-- Write vector register `a`. -/
def writeV (a : VReg) (x : Vec) : Exec Unit :=
  modCpu fun t => { t with v := t.v.set a.toNat x, badV := t.badV.filter fun j => j != a.toNat }

/-- Lane `l` of a vector: 32 bits at byte 4l (R118). -/
def lane (x : Vec) (l : Nat) : F32 := x.extractLsb' (32 * l) 32

/-- The vector whose lanes are given, lane 0 first. -/
def ofLanes : List F32 → Vec
  | [] => 0
  | x :: xs => x.setWidth 512 ||| (ofLanes xs <<< 32)

/-- The lanes of a vector, lane 0 first. -/
def lanes (x : Vec) : List F32 := (upTo 16).map (lane x)

/-- The bytes of a vector, lowest first (R118). -/
def vecBytes (x : Vec) : List Byte := (upTo 64).map fun j => x.extractLsb' (8 * j) 8

/-- The vector of 64 bytes, lowest first. -/
def ofVecBytes (bs : List Byte) : Vec := BitVec.ofNat 512 (leNat bs)

end Sys2Proof.Machine
end

