-- ==== Sys2Proof/Machine/Flags.lean ====
section
/-!
DEFINITION. Number formats, rounding and the sticky flags of FPCSR (spec/05_number_formats.md, R94 to R116). Values are
exact rationals; a result is narrowed once, at the end.
-/
namespace Sys2Proof.Machine

/-! Flags: FPCSR[6:2] as five bits NV, DZ, OF, UF, NX (R77, R97). -/
abbrev Flags := BitVec 5
abbrev flagNV : Flags := 0b10000
abbrev flagDZ : Flags := 0b01000
abbrev flagOF : Flags := 0b00100
abbrev flagUF : Flags := 0b00010
abbrev flagNX : Flags := 0b00001

/-- A result and the flags it sets. -/
abbrev FRes := F32 × Flags

/-- `f` when `b`, else no flag. -/
def flagIf (b : Bool) (f : Flags) : Flags := if b then f else 0

/-- Flags are sticky: they are added to FPCSR (R97). -/
def raise (f : Flags) : Exec Unit := modCpu fun t => { t with fpcsr := t.fpcsr ||| (f ++ 0#2) }

/-- FPCSR.RM (R77): 0 nearest-even, 1 toward zero, 2 down, 3 up. -/
def Thread.rm (t : Thread) : BitVec 2 := t.fpcsr.extractLsb' 0 2

/-! FP32 (R94, R95). -/

def signF (x : F32) : Bool := x.getLsbD 31
def expF (x : F32) : Nat := (x.extractLsb' 23 8).toNat
def fracF (x : F32) : Nat := (x.extractLsb' 0 23).toNat
def isNaN (x : F32) : Bool := expF x == 255 && fracF x != 0
/-- A NaN whose bit 22 is 0 (R95). -/
def isSNaN (x : F32) : Bool := isNaN x && !x.getLsbD 22
def isInf (x : F32) : Bool := expF x == 255 && fracF x == 0
def isZeroF (x : F32) : Bool := x.extractLsb' 0 31 == 0
/-- The default NaN (R95). -/
def defNaN : F32 := 0x7FC00000
/-- ±∞. -/
def infF (neg : Bool) : F32 := if neg then 0xFF800000 else 0x7F800000
/-- ±0. -/
def zeroF (neg : Bool) : F32 := if neg then 0x80000000 else 0
/-- Significand and exponent of a finite value: magnitude sig × 2^ex. -/
def sigF (x : F32) : Nat := if expF x = 0 then fracF x else fracF x + 2 ^ 23
def exF (x : F32) : Int := (max (expF x) 1 : Nat) - 150

/-- n × 2^e as a fraction. -/
def dyadic (n : Nat) (e : Int) : Nat × Nat := if e ≥ 0 then (n * 2 ^ e.toNat, 1) else (n, 2 ^ (-e).toNat)

/-- A signed integer n × 2^e, for exact sums. -/
def signedF (x : F32) : Int := if signF x then -(sigF x : Int) else sigF x

/-! Rounding (R96). -/

/-- Whether the magnitude is rounded away from zero: `odd` is the lowest kept bit, `r / d` the dropped fraction. -/
def roundUp (rm : BitVec 2) (neg odd : Bool) (r d : Nat) : Bool :=
  if r = 0 then false
  else if rm = 0 then decide (2 * r > d) || (decide (2 * r = d) && odd)
  else if rm = 1 then false
  else if rm = 2 then neg
  else !neg

/-- num / den rounded to an integer, with whether that is inexact. -/
def roundNat (rm : BitVec 2) (neg : Bool) (num den : Nat) : Nat × Bool :=
  let m := num / den
  let r := num % den
  (if roundUp rm neg (m % 2 == 1) r den then m + 1 else m, r != 0)

/-- The exponent of the leading bit of num / den, which is not zero. -/
def leadExp (num den : Nat) : Int :=
  let l : Int := (Nat.log2 num : Int) - Nat.log2 den
  let (n, d) := if l ≥ 0 then (num, den * 2 ^ l.toNat) else (num * 2 ^ (-l).toNat, den)
  if n < d then l - 1 else l

/-- num / den divided by 2^q, as a fraction. -/
def scaleFrac (num den : Nat) (q : Int) : Nat × Nat := if q ≥ 0 then (num, den * 2 ^ q.toNat) else (num * 2 ^ (-q).toNat, den)

/-- The non-zero magnitude num / den rounded to a binary format of `p` significant bits whose least quantum is 2^qmin:
its bit pattern without the sign, and its flags (R96, R97, R99). Both formats have the exponent range of FP32. -/
def roundMag (p : Nat) (qmin : Int) (rm : BitVec 2) (neg : Bool) (num den : Nat) : Nat × Flags :=
  let e := leadExp num den
  let qu := e - (p - 1 : Nat)
  let q := max qu qmin
  let (n, d) := scaleFrac num den q
  let (m, inexact) := roundNat rm neg n d
  let bits := (q - qmin).toNat * 2 ^ (p - 1) + m
  let inf := 255 * 2 ^ (p - 1)
  if bits ≥ inf then
    let toInf := rm == 0 || (rm == 2 && neg) || (rm == 3 && !neg)
    (if toInf then inf else inf - 1, flagOF ||| flagNX)
  else
    let (nu, du) := scaleFrac num den qu
    let mu := (roundNat rm neg nu du).1
    let tiny := decide (e < -126) && !(decide (e = -127) && mu == 2 ^ p)
    (bits, flagIf inexact flagNX ||| flagIf (tiny && inexact) flagUF)

/-- ±num / den as FP32; `zneg` is the sign of an exact zero. -/
def roundF (rm : BitVec 2) (neg : Bool) (num den : Nat) (zneg : Bool) : FRes :=
  if num = 0 then (zeroF zneg, 0)
  else
    let (bits, fl) := roundMag 24 (-149) rm neg num den
    (BitVec.ofNat 32 (bits + if neg then 2 ^ 31 else 0), fl)

/-- The signed dyadic n × 2^e as FP32. -/
def roundDy (rm : BitVec 2) (n e : Int) (zneg : Bool) : FRes :=
  let (a, b) := dyadic n.natAbs e
  roundF rm (decide (n < 0)) a b zneg

/-- NV when one of the operands is a signalling NaN (R95, R97). -/
def nvOf (xs : List F32) : Flags := flagIf (xs.any isSNaN) flagNV
/-- The default NaN for an invalid operation (R97). -/
def invalid : FRes := (defNaN, flagNV)

/-! Arithmetic (R123, R124). -/

/-- x + y (R96, R97). -/
def fadd (rm : BitVec 2) (x y : F32) : FRes :=
  if isNaN x || isNaN y then (defNaN, nvOf [x, y])
  else if isInf x then (if isInf y && signF x != signF y then invalid else (x, 0))
  else if isInf y then (y, 0)
  else
    let e := min (exF x) (exF y)
    let n := signedF x * 2 ^ (exF x - e).toNat + signedF y * 2 ^ (exF y - e).toNat
    let zneg := if isZeroF x && isZeroF y && signF x == signF y then signF x else rm == 2
    roundDy rm n e zneg

/-- The negation of a value that is not a NaN operand's payload: bit 31 flipped. -/
def fneg (x : F32) : F32 := x ^^^ 0x80000000

/-- x - y. -/
def fsub (rm : BitVec 2) (x y : F32) : FRes := if isNaN y then (defNaN, nvOf [x, y]) else fadd rm x (fneg y)

/-- x × y. -/
def fmul (rm : BitVec 2) (x y : F32) : FRes :=
  let neg := signF x != signF y
  if isNaN x || isNaN y then (defNaN, nvOf [x, y])
  else if (isInf x && isZeroF y) || (isZeroF x && isInf y) then invalid
  else if isInf x || isInf y then (infF neg, 0)
  else
    let (a, b) := dyadic (sigF x * sigF y) (exF x + exF y)
    roundF rm neg a b neg

/-- a + b × c with one rounding (R124). -/
def ffma (rm : BitVec 2) (a b c : F32) : FRes :=
  let neg := signF b != signF c
  if (isInf b && isZeroF c) || (isZeroF b && isInf c) then invalid
  else if isNaN a || isNaN b || isNaN c then (defNaN, nvOf [a, b, c])
  else if isInf b || isInf c then (if isInf a && signF a != neg then invalid else (infF neg, 0))
  else if isInf a then (a, 0)
  else
    let ep := exF b + exF c
    let e := min (exF a) ep
    let n := signedF a * 2 ^ (exF a - e).toNat + signedF b * signedF c * 2 ^ (ep - e).toNat
    let pz := isZeroF b || isZeroF c
    let zneg := if isZeroF a && pz && signF a == neg then neg else rm == 2
    roundDy rm n e zneg

/-- x / y. -/
def fdiv (rm : BitVec 2) (x y : F32) : FRes :=
  let neg := signF x != signF y
  if isNaN x || isNaN y then (defNaN, nvOf [x, y])
  else if (isInf x && isInf y) || (isZeroF x && isZeroF y) then invalid
  else if isInf x then (infF neg, 0)
  else if isInf y then (zeroF neg, 0)
  else if isZeroF y then (infF neg, flagDZ)
  else
    let (a, b) := dyadic (sigF x) (exF x)
    let (c, d) := dyadic (sigF y) (exF y)
    roundF rm neg (a * d) (b * c) neg

/-- The greatest r with r² ≤ n, from its `k` lowest bits not yet decided. -/
def isqrtFrom : Nat → Nat → Nat → Nat
  | 0, _, r => r
  | k + 1, n, r => if (r + 2 ^ k) * (r + 2 ^ k) ≤ n then isqrtFrom k n (r + 2 ^ k) else isqrtFrom k n r

/-- √y: the significand is widened to 53 or 54 bits, so its integer root and whether a rest remains decide every
rounding. -/
def fsqrt (rm : BitVec 2) (y : F32) : FRes :=
  if isNaN y then (defNaN, nvOf [y])
  else if isZeroF y then (y, 0)
  else if signF y then invalid
  else if isInf y then (y, 0)
  else
    let sh0 : Nat := 53 - Nat.log2 (sigF y)
    let sh : Nat := if (exF y - sh0) % 2 = 0 then sh0 else sh0 - 1
    let n := sigF y * 2 ^ sh
    let r := isqrtFrom 32 n 0
    let e := (exF y - sh) / 2
    let (a, b) := dyadic (2 * r + if r * r = n then 0 else 1) (e - 1)
    roundF rm false a b false

/-- The order of two values that are not NaNs, with -0 = +0. -/
def ltF (x y : F32) : Bool :=
  if isZeroF x && isZeroF y then false
  else if signF x && !signF y then true
  else if !signF x && signF y then false
  else if signF x then decide ((y.extractLsb' 0 31).toNat < (x.extractLsb' 0 31).toNat)
  else decide ((x.extractLsb' 0 31).toNat < (y.extractLsb' 0 31).toNat)

/-- Equality of two values that are not NaNs. -/
def eqF (x y : F32) : Bool := (isZeroF x && isZeroF y) || x == y

/-- The maximum rule (R116). -/
def fmaxRule (x y : F32) : FRes :=
  if isNaN x || isNaN y then (defNaN, nvOf [x, y])
  else if isZeroF x && isZeroF y then (if signF x then y else x, 0)
  else (if ltF x y then y else x, 0)

/-- The minimum rule (R116). -/
def fminRule (x y : F32) : FRes :=
  if isNaN x || isNaN y then (defNaN, nvOf [x, y])
  else if isZeroF x && isZeroF y then (if signF x then x else y, 0)
  else (if ltF y x then y else x, 0)

/-- A floating compare (R125): NaN operands give false; NV for a signalling NaN only. -/
def fcompare (rel : F32 → F32 → Bool) (x y : F32) : Bool × Flags :=
  if isNaN x || isNaN y then (false, nvOf [x, y]) else (rel x y, 0)

/-! Integers (R126, R127). -/

/-- FP32 to a signed 64-bit integer (R126). DEDUCED: an inexact result sets NX alone, as the pseudocode of R126 has it, also where it is 0,
which R97 calls tiny (notes/assumptions/69.md). -/
def toInt64 (rm : BitVec 2) (v : F32) : Word × Flags :=
  if isNaN v then (0, flagNV)
  else if isInf v then (if signF v then 0x8000000000000000 else 0x7FFFFFFFFFFFFFFF, flagNV)
  else
    let (a, b) := dyadic (sigF v) (exF v)
    let (n, inexact) := roundNat rm (signF v) a b
    let i : Int := if signF v then -(n : Int) else n
    if i > 2 ^ 63 - 1 then (0x7FFFFFFFFFFFFFFF, flagNV)
    else if i < -2 ^ 63 then (0x8000000000000000, flagNV)
    else (BitVec.ofInt 64 i, flagIf inexact flagNX)

/-- An integer to FP32 (R127). -/
def ofInt (rm : BitVec 2) (i : Int) : FRes := roundDy rm i 0 false

/-! BF16 (R99). -/

/-- FP32 to BF16, always to nearest-even. -/
def toBF16 (x : F32) : BitVec 16 × Flags :=
  if isNaN x then (0x7FC0, nvOf [x])
  else if isInf x || isZeroF x then (x.extractLsb' 16 16, 0)
  else
    let (a, b) := dyadic (sigF x) (exF x)
    let (bits, fl) := roundMag 8 (-133) 0 (signF x) a b
    (BitVec.ofNat 16 (bits + if signF x then 2 ^ 15 else 0), fl)

/-- BF16 to FP32: exact, but a NaN gives the default NaN, with NV when it is signalling. -/
def ofBF16 (h : BitVec 16) : FRes :=
  let x : F32 := h ++ 0#16
  if isNaN x then (defNaN, flagIf (!h.getLsbD 6) flagNV) else (x, 0)

/-! DL8 (R100 to R106). -/

/-- k and w of the range of a magnitude code 1 to 126, and the first code of the range (R101). -/
def dl8Range (mc : Nat) : Int × Nat × Nat :=
  if mc < 0x02 then (-6, 0, 0x01) else if mc < 0x04 then (-5, 1, 0x02) else if mc < 0x08 then (-4, 2, 0x04)
  else if mc < 0x10 then (-3, 3, 0x08) else if mc < 0x20 then (-2, 4, 0x10) else if mc < 0x40 then (-1, 5, 0x20)
  else if mc < 0x60 then (0, 5, 0x40) else if mc < 0x70 then (1, 4, 0x60) else if mc < 0x78 then (2, 3, 0x70)
  else if mc < 0x7C then (3, 2, 0x78) else if mc < 0x7E then (4, 1, 0x7C) else (5, 0, 0x7E)

/-- Every DL8 magnitude is an integer over this denominator. -/
def dl8Den : Nat := 32 * 10 ^ 6

/-- The magnitude of a code, times `dl8Den` (R100). -/
def dl8Mag (mc : Nat) : Nat :=
  if mc = 0 then 0
  else if mc = 0x7F then 10 ^ 6 * dl8Den
  else
    let (k, w, first) := dl8Range mc
    (2 ^ w + 9 * (mc - first)) * 2 ^ (5 - w) * 10 ^ (k + 6).toNat

/-- The code is NaR (R100). -/
def isNaR (d : Byte) : Bool := d == 0x80
/-- The exact value of a code other than NaR, times `dl8Den`. -/
def dl8Val (d : Byte) : Int :=
  let m := dl8Mag (d.extractLsb' 0 7).toNat
  if d.getLsbD 7 then -(m : Int) else m

/-- DL8 to FP32 through the table of R103. -/
def ofDL8 (d : Byte) : F32 :=
  if isNaR d then defNaN else (roundF 0 (decide (dl8Val d < 0)) (dl8Val d).natAbs dl8Den false).1

/-- The greatest code, from the `k` lowest bits not yet decided, whose magnitude is at most n / d. -/
def dl8Floor : Nat → Nat → Nat → Nat → Nat
  | 0, _, _, c => c
  | k + 1, n, d, c => if dl8Mag (c + 2 ^ k) * d ≤ n * dl8Den then dl8Floor k n d (c + 2 ^ k) else dl8Floor k n d c

/-- Quantise FP32 `x` with scale `s` (R104). -/
def toDL8 (x s : F32) : Byte × Flags :=
  if isNaN s || isInf s || signF s || isZeroF s then (0x80, flagNV)
  else if isNaN x || isInf x then (0x80, flagNV)
  else
    let (a, b) := dyadic (sigF x) (exF x)
    let (c, d) := dyadic (sigF s) (exF s)
    let n := a * d
    let m := b * c
    if n > 10 ^ 6 * m then (BitVec.ofNat 8 (0x7F + if signF x then 128 else 0), flagOF ||| flagNX)
    else
      let lo := dl8Floor 7 n m 0
      let twice := 2 * n * dl8Den
      let mid := (dl8Mag lo + dl8Mag (lo + 1)) * m
      let mc := if lo = 0x7F then lo else if twice > mid then lo + 1 else if twice < mid then lo else if lo % 2 = 0 then lo else lo + 1
      let fl := flagIf (dl8Mag mc * m != n * dl8Den) flagNX ||| flagIf (mc == 0 && n != 0) flagUF
      (if mc = 0 then 0 else BitVec.ofNat 8 (mc + if signF x then 128 else 0), fl)

/-- Dequantise a code with scale `s`: RNE of its FP32 decode times `s` (R105). -/
def scaleDL8 (d : Byte) (s : F32) : FRes :=
  if isNaN s || isInf s || signF s || isZeroF s then invalid
  else if isNaR d then (defNaN, 0)
  else fmul 0 (ofDL8 d) s

/-- The scale of a block of values (R106): the greatest magnitude over 9.71875, which is 311/32. -/
def blockScale (xs : List F32) : FRes :=
  if xs.any fun x => isNaN x || isInf x then invalid
  else
    let mx := xs.foldl (fun acc x => max acc (x.extractLsb' 0 31).toNat) 0
    if mx = 0 then (0x3F800000, 0)
    else
      let x : F32 := BitVec.ofNat 32 mx
      let (a, b) := dyadic (sigF x) (exF x)
      roundF 0 false (a * 32) (b * 311) false

/-! Q64 (R109 to R112). -/

/-- A contribution of FP32 `x` to a cell of exponent `q`, added to the cell's value `v`: the new value, and whether the
region's overflow bit is set (R110, R111). -/
def q64Add (v : Int) (x : F32) (q : Int) : Int × Bool :=
  if isNaN x then (v, true)
  else if isInf x then (if signF x then -2 ^ 63 else 2 ^ 63 - 1, true)
  else
    let (a, b) := dyadic (sigF x) (exF x - q)
    let n := (roundNat 0 false a b).1
    let i : Int := if signF x then -(n : Int) else n
    if i > 2 ^ 63 - 1 then (2 ^ 63 - 1, true)
    else if i < -2 ^ 63 then (-2 ^ 63, true)
    else if v + i > 2 ^ 63 - 1 then (2 ^ 63 - 1, true)
    else if v + i < -2 ^ 63 then (-2 ^ 63, true)
    else (v + i, false)

/-- A Q64 value as FP32, with the flags of the conversion (R97, R112). -/
def q64ToFF (v q : Int) : FRes := roundDy 0 v q false

/-- A Q64 value as FP32 (R112). -/
def q64ToF (v q : Int) : F32 := (q64ToFF v q).1

/-! Reduction trees (R115, R116). -/

/-- One level of a tree: neighbours combined, the lower-numbered on the left. -/
def pairUp (op : F32 → F32 → FRes) : List F32 → List F32 × Flags
  | x :: y :: rest =>
    let (r, f) := op x y
    let (rs, fs) := pairUp op rest
    (r :: rs, f ||| fs)
  | xs => (xs, 0)

/-- Four levels over sixteen lanes. -/
def tree16 (op : F32 → F32 → FRes) (xs : List F32) : FRes :=
  let (a, fa) := pairUp op xs
  let (b, fb) := pairUp op a
  let (c, fc) := pairUp op b
  let (d, fd) := pairUp op c
  (d.headD 0, fa ||| fb ||| fc ||| fd)

/-- A lane-wise operation: the results and the union of the flags (R122). -/
def laneMap2 (op : F32 → F32 → FRes) (x y : Vec) : Vec × Flags :=
  let rs := (upTo 16).map fun l => op (lane x l) (lane y l)
  (ofLanes (rs.map (·.1)), rs.foldl (fun acc r => acc ||| r.2) 0)

/-- A lane-wise conversion. -/
def laneMap1 (op : F32 → FRes) (x : Vec) : Vec × Flags :=
  let rs := (lanes x).map op
  (ofLanes (rs.map (·.1)), rs.foldl (fun acc r => acc ||| r.2) 0)

end Sys2Proof.Machine
end

