-- ==== Sys2Proof/Machine/Translate.lean ====
section
/-!
DEFINITION. Virtual addresses to homes: page tables, region table, TLB, permissions and the order of checks
(spec/07_address_space.md, R142 to R160, R488), and performing an access at its home (R143, R433 to R438).
-/
namespace Sys2Proof.Machine

/-! Page-table and region-table entries (R146, R151). -/

/-- Bits [lo + n - 1 : lo] of a doubleword. -/
def field (x : Word) (lo n : Nat) : Nat := x.toNat / 2 ^ lo % 2 ^ n

namespace TlbEntry
def home (e : TlbEntry) : Nat := field e.pte 24 2
def regionIdx (e : TlbEntry) : Nat := field e.pte 18 6
def user (e : TlbEntry) : Bool := e.pte.getLsbD 5
def exec (e : TlbEntry) : Bool := e.pte.getLsbD 4
def write (e : TlbEntry) : Bool := e.pte.getLsbD 3
def read (e : TlbEntry) : Bool := e.pte.getLsbD 2
/-- KIND of the region entry. -/
def kind (e : TlbEntry) : Nat := field e.dw0 0 2
/-- Bytes of a coherence grain (R151). -/
def grain (e : TlbEntry) : Nat := if field e.dw0 2 2 = 0 then 32 else if field e.dw0 2 2 = 1 then 128 else 512
/-- Element class: 0 FP32, 1 BF16, 2 INT32, 3 INT64. -/
def cls (e : TlbEntry) : Nat := field e.dw0 4 2
/-- The adjoint exponent, nine bits of two's complement. -/
def q (e : TlbEntry) : Int := if field e.dw0 6 9 ≥ 256 then (field e.dw0 6 9 : Int) - 512 else field e.dw0 6 9
def basestamp (e : TlbEntry) : BitVec 32 := e.dw0.extractLsb' 32 32
def origin (e : TlbEntry) : Nat := field e.dw1 0 58
def shadow (e : TlbEntry) : Nat := field e.dw2 0 58
/-- Element width of a differentiable region (R153). -/
def elemWidth (e : TlbEntry) : Nat := if e.cls = 1 then 2 else if e.cls = 3 then 8 else 4
/-- The entry is invalid (R152). -/
def invalid (e : TlbEntry) : Bool :=
  e.kind == 3 || field e.dw0 2 2 == 3 ||
    (e.kind == 2 && (decide (e.q < -160) || decide (e.q > 96) || e.shadow % 8 != 0))
/-- The physical address of `va` in the page, in the home's own address space; the peer number aside (R147). -/
def physical (e : TlbEntry) (va : Nat) : Nat :=
  let frame := field e.pte 26 38 / 2 ^ e.span * 2 ^ e.span
  let frame := if e.home = 3 then frame % 2 ^ 26 else frame
  frame * 2 ^ 14 + va % 2 ^ (14 + e.span)
/-- The peer a home-3 page names (R143). -/
def peer (e : TlbEntry) : Nat := field e.pte 52 12
end TlbEntry

/-- What a walk finds. -/
inductive WalkRes where
  | leaf (e : TlbEntry)
  /-- V = 0 (R148). -/
  | absent
  | malformed
  /-- An uncorrectable error: 1 + the level, or 5 for the region entry (R488), and the address of the entry. -/
  | error (aux pa : Nat)
  /-- A table at a physical address that no memory holds. -/
  | outside (pa : Nat)
deriving DecidableEq, Repr

/-- A leaf found at `level`: malformed, or the TLB entry it makes (R147, R148). -/
def leafOf (s : State) (c : Context) (die va level : Nat) (pte : Word) : WalkRes :=
  let span := field pte 13 5
  let frame := field pte 26 38 / 2 ^ span * 2 ^ span
  if level < 2 || (level = 3 && span > 10) || (level = 2 && (span < 11 || span > 16)) then .malformed
  else if field pte 24 2 = 0 && frame * 2 ^ 14 + 2 ^ (14 + span) > Config.deviceBytes then .malformed
  else
    let r := field c.regiontab 11 41 * 2048 + 32 * field pte 18 6
    if r + 32 > Config.deviceBytes then .outside r
    else if s.badAt r 32 then .error 5 r
    else .leaf { die := die, ctx := c.num, va := va / 2 ^ (14 + span) * 2 ^ (14 + span), span := span, pte := pte,
                 dw0 := BitVec.ofNat 64 (s.peek r 8), dw1 := BitVec.ofNat 64 (s.peek (r + 8) 8),
                 dw2 := BitVec.ofNat 64 (s.peek (r + 16) 8) }

/-- Walk the levels that remain (level, lowest VA bit of its index) from `table` (R145 to R149, R488). -/
def walkFrom (s : State) (c : Context) (die va : Nat) : List (Nat × Nat) → Nat → WalkRes
  | [], _ => .malformed
  | (level, sh) :: rest, table =>
    let a := table + 8 * (va / 2 ^ sh % 2048)
    if a + 8 > Config.deviceBytes then .outside a
    else if s.badAt a 8 then .error (1 + level) a
    else
      let pte := BitVec.ofNat 64 (s.peek a 8)
      if !pte.getLsbD 0 then .absent
      else if pte.getLsbD 1 then leafOf s c die va level pte
      else if field pte 24 2 != 0 then .malformed
      else walkFrom s c die va rest (field pte 26 38 * 2 ^ 14)

/-- A walk of the context's tables for `va`. -/
def walk (s : State) (c : Context) (die va : Nat) : WalkRes :=
  walkFrom s c die va [(0, 47), (1, 36), (2, 25), (3, 14)] (field c.pageroot 14 38 * 2 ^ 14)

/-- The entries a walker may use: its micro-TLB's and its die's (R155). -/
def Walker.entries (w : Walker) (s : State) : List TlbEntry :=
  (match w.core with | some k => (s.core k).microOf w.fetch | none => []) ++ s.tlb

/-- The entry for `va` that the waiting instruction goes on with (R167, R491), or else the cached one, of greatest span if several contain
it (R156). -/
def tlbFind (s : State) (w : Walker) (va : Nat) : Option TlbEntry :=
  (first? (fun e => e.serves w.die w.ctx va) w.walks).orElse fun _ => ((w.entries s).filter fun e => e.serves w.die w.ctx va).foldl
    (fun best e => match best with
      | none => some e
      | some b => if e.span > b.span then some e else some b) none

/-- The context that a walker acts for, with HCTX as its host request began with it (R491). -/
def State.contextOf (s : State) (w : Walker) : Context :=
  let c := s.contextD w.ctx
  { c with hctx := w.hctx.getD c.hctx }

/-- A lookup: the cached entry, or a walk (notes/assumptions/8.md: a cached entry is always used). -/
def lookup (s : State) (w : Walker) (va : Nat) : WalkRes :=
  match tlbFind s w va with
  | some e => .leaf e
  | none => walk s (s.contextOf w) w.die va

/-- Cache a leaf in its die's last-level TLB of 16,384 entries and, for a core, in its micro-TLB of 64 data and 16 instruction
entries, unless an entry there covers its whole page (R155 to R157). The instruction under way has used it. -/
def State.cacheLeaf (s : State) (w : Walker) (e : TlbEntry) : State :=
  let s := { s with used := if s.used.contains e then s.used else s.used ++ [e] }
  let s := if s.tlb.any fun x => x.serves e.die e.ctx e.va && decide (e.span ≤ x.span) then s
    else if decide ((s.tlb.countP fun x => x.die == e.die) < 16384) then { s with tlb := s.tlb ++ [e] }
    else
      let (l, s) := insertEntry 16384 (s.tlb.filter fun x => x.die == e.die) e s
      { s with tlb := s.tlb.filter (fun x => x.die != e.die) ++ l }
  match w.core with
  | none => s
  | some k =>
    if ((s.core k).microOf w.fetch).any fun x => x.serves e.die e.ctx e.va && decide (e.span ≤ x.span) then s
    else
      let (l, s) := insertEntry (if w.fetch then 16 else 64) ((s.core k).microOf w.fetch) e s
      s.putCore ((s.core k).setMicro w.fetch l)

/-- Every walk slot of the die is taken by walks that have not completed (R157). -/
def State.walksFull (s : State) (die : Nat) : Bool :=
  decide (32 ≤ s.events.countP fun e => match e with | .tlbWalkComplete slot _ => slot / 2 ^ 15 % 8 == die | _ => false)

/-- The current thread as a walker for data. -/
def Thread.walker (t : Thread) : Walker :=
  { die := t.die, ctx := t.ctx, sup := t.sup || t.isSluice, core := if t.isRill then none else some t.coreId, fetch := false,
    walks := t.walks, hctx := t.asked }

/-- An engine of `die` that acts for a context with full rights. -/
def Walker.engine (die ctx : Nat) : Walker := { die := die, ctx := ctx, sup := true, core := none, fetch := false, waits := false }

/-- A translated address. -/
structure Xlat where
  entry : TlbEntry
  va : Nat
  /-- Physical address in the home's own address space. -/
  pa : Nat
  /-- The PASID that a request to the host carries (R429). -/
  pasid : Option (BitVec 20) := none
deriving DecidableEq, Repr

/-- The PASID that HCTX gives the requests of a context (R429). -/
def Context.pasid (c : Context) : Option (BitVec 20) := if c.hctx.getLsbD 20 then some (c.hctx.setWidth 20) else none

/-- The host memory that a request names: with a PASID the host translates its page, in a way that the device does not see
(notes/assumptions/44.md). -/
def hostAddr (p : Option (BitVec 20)) (pa : Nat) : Nat :=
  match p with
  | none => pa
  | some p => Config.hostPage p (pa / 4096) % 2 ^ 40 * 4096 + pa % 4096

namespace Xlat
def home (x : Xlat) : Nat := x.entry.home
/-- The key of the first byte in the model's memory. -/
def key (x : Xlat) : Nat :=
  if x.home = 0 then x.pa else if x.home = 3 then peerKey x.entry.peer x.pa else hostKey (hostAddr x.pasid x.pa)
/-- Plain page homed on device memory. -/
def plainDevice (x : Xlat) : Bool := x.entry.kind == 0 && x.home == 0
end Xlat

/-- A walk of `w` has to wait: every walk slot of the core's die is taken (R157), or a bank or a way is under test (R478;
notes/assumptions/37.md). -/
def State.walkWaits (s : State) (w : Walker) : Bool := w.waits && (s.memTested || w.core.isSome && s.walksFull w.die)

/-- Translate `va` (R142 to R157, R488). A thread that needs a walk stalls while the walk has to wait. -/
def translateFor (w : Walker) (va : Word) : Exec Xlat := do
  let s ← get
  if (tlbFind s w va.toNat).isNone && s.walkWaits w then stall else pure ()
  match lookup s w va.toNat with
  | .leaf e => do
    set (s.cacheLeaf w e)
    return { entry := e, va := va.toNat, pa := e.physical va.toNat
             pasid := if e.home = 1 || e.home = 2 then (s.contextOf w).pasid else none }
  | .absent => throw (.page va)
  | .malformed => trap Cause.prot va
  | .error aux a => memErr (unitAt a) va (BitVec.ofNat 32 aux)
  | .outside pa => throw (.fault (.noMemory pa))

/-- R159: the permissions of a data access. -/
def permitted (w : Walker) (e : TlbEntry) (rd wr : Bool) : Bool :=
  (!rd || e.read) && (!wr || e.write) && (w.sup || e.user)

/-- `va` lies in an aperture or in the sluice code range, which no page table translates (R185, R327, R486). -/
def inAperture (va : Word) : Bool :=
  decide (Config.sluiceCode ≤ va.toNat) && decide (va.toNat < Config.sluiceCodeEnd) ||
  decide (Config.handleAperture ≤ va.toNat) && decide (va.toNat < Config.handleApertureEnd) ||
  decide (Config.cisternAperture ≤ va.toNat) && decide (va.toNat < Config.cisternApertureEnd)

/-- REGION, with the region index in AUX (R220). -/
def trapRegion {α : Type} (va : Word) (e : TlbEntry) (cell : Bool := false) : Exec α :=
  trap Cause.region va (BitVec.ofNat 32 (e.regionIdx + if cell then 256 else 0))

/-- Steps 2 to 5 of R160 up to an invalid region entry, for an address that may use no aperture (R489). -/
def reachAs (w : Walker) (va : Word) (rd wr : Bool) : Exec Xlat := do
  trapIf (decide (va.toNat ≥ Config.vaEnd)) Cause.prot va
  trapIf (inAperture va) Cause.prot va
  let x ← translateFor w va
  trapIf (!permitted w x.entry rd wr) Cause.prot va
  if x.entry.invalid then trapRegion va x.entry else return x

/-- As `reachAs`, for the current thread. -/
def reach (va : Word) (rd wr : Bool) : Exec Xlat := do reachAs (← getCpu).walker va rd wr

/-- Step 1 of R160: natural alignment. -/
def checkAlign (va : Word) (w : Nat) : Exec Unit := trapIf (va.toNat % w != 0) Cause.align va

/-! Performing an access at its home. -/

/-- The port a context's host requests use (R429). -/
def portOf (c : Context) (pa : Nat) : Port :=
  let sel := field c.hctx 22 2
  if sel = 1 then .b else if sel = 2 then (if pa / 4096 % 2 = 0 then .a else .b) else .a

/-- AUX of REMOTE on a port (R435). -/
def portAux (p : Port) : BitVec 32 := match p with | .a => 0x1000 | .b => 0x1001

/-- The grain of a translated address (R151, R170). -/
def Xlat.grain (x : Xlat) : Nat := x.pa / x.entry.grain * x.entry.grain

/-- The die of a port's host agent (R9, R431). -/
def portDie : Port → Nat
  | .a => 0
  | .b => 3

/-- The current thread's context, as its host requests use it (R429, R491). -/
def State.here (s : State) : Context := s.contextOf s.cpu.walker

/-- The port of a host request of the current thread. -/
def State.portFor (s : State) (pa : Nat) : Port := portOf s.here pa

/-- A cache of the device holds a copy of the home-1 line of `x`: for a write, one that the host has no part in (R431). -/
def State.hasHostLine (s : State) (x : Xlat) (write : Bool) : Bool :=
  x.home == 1 && s.tracked.any fun h => h.grain == lineOf x.key && (!write || h.state != .shared)

/-- What a host request does besides reading: whether it writes, whether it is a read-modify-write, and whether it is performed at the
home in any case (R213). -/
structure HostUse where
  write : Bool := false
  rmw : Bool := false
  atHome : Bool := false
deriving DecidableEq, Repr

/-- A request of home 1 or 2 that waits for a completion (R433 to R435): REMOTE for a port that is down, for home 1 on
a PCIe port, for a completion that times out or fails; ATOMUNSUP for a read-modify-write that the completion refuses. While the
port's completions do not arrive, the thread stalls, unless the device holds the line with the right it needs (R431). -/
def hostRequest (x : Xlat) (va : Word) (u : HostUse) : Exec Unit := do
  let s ← get
  let p := s.portFor x.pa
  let port := s.port p
  trapIf (!port.up || (x.home == 1 && port.pcie)) Cause.remote va (portAux p)
  match s.cpu.reply with
  | .failed => trap Cause.remote va (portAux p)
  | .unsupported => if u.rmw then trap Cause.atomunsup va else trap Cause.remote va (portAux p)
  | .done => pure ()
  | _ => if port.answers || (!u.atHome && s.hasHostLine x (u.write || u.rmw)) then pure () else stall (.request none)

/-- The peer table's entry for `p`; one not listed is (incarnation 0, down) (R436). -/
def State.peer (s : State) (p : BitVec 12) : Peer :=
  (first? (fun e => e.num == p) s.peers).getD { num := p, inc := 0, up := false, answers := true }

/-- A peer answers an access of `n` bytes positively (R438, R441). -/
def State.peerGrants (s : State) (ctx peer pa n : Nat) (rd wr : Bool) : Bool :=
  s.peers.any (fun p => p.num.toNat == peer && p.up) &&
  s.grants.any fun g => g.peer.toNat == peer && g.ctx == ctx && decide (g.lo ≤ pa) && decide (pa + n ≤ g.hi) &&
    (!rd || g.rd) && (!wr || g.wr)

/-- A load or read-modify-write of `n` bytes of a peer is answered, or traps REMOTE (R438, R441). While the peer's answers do
not arrive, the thread stalls. -/
def peerRequest (x : Xlat) (va : Word) (n : Nat) (rd wr : Bool) : Exec Unit := do
  let s ← get
  let p := x.entry.peer
  trapIf (s.cpu.reply == .failed || !s.peerGrants s.cpu.ctx p x.pa n rd wr) Cause.remote va (BitVec.ofNat 32 p)
  if (s.peer (BitVec.ofNat 12 p)).answers || s.cpu.reply == .done then pure () else stall (.request (some p))

/-- A load or read-modify-write of `n` bytes of home 1, 2 or 3 is answered, or traps REMOTE (R435, R438). -/
def remoteReady (x : Xlat) (va : Word) (n : Nat) (rd wr : Bool) (atHome : Bool := false) : Exec Unit :=
  if x.home = 1 || x.home = 2 then hostRequest x va { write := wr, rmw := rd && wr, atHome := atHome }
  else if x.home = 3 then peerRequest x va n rd wr
  else pure ()

/-- An access of the current thread to the byte at key `k` needs the unit (R478): it holds the byte, or it is a way of the set in
which the core's L1, or the slice, keeps the line. -/
def State.needs (s : State) (k : Nat) (u : TestUnit) : Bool :=
  match u with
  | .bank d b => decide (k < Config.deviceBytes) && d == k / 2 ^ 37 && b == Config.bankOf k
  | .line c l => decide (cisternKey c (512 * l) ≤ k) && decide (k < cisternKey c (512 * l) + 512)
  | .way x i w =>
    decide (k < Config.deviceBytes) &&
      (if x < 4096 then !s.cpu.isRill && x == s.cpu.coreId && k / 512 % 16 == i
       else if x < 8192 then false
       else l2Set k == i && (if w < 14 then sliceOf k == x - 8192 else 64 * s.cpu.die + sliceOf k % 64 == x - 8192 && k / 2 ^ 37 != s.cpu.die))
  | _ => false

/-- An access of bytes `k` to `k + n - 1` has to wait: a unit that it needs runs a self-test (R478), or an update of one of
the bytes waits at its home for the host's answer (R291, R432). -/
def State.testing (s : State) (k n : Nat) : Bool :=
  s.events.any fun e => match e with
    | .selfTestVerdict u _ => s.needs k u
    | .rupdApply r => overlaps k n r.addr 8
    | _ => false

/-- A store to one of the bytes at a peer is on its way: every later access of the bytes by the device comes after it (R200, R206, R210,
R438; notes/assumptions/26.md). -/
def State.owedAt (s : State) (k n : Nat) : Bool :=
  s.owedStores.any fun o => match o.what with
    | .bytes a bs => overlaps k n a bs.length
    | .update r => overlaps k n r.addr 8

/-- The cistern line in which a window keeps byte `a` of a grain that it owns. -/
def State.dirtyLine (s : State) (a : Nat) : Option TestUnit :=
  s.cores.findSome? fun c => c.windows.findSome? fun w =>
    (first? (fun f => overlaps a 1 f.home f.size && (f.state == .modified || f.state == .owned)) w.fills).map fun f =>
      .line c.id (w.f + (f.va + (a - f.home) - w.va) / 512)

/-- The unit that holds the first of the bytes whose check fails (R478): the L1 way or the cistern line of a copy in state M or O, whose
bytes the home has not, and else the home's. -/
def State.badUnit (s : State) (k n : Nat) : Option TestUnit :=
  (first? s.bad.contains (sectorsOf k n)).bind fun q =>
    match first? (fun h => decide (h.core < 4096) && overlaps (32 * q) 32 h.grain h.size && (h.state == .modified || h.state == .owned)) s.tracked with
    | some h => some (s.wayAt h.core (h.grain / 512 % 16) 0 8)
    | none => (s.dirtyLine (32 * q)).orElse fun _ => unitAt (32 * q)

/-- The bytes at key `k` are delivered unless their check fails (R18, R164). A unit under test makes the access wait (R478). -/
def deliver (k n : Nat) (va : Word) : Exec (List Byte) := do
  let s ← get
  if s.testing k n || s.owedAt k n then stall else pure ()
  memErrIf (s.badAt k n) (s.badUnit k n) va
  return Memory.reads s.mem k n

/-! The L1 and the directory (R170 to R177, R431). -/

/-- L1 serves the access (R175): a page that is not aged, homed on the core's own die. -/
def Xlat.inL1 (x : Xlat) (t : Thread) : Bool :=
  x.home == 0 && x.entry.kind != 1 && x.pa / 2 ^ 37 == t.die && !t.isRill

/-- The home slice serves the current thread's request for a grain, or refuses it while another transaction of the grain is in
flight or another request holds an earlier ticket (R176, R177). -/
def requestGrain (g size : Nat) (write : Bool) : Exec Unit := do
  let s ← get
  let w := Want.grain g write
  if (s.dirEntry g size).busy || !s.mayServe s.cpu.id w then stall (.refused w)
  else set (s.served' s.cpu.id w)

/-- The current core's L1 holds the grain, for a write in state M: from the directory unless it has it (R170, R175). -/
def ownGrain (x : Xlat) (write : Bool) : Exec Unit := do
  let s ← get
  let k := s.cpu.coreId
  let h : Held := { core := k, grain := x.grain, size := x.entry.grain, state := .modified }
  match first? (fun y => y.core == k && y.grain == h.grain && y.size == h.size) s.tracked with
  | some y =>
    if !write then pure ()
    else if y.state == .modified || y.state == .exclusive then set (s.holdGrain h)
    else do
      requestGrain h.grain h.size true
      modify fun s => ((s.grantNow k h.grain h.size true).2).holdGrain h
  | none => do
    requestGrain h.grain h.size write
    modify fun s => match s.fitL1 k h.grain with
      | some s => let (m, s) := s.grantNow k h.grain h.size write; s.holdGrain { h with state := m }
      | none => if write then s.withdraw h.grain h.size else s

/-- `holder` keeps a home-1 line in this state, if it has room. -/
def State.keepAt (s : State) (holder line : Nat) (m : Moesi) : State :=
  match s.fit holder line with
  | some s => s.holdGrain { core := holder, grain := line, size := 512, state := m }
  | none => s

/-- A home-1 line is kept in the core's L1, on the die of the port, and in that die's remote partition, for a write in one of them;
the port's host agent tracks it (R431; notes/assumptions/52.md). -/
def keepHostLine (x : Xlat) (m : Moesi) : Exec Unit :=
  modify fun s =>
    let die := portDie (s.portFor x.pa)
    let line := lineOf x.key
    if s.cpu.isRill then s
    else
      let s := if m == .shared then s.demote line 512 else s
      let s := if die == s.cpu.die then s.keepAt s.cpu.coreId line m else s
      if m == .shared || die != s.cpu.die then s.keepAt (4096 + die) line m else s

/-- Read `n` bytes of a translated address: served by L1, or at the home (R175, R213). -/
def homeRead (x : Xlat) (n : Nat) (atHome : Bool) : Exec (List Byte) := do
  let va := BitVec.ofNat 64 x.va
  remoteReady x va n true false atHome
  let bs ← deliver x.key n va
  let s ← get
  if x.inL1 s.cpu && !atHome then ownGrain x false
  else if x.home = 1 && !atHome && !s.tracked.any (fun h => h.core == s.cpu.coreId && h.grain == lineOf x.key) then keepHostLine x .shared
  else pure ()
  return bs

/-- The directory entry of a grain that holds one of the device bytes `k` to `k + n - 1` and that the host has a copy of (R432). -/
def State.hostHolds (s : State) (k n : Nat) : Option DirEntry :=
  first? (fun d => overlaps k n d.grain d.size && (d.hostA || d.hostB)) s.dirs

/-- A host copy of the bytes has to be invalidated before a write of them is performed (R432). -/
def hostCopy (k n : Nat) : Exec Unit := do
  match (← get).hostHolds k n with
  | some d => stall (.snoop (if d.hostA then .a else .b) d.grain)
  | none => pure ()

/-- The state from now on is `f` of it, once the host holds no copy of a grain that `f` writes (R432). -/
def writing (f : State → State) : Exec Unit := do
  let s ← get
  match s.hostLost (f s) with
  | some d => stall (.snoop (if d.hostA then .a else .b) d.grain)
  | none => set (f s)

/-- Events that are served in the order of their arrival: 1, requests for a report (R474); 2, requests of the control page, whose slots
are 0 to 31 (R482); 3, appends to the audit log (R475); 0, every other event. -/
def arrivalClass (e : Instr) : Nat :=
  match e with
  | .attestationRequest _ => 1
  | .contextCreate _ => 2
  | .contextRelease k => if k < 32 then 2 else 0
  | .auditAppend _ _ | .scrubComplete _ _ _ | .selfTestVerdict _ _ | .measurementExtend _ _ _ => 3
  | _ => 0

/-- Event `d` is served in the order of arrival with `e`. -/
def sameQueue (e d : Instr) : Bool := arrivalClass e != 0 && arrivalClass e == arrivalClass d

/-- An event comes back, ahead of those that arrived after it where the order of arrival counts. -/
def State.postAgain (s : State) (e : Instr) : State :=
  { s with events := s.events.filter (fun d => !sameQueue e d) ++ e :: s.events.filter (sameQueue e) }

/-- The outcome of an event whose writes no thread waits for: while the host holds a copy of a grain that it writes, the snoop is
sent and the event comes back (R432). -/
def awaitHost (e : Instr) (s : State) (r : Host.Outcome State Fault Refusal) : Host.Outcome State Fault Refusal :=
  match r with
  | .next s' =>
    match s.hostLost s' with
    | some d => .next ((s.leave (.snoop (if d.hostA then .a else .b) d.grain)).postAgain e)
    | none => .next s'
  | r => r

/-- A write of home 1 or 2 on port `p`; a posted one counts as outstanding, and stays on its way while the port's completions do
not arrive (R433), a volatile one (`vol`) among them (R213). -/
def State.hostWrite (s : State) (p : Port) (x : Xlat) (bs : List Byte) (vol : Bool) : State :=
  if x.home = 1 then s.homeWrite x.key bs
  else
    let s := { s with cpu := match p with | .a => { s.cpu with postedA := true } | .b => { s.cpu with postedB := true } }
    if (s.port p).answers then s.homeWrite x.key bs
    else
      let t := s.cpu
      let s := { s with cpu := match p with | .a => { t with volatileA := t.volatileA || vol } | .b => { t with volatileB := t.volatileB || vol } }
      s.modPort p fun q => { q with posts := q.posts ++ [(x.key, bs)] }

/-- The record of kind 4 that a refused store of thread `t` to peer `p` writes (R229, R438). DESIGN CHOICE: its AUX and LEN are 0
(notes/assumptions/55.md). -/
def refusedNote (t : Thread) (va : Word) (p : BitVec 12) : Note :=
  { trapNote t Cause.remote va (p.setWidth 64) 0 0 0 with kind := 4, target := .slot t.id }

/-- The current thread owes its peer the store `what` at `va` (R438, R441). -/
def State.owe (s : State) (x : Xlat) (va : Word) (vol : Bool) (what : OwedWrite) : State :=
  let note := refusedNote s.cpu va (BitVec.ofNat 12 x.entry.peer)
  { s with owedStores := s.owedStores ++ [{ slot := s.cpu.id, note := note, vol := vol, va := va, peer := x.entry.peer, what := what }] }

/-- Write bytes of a translated address (R175, R212). A write that a peer refuses is dropped and reported (R438); while the peer's
answers do not arrive, one is performed there when it is acknowledged. `vol`: it is volatile (R213). -/
def homeStore (x : Xlat) (bs : List Byte) (atHome : Bool := false) (vol : Bool := false) : Exec Unit := do
  let s ← get
  let va := BitVec.ofNat 64 x.va
  if s.testing x.key bs.length then stall else pure ()
  if x.home = 0 then do
    hostCopy x.key bs.length
    if x.inL1 s.cpu && !atHome then do
      ownGrain x true
      modify fun s => (s.dropAged x.key bs.length).putBytes x.key bs
    else modify fun s => s.writeFrom s.cpu.die x.key bs
  else if x.home = 1 then do
    hostRequest x va { write := true, atHome := atHome }
    modify fun s => s.homeWrite x.key bs
    if atHome then pure () else keepHostLine x .modified
  else if x.home = 2 then do
    let p := s.portFor x.pa
    trapIf (!(s.port p).up) Cause.remote va (portAux p)
    modify fun s => s.hostWrite p x bs vol
  else if s.peerGrants s.cpu.ctx x.entry.peer x.pa bs.length false true then
    modify fun s =>
      if (s.peer (BitVec.ofNat 12 x.entry.peer)).answers && !s.owedAt x.key bs.length then s.homeWrite x.key bs
      else s.owe x va vol (.bytes x.key bs)
  else modify fun s => s.post (.peerStoreRefused s.cpu.id va (BitVec.ofNat 12 x.entry.peer))


end Sys2Proof.Machine
end

