-- ==== Sys2Proof/Machine/Home.lean ====
section
/-!
DEFINITION. What is done at a home in one step: read-modify-writes and reservations (R270 to R279, R288 to R290), the
update unit's functions (R274), stamped stores and stamps (R242 to R255). The instructions call these operations at
once; the events RMW_AT_HOME, RUPD_APPLY and STAMPED_STORE_HOME call the same ones.
-/
namespace Sys2Proof.Machine

/-! Reservations (R275, R276). -/

/-- The granule of an address (R275). -/
def granule (a : Nat) : Nat := a / 64 * 64

/-- `holder` reserves the granule of `a`: its earlier reservation is lost, and in a full table the one taken longest ago
(R275). -/
def State.reserve (s : State) (holder a : Nat) : State :=
  let s := s.dropResv fun r => r.holder == holder
  let sl := sliceOf a
  let s := if decide ((s.resvs.filter fun r => r.slice == sl).length ≥ 128) then
      match first? (fun r => r.slice == sl) s.resvs with
      | some old => s.dropResv fun r => r.rid == old.rid
      | none => s
    else s
  let e : Resv := { slice := sl, granule := granule a, holder := holder, rid := s.nextRid }
  { s with resvs := s.resvs ++ [e], nextRid := s.nextRid + 1 }

/-- `holder`'s reservation stands and names the granule of `a` (R290). -/
def State.reserved (s : State) (holder a : Nat) : Bool := s.resvs.any fun r => r.holder == holder && r.granule == granule a

/-! Read-modify-writes (R270, R271, R288 to R290). -/

/-- The width of a read-modify-write (R272). -/
def rmwWidth : RmwOp → Nat | .casx => 16 | _ => 8

/-- The new value a fetch-and-op writes (R288). -/
def rmwApply (op : RmwOp) (old x : Word) : Word :=
  match op with
  | .add => old + x
  | .and => old &&& x
  | .or => old ||| x
  | .xor => old ^^^ x
  | .min => if old.slt x then old else x
  | .max => if old.slt x then x else old
  | _ => x

/-- One read-modify-write at its home: what it read, whether it wrote, and the state after it. -/
def rmwAt (r : RmwReq) (s : State) : BitVec 128 × Bool × State :=
  let n := rmwWidth r.op
  let old : BitVec 128 := BitVec.ofNat 128 (s.peek r.addr n)
  match r.op with
  | .lr => (old, false, s.reserve r.holder r.addr)
  | .sc =>
    let ok := s.reserved r.holder r.addr
    let s := s.dropResv fun e => e.holder == r.holder
    (old, ok, if ok then s.poke r.addr 8 (r.x.setWidth 64).toNat else s)
  | .cas => if old == (r.e.setWidth 64).setWidth 128 then (old, true, s.poke r.addr 8 (r.x.setWidth 64).toNat) else (old, false, s)
  | .casx => if old == r.e then (old, true, s.poke r.addr 16 r.x.toNat) else (old, false, s)
  | op => (old, true, s.poke r.addr 8 (rmwApply op (old.setWidth 64) (r.x.setWidth 64)).toNat)

/-! The update unit's functions (R274). -/

/-- Set OVF in the region entry at `e` by an atomic OR at its home (R154). -/
def State.setOvf (s : State) (e : Nat) : State := s.poke (e + 1) 1 ((s.peek (e + 1) 1) ||| 0x80)

/-- An eight-byte cell as a signed number. -/
def State.cell (s : State) (a : Nat) : Int := (BitVec.ofNat 64 (s.peek a 8)).toInt

/-- Add a Q64 contribution to the cell at `a` (R110, R111), setting OVF at `ovf` on saturation. -/
def q64At (s : State) (a : Nat) (x : F32) (q : Int) (ovf : Option Nat) : State :=
  let (v, sat) := q64Add (s.cell a) x q
  let s := s.poke a 8 (BitVec.ofInt 64 v).toNat
  match sat, ovf with
  | true, some e => s.setOvf e
  | _, _ => s

/-- Width of a function's cell (R272, R274). -/
def rupdWidth (fn : BitVec 3) : Nat := if fn == 2 then 4 else 8

/-- Apply an update at its home (R274). An update that meets a cell marked bad is discarded, and the error leads to a self-test
(R287, R478). -/
def rupdAt (r : RupdReq) (s : State) : State :=
  let s := s.receives r.launch (updateUnit r.addr)
  if s.badAt r.addr (rupdWidth r.fn) then s.selfTest (s.badUnit r.addr (rupdWidth r.fn))
  else
    let old := BitVec.ofNat 64 (s.peek r.addr 8)
    if r.fn == 0 then q64At s r.addr (r.x.setWidth 32) r.q r.ovf
    else if r.fn == 1 then q64At s r.addr (r.x.extractLsb' 32 32) (r.x.setWidth 8).toInt r.ovf
    else if r.fn == 2 then
      s.poke r.addr 4 (fadd 0 (BitVec.ofNat 32 (s.peek r.addr 4)) (r.x.setWidth 32)).1.toNat
    else if r.fn == 3 then s.poke r.addr 8 (old + r.x).toNat
    else if r.fn == 4 then s.poke r.addr 8 (if old.slt r.x then old else r.x).toNat
    else if r.fn == 5 then s.poke r.addr 8 (if old.slt r.x then r.x else old).toNat
    else if r.fn == 6 then s.poke r.addr 8 (old ||| r.x).toNat
    else s.poke r.addr 8 (old &&& r.x).toNat

/-- The agent of slot `slot` has applied the update: the copies on its die become what the home has of the cell and of the region entry
(R205, R210). -/
def State.syncUpdate (s : State) (slot : Nat) (r : RupdReq) : State :=
  let s := s.syncFor slot r.addr (rupdWidth r.fn)
  match r.ovf with
  | some e => s.syncFor slot (e + 1) 1
  | none => s

/-! Stamps (R242, R246, R254). -/

/-- The stamp of a grain: BASESTAMP while its INIT bit is 0 (R242). -/
def State.stampOf (s : State) (grain : Nat) (base : BitVec 32) : BitVec 32 := assocD base grain s.stamps

/-- Set a grain's stamp and its INIT bit. -/
def State.setStamp (s : State) (grain : Nat) (stamp : BitVec 32) : State := { s with stamps := assocSet grain stamp s.stamps }

/-- A copy of the grain that stays when `writer` makes store number `n + 1` to it: the copy's state is older than that store. -/
def overtaken (grain writer n : Nat) (c : Copy) : Copy :=
  if c.stamp.isSome && c.home == grain && !(c.later.any fun x => x.1 == writer) then { c with later := c.later ++ [(writer, n + 1)] } else c

/-- The state the home slice holds for the aged grain at `g`, in a page of entry `e` (R242). -/
def State.homeGrain (s : State) (e : TlbEntry) (g : Nat) : Grain :=
  let w := assocD (0, 0) g s.stampWrites
  { home := g, data := Memory.reads s.mem g e.grain, stamp := s.stampOf g e.basestamp,
    bad := s.bad.filter fun k => decide (g ≤ 32 * k) && decide (32 * k < g + e.grain), writer := w.1, wrote := w.2 }

/-- A stored grain serves the waiting loads that it satisfies (R250): each keeps the state, and its weir entry is freed. -/
def State.serveWeir (s : State) (grain : Nat) (stamp : BitVec 32) : State :=
  let mine (w : Weir) : Bool := w.grain == grain && decide ((stamp - w.least).toInt ≥ 0)
  let keep (t : Thread) : Thread := { t with agedWait := t.agedWait.map fun k => { k with served := some (s.homeGrain k.entry grain) } }
  { s.mapThreads (fun t => s.weir.any fun w => w.slot == t.id && mine w) keep with weir := s.weir.filter fun w => !mine w }

/-- A stamped store of one grain at its home (R254): discarded and counted, or performed, after which it serves every
weir entry it satisfies (R250): the waiting load completes with the stored state when it is tried again. -/
def stampedAt (r : StampedStore) (writer : Nat) (s : State) : State :=
  let cur := s.stampOf r.grain r.base
  if decide ((r.stamp - cur).toInt < 0) then
    let sl := sliceOf r.grain
    { s with discards := assocSet sl (assocD 0 sl s.discards + 1) s.discards }
  else
    let s := { s with copies := (s.copies.filter fun (c : Copy) => !(c.stamp.isSome && c.home == r.grain && c.die == r.grain / 2 ^ 37)).map (overtaken r.grain writer s.storeClock) }
    let s := s.homeWrite r.addr (leBytes r.len r.data.toNat)
    let s := s.setStamp r.grain r.stamp
    let s := { s with storeClock := s.storeClock + 1, stampWrites := assocSet r.grain (writer, s.storeClock + 1) s.stampWrites }
    s.serveWeir r.grain r.stamp

end Sys2Proof.Machine
end

