-- ==== Sys2Proof/Machine/Access.lean ====
section
/-!
DEFINITION. A data access of a thread: where its pieces lie (page, window, aperture: R160, R182 to R185, R282, R327,
R489), the range scoreboard (R309), untracked copies of lines homed on another die (R179 to R181, R205), prefetch
(R187 to R189), and reading and writing the pieces.
-/
namespace Sys2Proof.Machine

/-- What serves a piece of an access. -/
inductive Source where
  /-- A translated page. -/
  | page (x : Xlat)
  /-- A filled grain of window `num` of core `core`. -/
  | window (core num : Nat) (f : WinFill)
  /-- A private cistern byte. -/
  | cistern
deriving DecidableEq, Repr

/-- One piece of an access: at most 32 bytes of one sector. -/
structure Place where
  /-- The VA that faults and the scoreboard name. -/
  va : Word
  /-- The key of the first byte in the model's memory. -/
  key : Nat
  n : Nat
  src : Source
  /-- Cistern offset of a handle-aperture piece, which the scoreboard compares in cistern space (R309). -/
  off : Option Nat
deriving DecidableEq, Repr

/-! Windows (R182 to R184). -/

/-- The window holds `va`. -/
def Window.covers (w : Window) (va : Nat) : Bool := decide (w.va ≤ va) && decide (va < w.va + 512 * w.n)

/-- Change window `num` of core `k`. -/
def State.modWindow (s : State) (k num : Nat) (f : Window → Window) : State :=
  s.putCore { s.core k with windows := mapFirst (fun w => w.num == num) f (s.core k).windows }

/-- Another thread waits in a gather or scatter that has checked window `num` (0 to 7) or handle `num - 8` of core `k` (R138). -/
def State.pinnedAt (s : State) (k num : Nat) : Bool :=
  s.threads.any fun t => t.id != s.cpu.id && t.waiting && t.pins.contains (k, num)

/-- The current thread waits for such a gather or scatter. -/
def checkPins (k num : Nat) : Exec Unit := do
  let s ← get
  if s.pinnedAt k num then stall else pure ()

/-- The directory grants a window of core `k` its grain, or refuses it (R171, R176, R183); a window that has the right it needs
asks for nothing. The answer is the filled grain, in state M for a write. -/
def grantFill (k num : Nat) (f : WinFill) (write : Bool) : Exec WinFill := do
  if f.state == .modified || (!write && f.state != .invalid) then return f
  else if f.state == .exclusive then return { f with state := .modified }
  else do
    requestGrain f.home f.size write
    let s ← get
    let (m, s) := s.grantNow k f.home f.size write
    let f := { f with state := m }
    set (s.modWindow k num fun w => { w with fills := w.fills.filter (fun g => g.va != f.va) ++ [f] })
    return f

/-- The filled grain of a window that holds `va`; a grain not yet valid is filled at first touch, with the checks of
R183 for the touching access; an address in an aperture or in the sluice code range traps PROT (R489). -/
def windowFill (wk : Walker) (k : Nat) (w : Window) (va : Word) (rd wr : Bool) : Exec WinFill := do
  match first? (fun f => decide (f.va ≤ va.toNat) && decide (va.toNat < f.va + f.size)) w.fills with
  | some f => return f
  | none => do
    trapIf (inAperture va) Cause.prot va
    let x ← translateFor wk va
    trapIf (!permitted wk x.entry rd wr) Cause.prot va
    if x.entry.invalid || x.entry.kind != 0 || x.home != 0 || x.pa / 2 ^ 37 != k / 512 then trapRegion va x.entry else pure ()
    let g := x.entry.grain
    grantFill k w.num { va := va.toNat / g * g, size := g, home := x.pa / g * g, state := .invalid } false

/-- The piece at `va` in window `w` of core `k`. -/
def windowPlace (wk : Walker) (k : Nat) (w : Window) (va : Word) (n : Nat) (rd wr : Bool) : Exec Place := do
  let f ← windowFill wk k w va rd wr
  return { va := va, key := f.home + (va.toNat - f.va), n := n, src := .window k w.num f, off := none }

/-- Thread `u` as the walker of an access of the current thread, which goes on with its own translations. -/
def State.walkerFor (s : State) (u : Thread) : Walker := { u.walker with walks := s.cpu.walks, hctx := s.cpu.asked }

/-- The thread in slot `id` as such a walker. -/
def State.walkerOf (s : State) (id : Nat) : Walker := s.walkerFor ((s.thread? id).getD s.cpu)

/-- Bytes at offset `off` of core `k`'s cistern: private, or a copy in the window that owns the line (R182). -/
def cisternPlace (k off n : Nat) (rd wr : Bool) : Exec Place := do
  let s ← get
  match first? (fun w => decide (512 * w.f ≤ off) && decide (off < 512 * (w.f + w.n))) (s.core k).windows with
  | some w => do
    let p ← windowPlace (s.walkerOf w.owner) k w (BitVec.ofNat 64 (w.va + (off - 512 * w.f))) n rd wr
    return { p with off := some off }
  | none => return { va := BitVec.ofNat 64 off, key := cisternKey k off, n := n, src := .cistern, off := some off }

/-! Apertures. -/

/-- PROT inside `m` reports the address `va` that the access names (R138). DESIGN CHOICE: every other trap of a window's fill, MEMERR of
its walk (R488) among them, reports the window's VA (notes/assumptions/28.md). -/
def reportAt {α : Type} (va : Word) (m : Exec α) : Exec α := fun s =>
  match m s with
  | .error (.trap cause val aux) => .error (.trap cause (if cause == Cause.prot then va else val) aux)
  | r => r

/-- The cistern aperture (R185): byte `o` of window `w` of the member with rank `r`. -/
def aperturePlace (va : Word) (n : Nat) (rd wr : Bool) : Exec Place := do
  let s ← get
  let t := s.cpu
  let o := va.toNat - Config.cisternAperture
  trapIf (t.isRill || t.isSluice) Cause.prot va
  match first? (fun u => u.gang == t.gang && u.rank.toNat == o / 2 ^ 20 && !u.isRill && !u.isSluice) s.threads with
  | none => trap Cause.prot va
  | some u =>
    match first? (fun w => w.num == o / 2 ^ 17 % 8 && w.owner == u.id) (s.core u.coreId).windows with
    | none => trap Cause.prot va
    | some w => do
      trapIf (decide (512 * w.n ≤ o % 2 ^ 17)) Cause.prot va
      reportAt va (windowPlace (s.walkerFor u) u.coreId w (BitVec.ofNat 64 (w.va + o % 2 ^ 17)) n rd wr)

/-- The handle aperture (R327). -/
def handlePlace (va : Word) (n : Nat) (rd wr : Bool) : Exec Place := do
  let t ← getCpu
  let c ← getCore
  let x := va.toNat - Config.handleAperture
  trapIf (t.isRill || decide (x / 2 ^ 20 > 7)) Cause.prot va
  let h := c.handles[x / 2 ^ 20 % 8]'(Nat.mod_lt _ (by decide))
  trapIf (h.count == 0) Cause.prot va
  let o := x % 2 ^ 19
  let j := o / h.size
  let prod := x / 2 ^ 19 % 2 == 1
  trapIf (decide ((if prod then h.count - h.filled else h.filled) ≤ j)) Cause.prot va
  let slot := ((if prod then h.ch + h.filled else h.ch) + j) % h.count
  let p ← reportAt va (cisternPlace t.coreId (h.base + h.size * slot + o % h.size) n rd wr)
  return if p.src == .cistern then { p with va := va } else p

/-! Rills (R281, R282). -/

/-- The free slot of lowest number of slice core `k` (64 × die + slice), as a SLOTID (notes/assumptions/35.md). -/
def State.freeRillSlot (s : State) (k : Nat) : Option Nat :=
  first? (fun id => (s.thread? id).isNone) ((upTo 16).map fun j => 2 ^ 18 + 512 * k + j)

/-- The thread of slot `a` is in slot `b` from now on: what is still to be reported of it names it there. -/
def renamed (a b : Nat) (e : Instr) : Instr :=
  match e with
  | .peerStoreRefused slot va peer => .peerStoreRefused (if slot = a then b else slot) va peer
  | .accessReply slot x => .accessReply (if slot = a then b else slot) x
  | .notificationRecord n => if n.target == .slot a then .notificationRecord { n with target := .slot b } else e
  | .rupdApply r => if r.slot = a then .rupdApply { r with slot := b } else e
  | e => e

/-- The same of a store to a peer. -/
def OwedStore.renamed (a b : Nat) (o : OwedStore) : OwedStore :=
  if o.slot = a then { o with slot := b, note := { o.note with target := .slot b } } else o

/-- The current rill moves to slot `id`: its reservation is dropped, and the packet counts as a message (R282, R420). -/
def State.migrate (s : State) (id : Nat) : State :=
  let t := s.cpu
  let renum (a : Nat) : Nat := if a = t.id then id else a
  let s := { s with events := s.events.map (renamed t.id id), owedStores := s.owedStores.map (OwedStore.renamed t.id id)
                    refused := s.refused.map fun (r : Refused) => { r with slot := renum r.slot } }
  let s := s.dropResv fun r => r.holder == t.id
  let s := (s.sends t.launch t.agent).receives t.launch (4096 + id / 512 % 512)
  { s with cpu := { t with id := id, resv := none } }

/-- A rill migrates to the home slice of a home-0 access, unless that slice core is full (R282). It is undone with the rest of a
meaning that stops (notes/assumptions/48.md). -/
def migrateFor (x : Xlat) : Exec Unit :=
  modify fun s =>
    if s.cpu.isRill && x.home == 0 && sliceOf x.pa != s.cpu.clusterId then
      match s.freeRillSlot (sliceOf x.pa) with
      | some id => s.migrate id
      | none => s
    else s

/-! Pieces. -/

/-- The piece at `va` of an access that may use windows and apertures (R161, R134, R136, R489), steps 2 to 5 of R160. -/
def placeAt (va : Word) (n : Nat) (rd wr : Bool) : Exec Place := do
  let s ← get
  let t := s.cpu
  trapIf (decide (va.toNat ≥ Config.vaEnd)) Cause.prot va
  if decide (Config.cisternAperture ≤ va.toNat) then aperturePlace va n rd wr
  else if decide (Config.handleAperture ≤ va.toNat) && decide (va.toNat < Config.handleApertureEnd) then handlePlace va n rd wr
  else
    match if t.isRill then none else first? (fun w => w.owner == t.id && w.covers va.toNat) s.myCore.windows with
    | some w => windowPlace t.walker t.coreId w va n rd wr
    | none => do
      let x ← reach va rd wr
      migrateFor x
      return { va := va, key := x.key, n := n, src := .page x, off := none }

/-- The pieces of an aligned access of `n` bytes, each of at most `k` bytes. -/
def piecesBy (k : Nat) (va : Word) (n : Nat) : List (Word × Nat) :=
  if n ≤ k then [(va, n)] else (upTo (n / k)).map fun j => (va + BitVec.ofNat 64 (k * j), k)

/-- The pieces of an aligned access of `n` bytes to the device: its sectors, or the access itself when it lies in one. -/
def piecesOf (va : Word) (n : Nat) : List (Word × Nat) := piecesBy 32 va n

/-- A piece that reaches a peer is performed as pieces of 16 bytes (R76, R135, R214). -/
def Place.split (p : Place) : List Place :=
  match p.src with
  | .page x =>
    if x.home = 3 && 16 < p.n then
      (upTo (p.n / 16)).map fun j =>
        { p with va := p.va + BitVec.ofNat 64 (16 * j), key := p.key + 16 * j, n := 16
                 src := .page { x with va := x.va + 16 * j, pa := x.pa + 16 * j } }
    else [p]
  | _ => [p]

/-- The places of the pieces, every one checked before any is used. -/
def placesAt (rd wr : Bool) : List (Word × Nat) → Exec (List Place)
  | [] => pure []
  | (va, n) :: rest => do
    let p ← placeAt va n rd wr
    let ps ← placesAt rd wr rest
    return p.split ++ ps

/-! The range scoreboard (R309). -/

/-- The source space and destination space of a request are VAs (R301). -/
def MailReq.srcVa (r : MailReq) : Bool := field r.flags 0 2 == 0
def MailReq.dstVa (r : MailReq) : Bool := field r.flags 2 2 == 0
/-- The STOP flag (R301). -/
def MailReq.stop (r : MailReq) : Bool := r.flags.getLsbD 10

/-- The access has to wait for this scoreboard entry. -/
def Score.blocks (e : Score) (t : Thread) (p : Place) (wr : Bool) : Bool :=
  let hit (va : Bool) (base : Word) : Bool :=
    match p.off with
    | some o => !va && overlaps o p.n base.toNat e.req.len.toNat
    | none => va && e.ctx == t.ctx && overlaps p.va.toNat p.n base.toNat e.req.len.toNat
  (wr && hit e.req.srcVa e.req.src) || hit e.req.dstVa e.req.dst

/-- Slots 0 to 62 stall while a piece overlaps a range in flight on their core (R309). -/
def scoreCheck (ps : List Place) (wr : Bool) : Exec Unit := do
  let s ← get
  let t := s.cpu
  if !t.isRill && !t.isSluice && s.myCore.score.any (fun e => ps.any fun p => e.blocks t p wr) then stall else pure ()

/-! Untracked copies and prefetch. -/

/-- A plain page of this device homed on another die than `die`. -/
def Xlat.remoteDie (x : Xlat) (die : Nat) : Bool := x.home == 0 && x.entry.kind != 1 && x.pa / 2 ^ 37 != die

/-- The unit that holds a copy with `holder`: a way of its set in an L1, or in a slice's remote partition (R478). -/
def State.copyWay (s : State) (holder line : Nat) : TestUnit :=
  if holder ≥ 4096 then s.wayAt (8192 + 64 * (holder - 4096) + sliceOf line % 64) (l2Set line) 14 2
  else s.wayAt holder (line / 512 % 16) 0 8

/-- The copy that `holder` holds of the line of `a`, if it still holds it with its sector of `a` (a free choice, R179). -/
def keptCopy (holder a : Nat) : Exec (Option LineData) := do
  match (← get).copy? holder (lineOf a) with
  | none => return none
  | some c =>
    if c.lineData.has a then do
      let kept ← choose
      return if kept then some c.lineData else none
    else return none

/-- A line with the sector of `a` from `new`, or with all of `new`: how much of a line a load fills in an L1, or a fetch in an instruction
cache, is a free choice (R169; notes/assumptions/9.md). -/
def fillFrom (old new : LineData) (a : Nat) : Exec LineData := do
  let whole ← choose
  return if whole then old.merge new (lineOf a) else old.withSector new a

/-- What `holder` holds of the line of `a`, its valid sectors only. -/
def State.heldLine (s : State) (holder a : Nat) : LineData :=
  match s.copy? holder (lineOf a) with | some c => c.lineData | none => LineData.empty

/-- The line of `a` as the current thread's die has it now, and the unit that its sector of `a` stands in: from the remote partition if
that still holds the line, else the whole line is fetched from the home (R179). -/
def partitionLine (a : Nat) : Exec (LineData × Option TestUnit) := do
  let holder := 4096 + (← get).cpu.die
  match ← keptCopy holder a with
  | some l => return (l, some ((← get).copyWay holder (lineOf a)))
  | none => do
    let s ← get
    let l := s.homeLine (lineOf a)
    modify fun s => s.putCopy holder (lineOf a) l
    return (l, s.badUnit a 1)

/-- The line of `a` as the current core has it now: from L1 if that still holds the sector of `a`, else filled through `partitionLine`,
by a load with the sector or more of it, by a prefetch (`whole`) with all of it (R169, R179, R195). -/
def cachedLine (a : Nat) (whole : Bool := false) : Exec (LineData × Option TestUnit) := do
  let holder := (← get).cpu.coreId
  let held ← keptCopy holder a
  match held.filter fun l => !whole || l.valid == BitVec.allOnes 16 with
  | some l => return (l, some ((← get).copyWay holder (lineOf a)))
  | none => do
    let (part, unit) ← partitionLine a
    let old := (← get).heldLine holder a
    let l ← if whole then pure (old.merge part (lineOf a)) else fillFrom old part a
    modify fun s => s.putCopy holder (lineOf a) l
    return (l, unit)

/-- A load of `n` bytes in one sector of a line homed on another die that need not be home-coherent (R179, R205). A sector whose
check is marked bad is not delivered (R18, R481). -/
def untrackedRead (x : Xlat) (n : Nat) : Exec (List Byte) := do
  if (← get).testing x.pa n then stall else pure ()
  let (l, unit) ← cachedLine x.pa
  memErrIf (l.bad.contains (x.pa / 32)) unit (BitVec.ofNat 64 x.va)
  return (l.data.drop (x.pa - lineOf x.pa)).take n

/-- A home-coherent read of a line homed on another die: the copies that the reader could find of it become what the home has,
so that it reads nothing older later (R205, R206). -/
def freshRead (x : Xlat) (n : Nat) : Exec (List Byte) := do
  let bs ← homeRead x n true
  modify fun s => if x.home == 0 then s.syncCopies s.cpu.die x.key n else s
  return bs

/-- A read by the current thread that need not be home-coherent (R205). -/
def mayBeStale (t : Thread) (x : Xlat) (mm : MemMode) : Bool :=
  x.remoteDie t.die && !t.homeCoh && !t.isRill && !(mm.cls == .volatile && decide (scopeRank mm.scope ≥ 2))

/-- Run a prefetch: whatever would stop it drops it, and so does the end of a reservation, which no prefetch changes (R187). -/
def attempt (m : Exec Unit) : Exec Unit := fun s =>
  match m s with
  | .ok r => if r.2.resvs == s.resvs then .ok r else .ok ((), s)
  | .error _ => .ok ((), s)

/-- Prefetch every grain of the line of `x` into the current core's L1, as tracked copies (R187, R188). -/
def prefetchGrains (x : Xlat) : Exec Unit := do
  for j in upTo (512 / x.entry.grain) do
    attempt (ownGrain { x with pa := lineOf x.pa + j * x.entry.grain } false)

/-- Prefetch the line of `va` into the current core, with the level and context of `wk` (R187): into a window's grains when `cis` holds and a window of the
core covers it, else a copy, which leaves a trace only for a plain line homed on another die and for aged grains. -/
def prefetchLine (wk : Walker) (va : Word) (cis : Bool) : Exec Unit := do
  let s ← get
  let t := s.cpu
  match if cis then first? (fun w => w.covers va.toNat) s.myCore.windows else none with
  | some w => do
    let x ← reachAs (s.walkerOf w.owner) va true false
    for j in upTo (512 / x.entry.grain) do
      let a := BitVec.ofNat 64 (lineOf va.toNat + j * x.entry.grain)
      attempt do let _ ← windowFill (s.walkerOf w.owner) t.coreId w a true false
  | none => do
    let x ← reachAs wk va true false
    if x.home == 1 && x.entry.kind == 0 then do
      hostRequest x va {}
      keepHostLine x .shared
    else if x.home != 0 || decide (x.entry.kind > 1) then pure ()
    else if x.entry.kind == 1 then
      for j in upTo (512 / x.entry.grain) do
        modify fun s => s.installGrain t.coreId t.iter (s.homeGrain x.entry (lineOf x.pa + j * x.entry.grain))
    else if x.inL1 t then prefetchGrains x
    else do
      let _ ← cachedLine x.pa true

/-- VA of element `i` of a stream (R189). -/
def Stream.at (st : Stream) (i : Nat) : Word := st.base + BitVec.ofNat 64 i * st.stride

/-- Prefetch the elements that the stream may fetch now (R189). -/
def streamFetch (st : Stream) : Exec Unit := do
  for i in upTo (min (st.head + st.lead) st.count - st.head) do
    attempt (prefetchLine { (← getCpu).walker with ctx := st.ctx, sup := st.sup } (st.at (st.head + i)) st.cistern)

/-- The head of a stream after an access to `va` (R189). -/
def Stream.moved (st : Stream) (va : Word) : Nat :=
  (upTo st.lead).foldl (fun h i =>
    if decide (st.head + i < st.count) && (st.at (st.head + i)).toNat / 512 == va.toNat / 512 then st.head + i + 1 else h) st.head

/-- An access of the current thread to `va` moves the streams of its core (R189). -/
def touchStreams (va : Word) : Exec Unit := do
  let s ← get
  if s.cpu.isRill || s.myCore.streams.isEmpty then pure ()
  else do
    let moved := s.myCore.streams.map fun st => { st with head := st.moved va }
    modCore fun c => { c with streams := moved.filter fun st => decide (st.head < st.count) }
    for st in s.myCore.streams do
      let h := st.moved va
      if h != st.head && decide (h < st.count) then streamFetch { st with head := h } else pure ()

/-! Reading and writing pieces. -/

/-- The access is performed at the home in any case: volatile at device scope or wider (R213). -/
def atHomeMode (mm : MemMode) : Bool := mm.cls == .volatile && decide (scopeRank mm.scope ≥ 2)

/-- The cistern line in which a window keeps the bytes of a piece runs a self-test (R478). -/
def State.lineTested (s : State) (p : Place) : Bool :=
  match p.src with
  | .window k num _ =>
    match first? (fun w => w.num == num) (s.core k).windows with
    | some w => s.events.any fun e => match e with
      | .selfTestVerdict (.line c l) _ => c == k && l == w.f + (p.va.toNat - w.va) / 512
      | _ => false
    | none => false
  | _ => false

/-- Read one piece. -/
def readPlace (p : Place) (mm : MemMode) : Exec (List Byte) := do
  let t ← getCpu
  if (← get).lineTested p then stall else pure ()
  match p.src with
  | .page x => if mayBeStale t x mm then untrackedRead x p.n else if x.remoteDie t.die then freshRead x p.n else homeRead x p.n (atHomeMode mm)
  | _ => deliver p.key p.n p.va

/-- Write one piece. A write through a window leaves its grain valid and in state M (R184). -/
def writePlace (p : Place) (bs : List Byte) (mm : MemMode) : Exec Unit := do
  match p.src with
  | .page x => homeStore x bs (atHomeMode mm) (mm.cls == .volatile)
  | .window k num f => do
    let s ← get
    if s.lineTested p || s.testing p.key bs.length then stall else pure ()
    hostCopy p.key bs.length
    let s ← get
    let now := (s.core k).windows.findSome? fun w => if w.num == num then first? (fun g => g.va == f.va && g.size == f.size && g.home == f.home) w.fills else none
    let f ← grantFill k num (now.getD { f with state := .invalid }) true
    modify fun s => ((s.dropAged p.key bs.length).putBytes p.key bs).modWindow k num fun w =>
      { w with fills := w.fills.filter (fun g => g.va != f.va) ++ [{ f with state := .modified }] }
  | .cistern => do
    if (← get).testing p.key bs.length then stall else pure ()
    modify fun s => s.homeWrite p.key bs

/-- Read all the pieces. -/
def readPlaces (mm : MemMode) : List Place → Exec (List Byte)
  | [] => pure []
  | p :: ps => do
    let x ← readPlace p mm
    let xs ← readPlaces mm ps
    return x ++ xs

/-- Write the bytes to the pieces in order. -/
def writePlaces (mm : MemMode) : List Place → List Byte → Exec Unit
  | [], _ => pure ()
  | p :: ps, bs => do
    writePlace p (bs.take p.n) mm
    writePlaces mm ps (bs.drop p.n)

/-- The kind of the pages behind the pieces: 0 for windows and cistern bytes (R163). -/
def kindOf (ps : List Place) : Nat :=
  match ps with
  | p :: _ => match p.src with | .page x => x.entry.kind | _ => 0
  | [] => 0

/-- The acquire half of a load (R202): class 01 at device scope or wider also drops copies (R181). -/
def acquireMode (mm : MemMode) : Exec Unit := if mm.cls == .ordered then acquire mm.scope else pure ()

end Sys2Proof.Machine
end

