-- ==== Sys2Proof/Machine/Control.lean ====
section
/-!
DEFINITION. Control transfers (R84 to R87), the gang barrier (R90, R91), END (R92, R54) and FENCE (R217 to R219).
-/
namespace Sys2Proof.Machine

/-- The current thread goes on at `pc`. -/
def jump (pc : Word) : Exec Unit := modCpu fun t => t.goTo pc

/-- The successor address of the current chain (R26). -/
def successor (i : Instr) : Exec Word := do return (← getCpu).pc + BitVec.ofNat 64 i.len

/-- Target of a branch with an offset of `n` halfwords (R37). -/
def branchTarget (n : Word) : Exec Word := do return (← getCpu).pc + n * 2

/-- BR (R84). -/
def execBr (c : Chain) (off : Word) (s : State) : Host.Outcome State Fault Refusal :=
  runChain c (.br c off) (do
    let t ← branchTarget off
    checkTarget t
    jump t) s

/-- BL: the link goes to ga (R85). -/
def execBl (c : Chain) (a : Reg) (off : Word) (s : State) : Host.Outcome State Fault Refusal :=
  runChain c (.bl c a off) (do
    gate (.bl c a off) true .any
    checkUses [.wr a]
    let t ← branchTarget off
    checkTarget t
    let l ← successor (.bl c a off)
    writeG a l
    jump t) s

/-- JR: the target is read before the link is written (R86). -/
def execJr (c : Chain) (a b : Reg) (s : State) : Host.Outcome State Fault Refusal :=
  runChain c (.jr c a b) (do
    gate (.jr c a b) true .any
    checkUses [.wr a, .rd b]
    let t ← readG b
    checkTarget t
    let l ← successor (.jr c a b)
    writeG a l
    jump t) s

/-- LOOP: the counter less 1, and a branch when it is not zero (R20, R87). -/
def execLoop (c : Chain) (a : Reg) (off : Word) (s : State) : Host.Outcome State Fault Refusal :=
  runChain c (.loop c a off) (do
    gate (.loop c a off) true .any
    checkUses [.rw a]
    let x ← readG a
    if x - 1 == 0 then do
      writeG a (x - 1)
      done (.loop c a off)
    else do
      let t ← branchTarget off
      checkTarget t
      writeG a (x - 1)
      jump t) s

/-! Releases. -/

/-- A record of kind 4 for the thread is still to be written: a fabric-scope release, a spill or an END of it waits
(R229). -/
def State.owesNote (s : State) (t : Thread) : Bool :=
  s.events.any fun e => match e with
    | .peerStoreRefused slot _ _ => slot == t.id
    | .notificationRecord n => n.kind == 4 && n.target == .slot t.id
    | _ => false

/-- Host port `p` has posted writes of the thread that no completion covers. -/
def Thread.posted (t : Thread) (p : Port) : Bool := match p with | .a => t.postedA | .b => t.postedB

/-- The VA of an access of home 1 or 2, which traps REMOTE (R435). -/
def Xlat.hostVa (x : Xlat) : Option Word := if x.home = 1 || x.home = 2 then some (BitVec.ofNat 64 x.va) else none

/-- As `Xlat.hostVa`. -/
def Place.hostVa (p : Place) : Option Word := match p.src with | .page x => x.hostVa | _ => none

/-- The zero-length read that follows posted writes on a port, and its completion (R433). When the port is down, or the completion
fails, an access of home 1 or 2 to `ea` traps REMOTE (R435, R453); another release is no access and goes on
(notes/assumptions/38.md). -/
def flushPosts (ea : Option Word) (p : Port) : Exec Unit := do
  let s ← get
  if !s.cpu.posted p then pure ()
  else do
    match ea with
    | some va => trapIf (!(s.port p).up || s.cpu.reply == .failed || s.cpu.reply == .unsupported) Cause.remote va (portAux p)
    | none => pure ()
    if (s.port p).up && !(s.port p).answers then
      stall (if s.cpu.reply == .none || s.cpu.reply == .waiting then .request none else .flushed p)
    else pure ()
    modify fun s => if (s.port p).up then s.drainPosts p else s
    modCpu fun t => match p with | .a => { t with postedA := false, volatileA := false } | .b => { t with postedB := false, volatileB := false }

/-- What a release waits for (R212): the thread's updates that wait at their homes (R291); at system and fabric scope the
completions that cover posted writes (R433); at fabric scope the answers to the thread's multicasts (R446), the acknowledgements of
its stores and updates at peers (R441), and its refused stores to be reported (R229). `ea` is the address of a release that is an
access of home 1 or 2. -/
def releaseWait (sc : Scope) (ea : Option Word := none) : Exec Unit := do
  if (← get).updating (← getCpu).id then stall else pure ()
  if decide (scopeRank sc ≥ 3) then do
    flushPosts ea .a
    flushPosts ea .b
  else pure ()
  let s ← get
  if sc == .fabric && (s.owesNote s.cpu || s.cpu.mcOwed != 0 || s.owedStores.any fun o => o.slot == s.cpu.id) then stall else pure ()

/-- The greater of two scopes. -/
def maxScope (a b : Scope) : Scope := if decide (scopeRank a < scopeRank b) then b else a

/-- Later writes of the thread are release writes at `sc` (R202, R218). -/
def Thread.fenced (t : Thread) (sc : Scope) : Thread :=
  { t with relScope := some (match t.relScope with | some old => maxScope old sc | none => sc) }

/-- Volatile posted writes of the thread on host port `p` are on their way (R213, R433). -/
def State.volatilePosts (s : State) (p : Port) : Bool :=
  (match p with | .a => s.cpu.volatileA | .b => s.cpu.volatileB) && !(s.port p).posts.isEmpty

/-- A volatile access comes after the thread's earlier volatile accesses: it waits until those to the host have been performed, as a
release does (R433), and until those to peers have been acknowledged (R200, R213). -/
def volatileWait (mm : MemMode) (ea : Option Word := none) : Exec Unit := do
  if mm.cls == .volatile then do
    if (← get).volatilePosts .a then flushPosts ea .a else pure ()
    if (← get).volatilePosts .b then flushPosts ea .b else pure ()
    let s ← get
    if s.owedStores.any fun o => o.vol && o.slot == s.cpu.id then stall else pure ()
  else pure ()

/-- What a write of this mode waits for: as a volatile access (R213), and as a release write by its class and by the fences before it
(R202). -/
def releaseMode (mm : MemMode) (ea : Option Word := none) : Exec Unit := do
  volatileWait mm ea
  if mm.cls == .ordered then releaseWait mm.scope ea else pure ()
  match (← getCpu).relScope with
  | some sc => releaseWait sc ea
  | none => pure ()

/-- The plain mode: class 00. -/
def MemMode.none : MemMode := ⟨.plain, .core⟩

/-- The release write of an engine pair at scope `sc` (R202, R204). -/
def engineRelease (sc : Scope) : Exec Unit := do
  releaseWait sc
  releaseMode MemMode.none

/-! GBAR. -/

/-- Live members of `t`'s gang other than `t` (R66). -/
def State.fellows (s : State) (t : Thread) : List Thread :=
  s.threads.filter fun u => u.gang == t.gang && u.id != t.id && u.live && !u.isRill && !u.isSluice

/-- Clusters that a gang of `size` members spans (R70). -/
def spanOf (size : Nat) : Nat := ((size + 7) / 8 + 62) / 63

/-- An arrived member goes on behind its GBAR, with the acquire of R91. -/
def Thread.released (t : Thread) : Thread :=
  let u := { t.goTo (t.pc + BitVec.ofNat 64 (match t.held with | some i => i.len | none => 2)) with front := t.heard }
  if decide (spanOf t.size.toNat > 1) then { u with homeCoh := true } else u

/-- GBAR arrives at the episode, once the accesses before it are performed at its scope, and waits until every live member has arrived;
then all of them go on (R90, R91). -/
def execGbar (c : Chain) (s : State) : Host.Outcome State Fault Refusal :=
  runChain c (.gbar c) (do
    gate (.gbar c) false .any
    releaseWait (if decide (spanOf (← getCpu).size.toNat > 1) then .device else .cluster)
    let s ← get
    let t := s.cpu
    if t.isSluice then do
      acquire .cluster
      done (.gbar c)
    else if (s.fellows t).all (·.arrived) then do
      modify fun s => s.mapThreads (fun u => u.gang == t.gang && u.arrived && u.id != t.id && !u.isRill && !u.isSluice) Thread.released
      acquire (if decide (spanOf t.size.toNat > 1) then .device else .cluster)
      done (.gbar c)
    else park .barrier) s

/-! END. -/

/-- The record of a sluice slot's END (R54, R227). -/
def sluiceNote (t : Thread) (len : Nat) : Note :=
  { trapNote t 0 t.pc 0 0 (BitVec.ofNat 4 len) 0 with kind := 5 }

/-- The current thread's END enters Draining: it is no live member any more, and when no other live member is left its
drain completes the task (R66, R92, R93). `i` is the END, or none for a removal by the supervisor. The rest of the drain
is END_DRAIN_COMPLETE. -/
def State.startDrain (i : Option Instr) (s : State) : State :=
  let t := s.cpu
  let last := (s.fellows t).isEmpty && !t.isRill
  ({ s with
    cpu := { t.unwait with state := .draining, held := i, ended := true, lastSealed := false, counted := 0 }
    gangs := s.gangs.map fun g =>
      if g.id == t.gang && !t.isRill then
        { g with members := g.members.map fun m => if m.slot == t.id then { m with live := false } else m
                 completer := if last && g.completer.isNone then some t.id else g.completer }
      else g } : State).post (.endDrainComplete t.id)

/-- END puts the slot in Draining, or halts the sluice slot (R54, R92). -/
def execEndThread (c : Chain) (s : State) : Host.Outcome State Fault Refusal :=
  runChain c (.endThread c) (do
    let s ← get
    let t := s.cpu
    if t.isSluice then modify fun s => s.haltWith s.cpu (sluiceNote s.cpu (Instr.endThread c).len)
    else do
      if s.owesNote t then stall else pure ()
      modify (State.startDrain (some (.endThread c)))) s

/-! FENCE. -/

/-- FENCE.full (R218). -/
def execFenceFull (c : Chain) (sc : Scope) (s : State) : Host.Outcome State Fault Refusal :=
  runChain c (.fenceFull c sc) (do
    releaseWait sc
    acquire sc
    modCpu fun t => t.fenced sc
    done (.fenceFull c sc)) s

/-- FENCE.acq (R218). -/
def execFenceAcq (c : Chain) (sc : Scope) (s : State) : Host.Outcome State Fault Refusal :=
  runChain c (.fenceAcq c sc) (do
    acquire sc
    done (.fenceAcq c sc)) s

/-- FENCE.rel (R218): it waits for what is still on its way, and later writes are release writes. -/
def execFenceRel (c : Chain) (sc : Scope) (s : State) : Host.Outcome State Fault Refusal :=
  runChain c (.fenceRel c sc) (do
    releaseWait sc
    modCpu fun t => t.fenced sc
    done (.fenceRel c sc)) s

/-- Core `k` is in the domain of thread `t` at a scope; core and cluster scope act as device in a rill (R197). -/
def inDomain (t : Thread) (sc : Scope) (k : Nat) : Bool :=
  match sc with
  | .core => t.isRill || k == t.coreId
  | .cluster => t.isRill || k / 8 == t.clusterId
  | _ => true

/-- FENCE.ifetch (R219): as FENCE.rel, and then the instruction caches of the domain hold nothing. -/
def execFenceIfetch (c : Chain) (sc : Scope) (s : State) : Host.Outcome State Fault Refusal :=
  runChain c (.fenceIfetch c sc) (do
    releaseWait sc
    modCpu fun t => t.fenced sc
    modify fun s => s.dropIcaches (inDomain s.cpu sc)
    done (.fenceIfetch c sc)) s

end Sys2Proof.Machine
end

