-- ==== Sys2Proof/Machine/Special.lean ====
section
/-!
DEFINITION. The special registers (R72 to R77, R88, R89, R308, R411, R491) and the instructions that trap or drop
translations: TRAP, ERET, SVC, TLBINV (R166 to R168, R239 to R241).
-/
namespace Sys2Proof.Machine

/-! Computed registers. -/

/-- GANGINFO (R75). -/
def Thread.gangInfo (t : Thread) : Word :=
  if t.isSluice then BitVec.ofNat 64 (32 * 2 ^ 32 + 2 ^ 11)
  else
    let nclu := spanOf t.size.toNat
    BitVec.ofNat 64 (t.nvregs * 2 ^ 40 + t.nregs * 2 ^ 32 + t.rank.toNat / 8 % nclu * 2 ^ 24 + (nclu - 1) * 2 ^ 22 +
      t.size.toNat * 2 ^ 11 + t.rank.toNat)

/-- The graph instance of a tenant has been cancelled (R411, R419). -/
def State.cancelled (s : State) (tenant : Nat) (inst : BitVec 32) : Bool :=
  s.cancels.any fun c => c.tenant == tenant && c.inst == inst

/-- GRAPHID: the instance number, with bit 63 set once it is cancelled; 0 in the sluice slot, whose TASKID has bit 63 set, and in a rill
that it has spawned (R411). -/
def State.graphId (s : State) (t : Thread) : Word :=
  if t.taskId.getLsbD 63 then 0 else t.graphno.setWidth 64 ||| if s.cancelled t.tenant t.graphno then 1 <<< 63 else 0

/-- Requests of a batch not yet posted: RING[4:0] (R307). -/
def batchOpen (b : Byte) : Nat := b.toNat % 32

/-- The batch of number `n` mod 64 in the ring. -/
def Batch.at (b : Batch) (n : Nat) : Byte := b.ring[n % 64]'(Nat.mod_lt _ (by decide))

/-- Sealed batches not finished (R306): those from the oldest incomplete one up. -/
def Batch.unfinFrom (b : Batch) : Nat → Nat
  | 0 => 0
  | n + 1 => if batchOpen (b.at (b.sealedNo.toNat + 2 ^ 32 - (n + 1))) != 0 then n + 1 else b.unfinFrom n
/-- UNFIN (R308). -/
def Batch.unfin (b : Batch) : Nat := b.unfinFrom 64
/-- BATCHNO (R308). -/
def Batch.batchNo (b : Batch) : Word := BitVec.ofNat 64 (b.unfin * 2 ^ 32 + b.sealedNo.toNat)

/-- What MFS of register `k` reads (R72, R88). A reserved number reads 0. CYCLE is the count of the cycle at which the MFS
issued, before any wait of it (R53). -/
def State.special (s : State) (t : Thread) (k : Nat) : Word :=
  let c := s.contextD t.ctx
  match k with
  | 0 => t.iter.setWidth 64
  | 1 => t.weirlim.setWidth 64
  | 2 => t.tapeb
  | 3 => t.tapel
  | 4 => t.tapep
  | 5 => t.dmode.setWidth 64
  | 6 => t.trapvec
  | 7 => t.trappc
  | 8 => t.trapcause
  | 9 => t.trapval
  | 10 => t.fpcsr.setWidth 64
  | 11 => BitVec.ofNat 64 t.id
  | 12 => t.gangInfo
  | 13 => t.taskId
  | 14 => s.graphId t
  | 15 => BitVec.ofNat 64 (if t.waiting then t.since else s.cycleOf t)
  | 16 => 0x10402020
  | 17 => t.rgspan
  | 18 => t.batch.batchNo
  | 19 => t.cbdesc
  | 24 => BitVec.ofNat 64 t.ctx
  | 25 => BitVec.ofNat 64 t.tenant
  | 26 => c.pageroot
  | 27 => c.regiontab
  | 28 => t.savearea
  | 29 => c.hctx
  | 30 => c.supvec
  | 31 => t.monctl
  | _ => 0

/-- Bits of TRAPCAUSE that MTS writes: AUX, LEN and CAUSE (R221). -/
abbrev trapCauseMask : Word := 0xFFFFFFFF00000FFF
/-- Bits of a tape register (R360). -/
abbrev tapeMask : Word := 0x03FFFFFFFFFFFFF0

/-- MTS to register `k`, one of the thread's own (R72, R77, R89, R221, R341, R360, R381). -/
def Thread.setSpecial (t : Thread) (k : Nat) (x : Word) : Thread :=
  match k with
  | 0 => { t with iter := x.setWidth 32 }
  | 1 => { t with weirlim := x.setWidth 32 }
  | 2 => { t with tapeb := x &&& tapeMask }
  | 3 => { t with tapel := x &&& tapeMask }
  | 4 => { t with tapep := x &&& tapeMask }
  | 6 => { t with trapvec := x }
  | 7 => { t with trappc := x }
  | 8 => { t with trapcause := (t.trapcause &&& ~~~trapCauseMask) ||| (x &&& trapCauseMask) }
  | 9 => { t with trapval := x }
  | 10 => { t with fpcsr := x.setWidth 7 }
  | 17 => { t with rgspan := (x.setWidth 32).setWidth 64 }
  | 19 => { t with cbdesc := x &&& 0x03FFFFFFFFFFFFC0 }
  | 28 => { t with savearea := x }
  | 31 => { t with monctl := x }
  | _ => t

/-- MTS to a register of the context (R150, R226, R429, R491). -/
def Context.setSpecial (c : Context) (k : Nat) (x : Word) : Context :=
  match k with
  | 26 => { c with pageroot := x &&& 0x000FFFFFFFFFC000 }
  | 27 => { c with regiontab := x &&& 0x000FFFFFFFFFF800 }
  | 29 => { c with hctx := x &&& 0x0000000000DFFFFF }
  | 30 => { c with supvec := x &&& 0x000FFFFFFFFF0000 }
  | _ => c

/-- A register marked priv (R72). -/
def privileged (k : BitVec 5) : Bool := decide (k.toNat ≥ 24)

/-- The MFS that a rill may execute (R283): SLOTID, TASKID, GRAPHID, CYCLE, LINKCAP. -/
def rillReads (k : BitVec 5) : Bool := k == 11 || k == 13 || k == 14 || k == 15 || k == 16

/-- MFS (R73, R88). One of BATCHNO acquires at device scope: whatever it reads shows every batch number older than
SEALED - UNFIN as finished (R308). -/
def execMfs (c : Chain) (a : Reg) (sr : BitVec 5) (s : State) : Host.Outcome State Fault Refusal :=
  runChain c (.mfs c a sr) (do
    gate (.mfs c a sr) (rillReads sr) (if privileged sr then .sup else .any)
    checkUses [.wr a]
    let s ← get
    if sr == 18 then acquire .device else pure ()
    writeG a (s.special s.cpu sr.toNat)
    done (.mfs c a sr)) s

/-- The thread in slot `id` is of context `ctx`. -/
def State.isOf (s : State) (id ctx : Nat) : Bool := (s.thread? id).any fun t => t.ctx == ctx

/-- A walk for the context is in progress: one whose completion is still to come (R155, R167). -/
def State.walking (s : State) (ctx : Nat) : Bool :=
  s.events.any fun e => match e with | .tlbWalkComplete slot _ => s.isOf slot ctx | _ => false

/-- MTS (R73, R89, R491): one that moves the tables of the context waits for the walks in progress, which use the old ones. -/
def execMts (c : Chain) (a : Reg) (sr : BitVec 5) (s : State) : Host.Outcome State Fault Refusal :=
  runChain c (.mts c a sr) (do
    gate (.mts c a sr) false (if privileged sr then .sup else .any)
    checkUses [.rd a]
    let x ← readG a
    if (sr == 26 || sr == 27) && (← get).walking (← getCpu).ctx then stall else pure ()
    modify fun s => (s.putContext ((s.contextD s.cpu.ctx).setSpecial sr.toNat x))
    modCpu fun t => t.setSpecial sr.toNat x
    done (.mts c a sr)) s

/-! Traps. -/

/-- TRAP (R239). -/
def execTrap (c : Chain) (n : BitVec 10) (s : State) : Host.Outcome State Fault Refusal :=
  runChain c (.trap c n) (Machine.trap Cause.trap (n.setWidth 64)) s

/-- SVC (R241). -/
def execSvc (c : Chain) (n : BitVec 10) (s : State) : Host.Outcome State Fault Refusal :=
  runChain c (.svc c n) (do
    gate (.svc c n) false .any
    Machine.trap Cause.svc (n.setWidth 64)) s

/-- ERET and ERET.next (R240): back to `TRAPPC + skip`. -/
def eretTo (i : Instr) (next : Bool) : Exec Unit := do
  gate i false .any
  let t ← getCpu
  trapIf (!t.hnd) Cause.illegal ((BitVec.ofNat 64 (i.len / 2 - 1) <<< 16) ||| i.baseWord.setWidth 64)
  let target := t.trappc + if next then t.trapLen.setWidth 64 else 0
  checkTarget target
  modCpu fun t => t.returnTo target

/-- ERET (R240). -/
def execEret (c : Chain) (s : State) : Host.Outcome State Fault Refusal :=
  runChain c (.eret c) (eretTo (.eret c) false) s
/-- ERET.next (R240). -/
def execEretNext (c : Chain) (s : State) : Host.Outcome State Fault Refusal :=
  runChain c (.eretNext c) (eretTo (.eretNext c) true) s

/-! TLBINV. -/

/-- A write of the context is on its way: an update that waits at its home (R291), a posted write to the host (R433) or a store to a peer
(R438). The model does not keep which entry translated it, nor whose a posted write is. -/
def State.onItsWay (s : State) (ctx : Nat) : Bool :=
  s.events.any (fun e => match e with | .rupdApply r => s.isOf r.slot ctx | _ => false) ||
  !(s.portA.posts.isEmpty && s.portB.posts.isEmpty) || s.owedStores.any fun o => o.note.ctx == ctx

/-- An access that carries the entry that translated it, one that `p` picks, has not been performed yet (R167): a stalled instruction,
a copy under way among them (R304), a parked aged load (R250), a batch part that a row will write into a save record (R305), a copy
whose pages have been checked (R304), or a constraint of a sweep (R383). -/
def State.carries (s : State) (p : TlbEntry → Bool) : Bool :=
  s.threads.any (fun t => t.walks.any p || t.agedWait.any fun k => p k.entry) ||
  s.cores.any (fun k => k.rows.any (fun r => r.owner.isNone && r.entry.any p) || k.score.any fun e => e.entries.any p) ||
  s.sweeps.any fun w => w.items.any fun c => c.entries.any p

/-- Drop the entries of the current context that satisfy `p` from every TLB and micro-TLB, once the thread's earlier accesses, every walk
in progress and every access that was translated with one of the entries have been performed (R166, R167). Filled grains of windows stay:
they are copies of their physical lines (R166). -/
def dropTranslations (p : TlbEntry → Bool) : Exec Unit := do
  releaseWait .device
  let s ← get
  let mine (e : TlbEntry) : Bool := e.ctx == s.cpu.ctx && p e
  if s.walking s.cpu.ctx || s.onItsWay s.cpu.ctx || s.carries mine then stall else pure ()
  acquire .device
  modify fun s => { s with
    tlb := s.tlb.filter fun e => !mine e
    cores := s.cores.map fun (c : Core) => { c with micro := c.micro.filter fun e => !mine e, microI := c.microI.filter fun e => !mine e } }

/-- TLBINV.va (R166). -/
def execTlbinvVa (c : Chain) (a : Reg) (s : State) : Host.Outcome State Fault Refusal :=
  runChain c (.tlbinvVa c a) (do
    gate (.tlbinvVa c a) false .sup
    checkUses [.rd a]
    let va ← readG a
    dropTranslations fun e => e.covers va.toNat
    done (.tlbinvVa c a)) s
/-- TLBINV.ctx (R166). -/
def execTlbinvCtx (c : Chain) (s : State) : Host.Outcome State Fault Refusal :=
  runChain c (.tlbinvCtx c) (do
    gate (.tlbinvCtx c) false .sup
    dropTranslations fun _ => true
    done (.tlbinvCtx c)) s
/-- TLBINV.reg (R166). -/
def execTlbinvReg (c : Chain) (a : Reg) (s : State) : Host.Outcome State Fault Refusal :=
  runChain c (.tlbinvReg c a) (do
    gate (.tlbinvReg c a) false .sup
    checkUses [.rd a]
    let x ← readG a
    dropTranslations fun e => e.regionIdx == x.toNat % 64
    done (.tlbinvReg c a)) s

end Sys2Proof.Machine
end

