-- ==== Sys2Proof/Machine/Adjoint.lean ====
section
/-!
DEFINITION. Differentiable regions: elements and shadow cells (R153, R356), the tape (R360 to R363), reverse-mode
accesses (R364 to R367), and DMODE, ADJRD and ADJWR (R370 to R373).
-/
namespace Sys2Proof.Machine

/-! Elements and cells. -/

/-- The checks of step 5 on an element's address in a differentiable page (R153, R356). -/
def elemCheck (e : TlbEntry) (ea : Word) : Exec Unit :=
  if e.home != 0 || decide (ea.toNat < e.origin) || (ea.toNat - e.origin) % e.elemWidth != 0 then trapRegion ea e else pure ()

/-- VA of the shadow cell of the element at `ea` (R153). -/
def cellVa (e : TlbEntry) (ea : Word) : Word := BitVec.ofNat 64 (e.shadow + 8 * ((ea.toNat - e.origin) / e.elemWidth))

/-- A trap inside `m` reports the element at `ea`, and REGION the failure of the cell's page (R153). -/
def reportElem {α : Type} (e : TlbEntry) (ea : Word) (m : Exec α) : Exec α := fun s =>
  match m s with
  | .error (.trap cause _ aux) =>
    .error (.trap cause ea (if cause == Cause.region then BitVec.ofNat 32 (e.regionIdx + 256) else aux))
  | .error (.memerr unit _ aux) => .error (.memerr unit ea aux)
  | r => r

/-- Translate a shadow cell at issue: a plain page homed on the device (R153). -/
def cellAt (e : TlbEntry) (ea : Word) (rd wr : Bool) : Exec Xlat :=
  reportElem e ea do
    let x ← reach (cellVa e ea) rd wr
    if x.entry.kind != 0 || x.home != 0 then trapRegion ea e true else return x

/-- A cell as the scoreboard sees it. -/
def cellPlace (x : Xlat) (n : Nat) : Place := { va := BitVec.ofNat 64 x.va, key := x.pa, n := n, src := .page x, off := none }

/-- Address of doubleword 0 of region entry `idx` of a context (R150, R151). -/
def regionAt (c : Context) (idx : Nat) : Nat := field c.regiontab 11 41 * 2048 + 32 * idx

/-- Where a saturation sets OVF: entry `idx` of the current thread's context (R154). -/
def ovfAt (idx : Nat) : Exec Nat := do
  let s ← get
  return regionAt (s.contextD s.cpu.ctx) idx

/-- Hand an update to its home (R291); it counts as a message (R420). The model applies it at once (notes/assumptions/5.md),
unless a unit that holds the cell is under test (R478), another update of the cell waits at the home, or the host holds a copy of a grain
that it writes (R432): then it waits at the home, and the thread goes on. While it waits, another update of the thread to the cell finds the write buffer full: the two are applied in program order. -/
def sendUpdate (r : RupdReq) : Exec Unit := do
  if (← get).updatingAt r.slot r.addr (rupdWidth r.fn) then stall else pure ()
  modify fun s =>
    let tested := s.testing r.addr (rupdWidth r.fn)
    let s := s.sends r.launch s.cpu.agent
    let s' := (rupdAt r s).syncUpdate s.cpu.id r
    if tested then s.post (.rupdApply r)
    else match s.hostLost s' with
      | some d => (s.leave (.snoop (if d.hostA then .a else .b) d.grain)).post (.rupdApply r)
      | none => s'

/-- Add the FP32 `x` to the cell at `a` as update function 0 (R364). -/
def accumulate (e : TlbEntry) (a : Nat) (x : F32) : Exec Unit := do
  let o ← ovfAt e.regionIdx
  let t ← getCpu
  sendUpdate { fn := 0, addr := a, x := x.setWidth 64, q := e.q, ovf := some o, launch := t.launch, slot := t.id }

/-- A cell that holds a bound (R367). -/
def saturated (v : Int) : Bool := v == 2 ^ 63 - 1 || v == -2 ^ 63

/-- Read the cell at `a` at its home; an error is reported for the element (R18). The copies of it on the thread's die become what the
home has (R206). -/
def readCell (a : Nat) (ea : Word) : Exec Int := do
  let bs ← deliver a 8 ea
  modify fun s => s.syncCopies s.cpu.die a 8
  return (BitVec.ofNat 64 (leNat bs)).toInt

/-- Write the cell at `a`, after the updates of it that wait at its home (R200, R271). -/
def writeCell (a : Nat) (v : Word) : Exec Unit := do
  if (← get).testing a 8 then stall else pure ()
  hostCopy a 8
  modify fun s => s.writeFrom s.cpu.die a (leBytes 8 v.toNat)

/-- Read and clear a cell (R365): ADJOVF for a bound. -/
def takeCell (e : TlbEntry) (a : Nat) (ea : Word) : Exec Int := do
  let v ← readCell a ea
  trapIf (saturated v) Cause.adjovf ea (BitVec.ofNat 32 e.regionIdx)
  writeCell a 0
  return v

/-- The adjoint a read-and-clear adds into a register (R112, R365). -/
def collect (g : F32) (v q : Int) : F32 := (fadd 0 g (q64ToF v q)).1

/-! The tape. -/

/-- Translate the entry of `z` bytes at `p` (R361), piece by piece and through its pages (notes/assumptions/51.md). -/
def tapePlaces (p : Word) (z : Nat) : Exec (List Place) := do
  let t ← getCpu
  go p t.tapep (upTo (z / 16))
where
  go (p tapep : Word) : List Nat → Exec (List Place)
    | [] => pure []
    | j :: js => do
      let va := p + BitVec.ofNat 64 (16 * j)
      let x ← at' p (reach va true true)
      trapIf (x.entry.kind != 0 || x.home != 0) Cause.taperegion tapep
      let rest ← go p tapep js
      return { va := va, key := x.key, n := 16, src := .page x, off := none } :: rest
  at' (p : Word) (m : Exec Xlat) : Exec Xlat := fun s =>
    match m s with
    | .error (.trap cause _ aux) => .error (.trap cause p aux)
    | .error (.memerr unit _ aux) => .error (.memerr unit p aux)
    | r => r

/-- Doubleword 0 of an entry (R362). -/
def tapeHead (kind : Nat) (ea : Word) : Nat := kind * 2 ^ 58 + ea.toNat
/-- The tag word (R362). -/
def tapeTag (w idx : Nat) : Nat := w + idx * 2 ^ 8

/-- The bytes of an entry that records `old` for the element at `ea` (R362). -/
def tapeEntry (kind : Nat) (ea : Word) (old : List Byte) (w idx : Nat) : List Byte :=
  leBytes 8 (tapeHead kind ea) ++
    (if kind == 4 then old
     else if kind == 0 then (old ++ [0, 0]).take 4 ++ leBytes 4 (tapeTag w idx)
     else old ++ leBytes 4 (tapeTag w idx) ++ leBytes 4 0)

/-- The places where an entry of `z` bytes is pushed (R361). -/
def pushPlaces (z : Nat) : Exec (List Place) := do
  let t ← getCpu
  trapIf (decide (t.tapep.toNat + z > t.tapel.toNat)) Cause.tapefull t.tapep (BitVec.ofNat 32 z)
  let ps ← tapePlaces t.tapep z
  scoreCheck ps true
  return ps

/-- The sectors that the pieces cover together get a fresh check: they are one store (R477). -/
def freshSectors (ps : List Place) : Exec Unit :=
  modify fun s => { s with bad := s.bad.filter fun k => !((upTo 2).all fun h => ps.any fun p => p.key == 32 * k + 16 * h) }

/-- The accesses at the places move the streams of the core (R189). -/
def touchPlaces : List Place → Exec Unit
  | [] => pure ()
  | p :: ps => do
    touchStreams p.va
    touchPlaces ps

/-- Write an entry of `z` bytes at TAPEP (R361). -/
def tapePush (ps : List Place) (z : Nat) (bs : List Byte) : Exec Unit := do
  writePlaces MemMode.none ps bs
  freshSectors ps
  touchPlaces ps
  modCpu fun t => { t with tapep := t.tapep + BitVec.ofNat 64 z }

/-- The entry of `z` bytes that a store to `ea` pops: its old bytes, once kind, VA, width and region match (R365). -/
def tapePeek (z kind : Nat) (ea : Word) (w idx : Nat) : Exec (List Byte) := do
  let t ← getCpu
  trapIf (decide (t.tapep.toNat < z + t.tapeb.toNat)) Cause.tapeempty t.tapep
  let ps ← tapePlaces (t.tapep - BitVec.ofNat 64 z) z
  scoreCheck ps false
  let bs ← readPlaces MemMode.none ps
  touchPlaces ps
  let dw0 := leNat (bs.take 8)
  let tag := leNat ((bs.drop (z - 8)).take 4)
  let tag := if kind == 0 then leNat ((bs.drop 12).take 4) else tag
  trapIf (dw0 != tapeHead kind ea || (kind != 4 && (tag % 2 ^ 8 != w || tag / 2 ^ 8 % 64 != idx))) Cause.tapemismatch ea
    (BitVec.ofNat 32 dw0)
  return (bs.drop 8).take (if kind == 4 then 8 else if kind == 0 then w else 64)

/-- Take the popped entry off the tape. -/
def tapeDrop (z : Nat) : Exec Unit := modCpu fun t => { t with tapep := t.tapep - BitVec.ofNat 64 z }

/-! Scalar accesses to a differentiable page. -/

/-- A load of `ea` in mode 2 from a floating-class page: register a's value goes to the cell, and a becomes 0 (R364). It acquires
nothing (notes/assumptions/47.md). -/
def reverseLoad (e : TlbEntry) (a : Reg) (ea : Word) : Exec Unit := do
  trapIf (a == 126 || a == 127) Cause.regrange (a.setWidth 64)
  let x ← cellAt e ea false true
  scoreCheck [cellPlace x 8] true
  releaseMode MemMode.none
  let g ← readG a
  accumulate e x.pa (g.setWidth 32)
  touchPlaces [cellPlace x 8]
  writeG a 0

/-- Kind and size of a scalar entry (R363, R365). -/
def scalarKind (w : Nat) : Nat := if w == 8 then 4 else 0

/-- A store in mode 1: push the old value, then write (R363). -/
def recordStore (e : TlbEntry) (p : Place) (ea : Word) (w : Nat) (bs : List Byte) (mm : MemMode) : Exec Unit := do
  let ps ← pushPlaces 16
  let old ← readPlaces MemMode.none [p]
  tapePush ps 16 (tapeEntry (scalarKind w) ea old w e.regionIdx)
  writePlaces mm [p] bs

/-- A store in mode 2: pop, restore and, for a floating class, collect (R365). `g` is register a's value. A data register g126 of a
floating class traps REGRANGE here (notes/assumptions/50.md). -/
def reverseStore (e : TlbEntry) (p : Place) (a : Reg) (ea : Word) (w : Nat) (g : Word) (mm : MemMode) : Exec Unit := do
  if decide (e.cls ≤ 1) then do
    trapIf (a == 126 || a == 127) Cause.regrange (a.setWidth 64)
    let old ← tapePeek 16 (scalarKind w) ea w e.regionIdx
    let x ← cellAt e ea true true
    scoreCheck [cellPlace x 8] true
    let v ← takeCell e x.pa ea
    touchPlaces [cellPlace x 8]
    writePlaces mm [p] old
    tapeDrop 16
    writeG a ((collect (g.setWidth 32) v e.q).setWidth 64)
  else do
    let old ← tapePeek 16 (scalarKind w) ea w e.regionIdx
    writePlaces mm [p] old
    tapeDrop 16

/-! Vector accesses (R364, R366). -/

/-- The cells of a vector must start at a multiple of 128 (R366); a BF16 page has no reverse vector form (R358). -/
def vectorCheck (e : TlbEntry) (ea : Word) : Exec Unit :=
  if e.cls == 1 || (e.cls == 0 && (cellVa e ea).toNat % 128 != 0) then trapRegion ea e else pure ()

/-- Address of cell `j` from the first cell's. -/
def cellOf (x : Xlat) (j : Nat) : Nat := x.pa + 8 * j

/-- Send the lanes to the cells (R364). -/
def accumulateLanes (e : TlbEntry) (x : Xlat) (v : Vec) : List Nat → Exec Unit
  | [] => pure ()
  | j :: js => do
    accumulate e (cellOf x j) (lane v j)
    accumulateLanes e x v js

/-- A VLD in mode 2 from an FP32 page (R364). -/
def reverseVld (e : TlbEntry) (a : VReg) (ea : Word) : Exec Unit := do
  let x ← cellAt e ea false true
  scoreCheck [cellPlace x 128] true
  releaseMode MemMode.none
  let v ← readV a
  accumulateLanes e x v (upTo 16)
  touchPlaces [cellPlace x 128]
  writeV a 0

/-- The values of the 16 cells, one by one; ADJOVF for the first that holds a bound (R366; notes/assumptions/51.md). -/
def readCells (e : TlbEntry) (x : Xlat) (ea : Word) : List Nat → Exec (List Int)
  | [] => pure []
  | j :: js => do
    let el := ea + BitVec.ofNat 64 (4 * j)
    let v ← readCell (cellOf x j) el
    trapIf (saturated v) Cause.adjovf el (BitVec.ofNat 32 e.regionIdx)
    let vs ← readCells e x ea js
    return v :: vs

/-- Clear the 16 cells (R366). -/
def clearCells (x : Xlat) : List Nat → Exec Unit
  | [] => pure ()
  | j :: js => do
    writeCell (cellOf x j) 0
    clearCells x js

/-- Add each cell into its lane (R366). -/
def collectLanes (q : Int) (v : Vec) (vs : List Int) : Vec := ofLanes (List.zipWith (fun g c => collect g c q) (lanes v) vs)

/-- A VST in mode 2 (R366). -/
def reverseVst (e : TlbEntry) (ps : List Place) (a : VReg) (ea : Word) (mm : MemMode) : Exec Unit := do
  let old ← tapePeek 80 1 ea e.elemWidth e.regionIdx
  if e.cls == 0 then do
    let x ← cellAt e ea true true
    scoreCheck [cellPlace x 128] true
    let vs ← readCells e x ea (upTo 16)
    clearCells x (upTo 16)
    touchPlaces [cellPlace x 128]
    writePlaces mm ps old
    tapeDrop 80
    let v ← readV a
    writeV a (collectLanes e.q v vs)
  else do
    writePlaces mm ps old
    tapeDrop 80

/-- A VST in mode 1 (R363, R366). -/
def recordVst (e : TlbEntry) (ps : List Place) (ea : Word) (bs : List Byte) (mm : MemMode) : Exec Unit := do
  let ts ← pushPlaces 80
  let old ← readPlaces MemMode.none ps
  tapePush ts 80 (tapeEntry 1 ea old e.elemWidth e.regionIdx)
  writePlaces mm ps bs

/-! The instructions. -/

/-- DMODE: a full fence at device scope, then MODE := n (R370, R372). -/
def execDmode (c : Chain) (n : BitVec 2) (s : State) : Host.Outcome State Fault Refusal :=
  runChain c (.dmode c n) (do
    gate (.dmode c n) false .any
    releaseWait .device
    acquire .device
    modCpu fun t => { t.fenced .device with dmode := n }
    done (.dmode c n)) s

/-- The element page of ADJRD and ADJWR: permission R, floating class, aligned (R160, R373). -/
def adjElem (ea : Word) : Exec TlbEntry := do
  let x ← reach ea true false
  if x.entry.kind != 2 || decide (x.entry.cls > 1) || x.home != 0 then trapRegion ea x.entry
  else do
    checkAlign ea x.entry.elemWidth
    elemCheck x.entry ea
    return x.entry

/-- ADJRD (R373). -/
def execAdjrd (c : Chain) (a b : Reg) (off : Word) (mm : MemMode) (s : State) : Host.Outcome State Fault Refusal :=
  runChain c (.adjrd c a b off mm) (do
    gate (.adjrd c a b off mm) false .any
    checkUses [.wr a, .rd b]
    let ea := (← readG b) + off
    let e ← adjElem ea
    let x ← cellAt e ea true false
    scoreCheck [cellPlace x 8] false
    volatileWait mm
    let v ← readCell x.pa ea
    let r := q64ToFF v e.q
    raise r.2
    writeG a (r.1.setWidth 64)
    acquireMode mm
    touchPlaces [cellPlace x 8]
    done (.adjrd c a b off mm)) s

/-- ADJWR (R373): the cell becomes the contribution of an empty cell. DESIGN CHOICE: the conversion, which is made at the cell's home,
sets no flag of FPCSR (notes/assumptions/57.md). -/
def execAdjwr (c : Chain) (a b : Reg) (off : Word) (mm : MemMode) (s : State) : Host.Outcome State Fault Refusal :=
  runChain c (.adjwr c a b off mm) (do
    gate (.adjwr c a b off mm) false .any
    checkUses [.rd a, .rd b]
    let (g, base) ← readG2 a b
    let ea := base + off
    let e ← adjElem ea
    let x ← cellAt e ea false true
    scoreCheck [cellPlace x 8] true
    releaseMode mm
    let o ← ovfAt e.regionIdx
    let f : F32 := g.setWidth 32
    let (v, sat) := q64Add 0 f e.q
    if isNaN f then pure () else writeCell x.pa (BitVec.ofInt 64 v)
    if sat then do
      if (← get).testing (o + 1) 1 then stall else pure ()
      hostCopy (o + 1) 1
      modify fun s => (s.setOvf o).syncCopies s.cpu.die (o + 1) 1
    else pure ()
    touchPlaces [cellPlace x 8]
    done (.adjwr c a b off mm)) s

end Sys2Proof.Machine
end

