-- ==== Sys2Proof/Machine/LoadStore.lean ====
section
/-!
DEFINITION. The scalar loads and stores (R161 to R165).
-/
namespace Sys2Proof.Machine

/-- The region entry of a piece that lies in a page. -/
def Place.entry? (p : Place) : Option TlbEntry := match p.src with | .page x => some x.entry | _ => none

/-- Step 5 of R160 for a scalar access of width `w`: aged pages trap, a differentiable page needs its element width and
address rule (R163, R153). The answer is the entry of a differentiable page. -/
def scalarRegion (p : Place) (ea : Word) (w : Nat) : Exec (Option TlbEntry) :=
  match p.entry? with
  | none => pure none
  | some e =>
    if e.kind == 0 then pure none
    else if e.kind == 2 && e.elemWidth == w then do
      elemCheck e ea
      return some e
    else trapRegion ea e

/-- A load of `w` bytes, zero-extended (R162). -/
def scalarLoad (i : Instr) (c : Chain) (a b : Reg) (off : Word) (mm : MemMode) (w : Nat) (s : State) :
    Host.Outcome State Fault Refusal :=
  runChain c i (do
    gate i true .any
    checkUses [.wr a, .rd b]
    let ea := (← readG b) + off
    checkAlign ea w
    let p ← placeAt ea w true false
    let e ← scalarRegion p ea w
    let t ← getCpu
    match e, t.dmode == 2 with
    | some e, true =>
      if decide (e.cls ≤ 1) then reverseLoad e a ea else plainLoad p ea
    | _, _ => plainLoad p ea
    done i) s
where
  plainLoad (p : Place) (ea : Word) : Exec Unit := do
    scoreCheck [p] false
    volatileWait mm p.hostVa
    let bs ← readPlaces mm [p]
    writeG a (BitVec.ofNat 64 (leNat bs))
    acquireMode mm
    touchStreams ea

/-- A store of the low `w` bytes of ga (R162). -/
def scalarStore (i : Instr) (c : Chain) (a b : Reg) (off : Word) (mm : MemMode) (w : Nat) (s : State) :
    Host.Outcome State Fault Refusal :=
  runChain c i (do
    gate i true .any
    checkUses [.rd a, .rd b]
    let (x, base) ← readG2 a b
    let ea := base + off
    checkAlign ea w
    let p ← placeAt ea w false true
    let e ← scalarRegion p ea w
    scoreCheck [p] true
    releaseMode mm p.hostVa
    let bs := leBytes w x.toNat
    let t ← getCpu
    match e with
    | some e =>
      if t.dmode == 1 then recordStore e p ea w bs mm
      else if t.dmode == 2 then reverseStore e p a ea w x mm
      else writePlaces mm [p] bs
    | none => writePlaces mm [p] bs
    touchStreams ea
    done i) s

/-- LDB (R161, R162). -/
def execLdb (c : Chain) (a b : Reg) (off : Word) (mm : MemMode) (s : State) : Host.Outcome State Fault Refusal :=
  scalarLoad (.ldb c a b off mm) c a b off mm 1 s
/-- LDH (R161, R162). -/
def execLdh (c : Chain) (a b : Reg) (off : Word) (mm : MemMode) (s : State) : Host.Outcome State Fault Refusal :=
  scalarLoad (.ldh c a b off mm) c a b off mm 2 s
/-- LDW (R161, R162). -/
def execLdw (c : Chain) (a b : Reg) (off : Word) (mm : MemMode) (s : State) : Host.Outcome State Fault Refusal :=
  scalarLoad (.ldw c a b off mm) c a b off mm 4 s
/-- LDD (R161, R162). -/
def execLdd (c : Chain) (a b : Reg) (off : Word) (mm : MemMode) (s : State) : Host.Outcome State Fault Refusal :=
  scalarLoad (.ldd c a b off mm) c a b off mm 8 s
/-- STB (R161, R162). -/
def execStb (c : Chain) (a b : Reg) (off : Word) (mm : MemMode) (s : State) : Host.Outcome State Fault Refusal :=
  scalarStore (.stb c a b off mm) c a b off mm 1 s
/-- STH (R161, R162). -/
def execSth (c : Chain) (a b : Reg) (off : Word) (mm : MemMode) (s : State) : Host.Outcome State Fault Refusal :=
  scalarStore (.sth c a b off mm) c a b off mm 2 s
/-- STW (R161, R162). -/
def execStw (c : Chain) (a b : Reg) (off : Word) (mm : MemMode) (s : State) : Host.Outcome State Fault Refusal :=
  scalarStore (.stw c a b off mm) c a b off mm 4 s
/-- STD (R161, R162). -/
def execStd (c : Chain) (a b : Reg) (off : Word) (mm : MemMode) (s : State) : Host.Outcome State Fault Refusal :=
  scalarStore (.std c a b off mm) c a b off mm 8 s

end Sys2Proof.Machine
end

