-- ==== Sys2Proof/Machine/Float.lean ====
section
/-!
DEFINITION. Scalar FP32 instructions (R123 to R127). Operand values are bits [31:0]; results have bits [63:32] zero.
-/
namespace Sys2Proof.Machine

/-- Write an FP32 result and raise its flags (R94, R97, R98). -/
def writeF (a : Reg) (r : FRes) : Exec Unit := do
  raise r.2
  writeG a (r.1.setWidth 64)

/-- A two-source FP32 instruction under the thread's rounding mode (R123). -/
def fbinary (i : Instr) (c : Chain) (a b : Reg) (k : RegC) (op : BitVec 2 → F32 → F32 → FRes) (s : State) :
    Host.Outcome State Fault Refusal :=
  runChain c i (do
    gate i false .any
    checkUses (uses2 c a b k)
    let (x, y) ← sources2 c a b k
    writeF a (op (← getCpu).rm (x.setWidth 32) (y.setWidth 32))
    done i) s

/-- A one-source instruction with a flagged 64-bit result. -/
def funary (i : Instr) (c : Chain) (a b : Reg) (op : BitVec 2 → Word → Word × Flags) (s : State) :
    Host.Outcome State Fault Refusal :=
  runChain c i (do
    gate i false .any
    checkUses [.wr a, .rd b]
    let y ← readG b
    let r := op (← getCpu).rm y
    raise r.2
    writeG a r.1
    done i) s

/-- An FP32 compare (R125). -/
def fcmp (i : Instr) (c : Chain) (a b : Reg) (d : PredDest) (rel : F32 → F32 → Bool) (s : State) :
    Host.Outcome State Fault Refusal :=
  runChain c i (do
    gate i false .any
    checkUses [.rd a, .rd b]
    let (x, y) ← readG2 a b
    let r := fcompare rel (x.setWidth 32) (y.setWidth 32)
    raise r.2
    writePred d r.1
    done i) s

/-- An FP32 result as a 64-bit one. -/
def wideF (r : FRes) : Word × Flags := (r.1.setWidth 64, r.2)

/-- FADD (R123). -/
def execFadd (c : Chain) (a b : Reg) (k : RegC) (s : State) : Host.Outcome State Fault Refusal :=
  fbinary (.fadd c a b k) c a b k fadd s
/-- FSUB (R123). -/
def execFsub (c : Chain) (a b : Reg) (k : RegC) (s : State) : Host.Outcome State Fault Refusal :=
  fbinary (.fsub c a b k) c a b k fsub s
/-- FMUL (R123). -/
def execFmul (c : Chain) (a b : Reg) (k : RegC) (s : State) : Host.Outcome State Fault Refusal :=
  fbinary (.fmul c a b k) c a b k fmul s
/-- FDIV (R123). -/
def execFdiv (c : Chain) (a b : Reg) (k : RegC) (s : State) : Host.Outcome State Fault Refusal :=
  fbinary (.fdiv c a b k) c a b k fdiv s
/-- FMIN: the minimum rule of R116 (R123). -/
def execFmin (c : Chain) (a b : Reg) (k : RegC) (s : State) : Host.Outcome State Fault Refusal :=
  fbinary (.fmin c a b k) c a b k (fun _ => fminRule) s
/-- FMAX: the maximum rule of R116 (R123). -/
def execFmax (c : Chain) (a b : Reg) (k : RegC) (s : State) : Host.Outcome State Fault Refusal :=
  fbinary (.fmax c a b k) c a b k (fun _ => fmaxRule) s
/-- FFMA: G(a) + G(b) × G(c), rounded once (R124). -/
def execFfma (c : Chain) (a b : Reg) (k : RegC) (s : State) : Host.Outcome State Fault Refusal :=
  runChain c (.ffma c a b k) (do
    gate (.ffma c a b k) false .any
    checkUses [.rw a, .rd b, .rd (wide k)]
    let x ← readG a
    let y ← readG b
    let z ← readG (wide k)
    writeF a (ffma (← getCpu).rm (x.setWidth 32) (y.setWidth 32) (z.setWidth 32))
    done (.ffma c a b k)) s
/-- FSQRT (R123). -/
def execFsqrt (c : Chain) (a b : Reg) (s : State) : Host.Outcome State Fault Refusal :=
  funary (.fsqrt c a b) c a b (fun rm y => wideF (fsqrt rm (y.setWidth 32))) s
/-- FCEQ (R125). -/
def execFceq (c : Chain) (a b : Reg) (d : PredDest) (s : State) : Host.Outcome State Fault Refusal :=
  fcmp (.fceq c a b d) c a b d eqF s
/-- FCLT (R125). -/
def execFclt (c : Chain) (a b : Reg) (d : PredDest) (s : State) : Host.Outcome State Fault Refusal :=
  fcmp (.fclt c a b d) c a b d ltF s
/-- FCLE (R125). -/
def execFcle (c : Chain) (a b : Reg) (d : PredDest) (s : State) : Host.Outcome State Fault Refusal :=
  fcmp (.fcle c a b d) c a b d (fun x y => ltF x y || eqF x y) s
/-- FCVTI under FPCSR.RM (R126). -/
def execFcvti (c : Chain) (a b : Reg) (s : State) : Host.Outcome State Fault Refusal :=
  funary (.fcvti c a b) c a b (fun rm y => toInt64 rm (y.setWidth 32)) s
/-- FCVTI.rz, toward zero (R126). -/
def execFcvtiRz (c : Chain) (a b : Reg) (s : State) : Host.Outcome State Fault Refusal :=
  funary (.fcvtiRz c a b) c a b (fun _ y => toInt64 1 (y.setWidth 32)) s
/-- ICVTF of a signed integer (R127). -/
def execIcvtf (c : Chain) (a b : Reg) (s : State) : Host.Outcome State Fault Refusal :=
  funary (.icvtf c a b) c a b (fun rm y => wideF (ofInt rm y.toInt)) s
/-- ICVTF.u of an unsigned integer (R127). -/
def execIcvtfU (c : Chain) (a b : Reg) (s : State) : Host.Outcome State Fault Refusal :=
  funary (.icvtfU c a b) c a b (fun rm y => wideF (ofInt rm y.toNat)) s

end Sys2Proof.Machine
end

