-- ==== Sys2Proof/Machine/Lanes.lean ====
section
/-!
DEFINITION. Vector instructions (R117 to R140).
-/
namespace Sys2Proof.Machine

/-- Vector sources of a two- or three-register form (R128). -/
def vsources (c : Chain) (a b k : VReg) : Exec (Vec × Vec) := do
  if c.hasXR then return (← readV b, ← readV k) else return (← readV a, ← readV b)

/-- The vector registers such a form names, in the order of the fields (R119). -/
def vnames (c : Chain) (a b k : VReg) : List VReg := if c.hasXR then [a, b, k] else [a, b]

/-- A lane-wise two-source instruction (R122, R128). -/
def vbinary (i : Instr) (c : Chain) (a b k : VReg) (op : BitVec 2 → F32 → F32 → FRes) (s : State) :
    Host.Outcome State Fault Refusal :=
  runChain c i (do
    gate i false .any
    checkOperands [] (vnames c a b k)
    let (x, y) ← vsources c a b k
    let r := laneMap2 (op (← getCpu).rm) x y
    raise r.2
    writeV a r.1
    done i) s

/-- A lane-wise conversion (R133). -/
def vunary (i : Instr) (c : Chain) (a b : VReg) (op : F32 → FRes) (s : State) : Host.Outcome State Fault Refusal :=
  runChain c i (do
    gate i false .any
    checkOperands [] [a, b]
    let r := laneMap1 op (← readV b)
    raise r.2
    writeV a r.1
    done i) s

/-- A reduction to ga (R132). -/
def vreduce (i : Instr) (c : Chain) (a : Reg) (b : VReg) (op : BitVec 2 → F32 → F32 → FRes) (s : State) :
    Host.Outcome State Fault Refusal :=
  runChain c i (do
    gate i false .any
    checkOperands [.wr a] [b]
    writeF a (tree16 (op (← getCpu).rm) (lanes (← readV b)))
    done i) s

/-- VADD (R128). -/
def execVadd (c : Chain) (a b k : VReg) (s : State) : Host.Outcome State Fault Refusal := vbinary (.vadd c a b k) c a b k fadd s
/-- VSUB (R128). -/
def execVsub (c : Chain) (a b k : VReg) (s : State) : Host.Outcome State Fault Refusal := vbinary (.vsub c a b k) c a b k fsub s
/-- VMUL (R128). -/
def execVmul (c : Chain) (a b k : VReg) (s : State) : Host.Outcome State Fault Refusal := vbinary (.vmul c a b k) c a b k fmul s
/-- VMAX (R128). -/
def execVmax (c : Chain) (a b k : VReg) (s : State) : Host.Outcome State Fault Refusal :=
  vbinary (.vmax c a b k) c a b k (fun _ => fmaxRule) s
/-- VMIN (R128). -/
def execVmin (c : Chain) (a b k : VReg) (s : State) : Host.Outcome State Fault Refusal :=
  vbinary (.vmin c a b k) c a b k (fun _ => fminRule) s
/-- VIADD: integer lanes, no flags (R128). -/
def execViadd (c : Chain) (a b k : VReg) (s : State) : Host.Outcome State Fault Refusal :=
  vbinary (.viadd c a b k) c a b k (fun _ x y => (x + y, 0)) s
/-- VFMA: V(a) + V(b) × V(c), each lane rounded once (R128). -/
def execVfma (c : Chain) (a b k : VReg) (s : State) : Host.Outcome State Fault Refusal :=
  runChain c (.vfma c a b k) (do
    gate (.vfma c a b k) false .any
    checkOperands [] [a, b, k]
    let x ← readV a
    let y ← readV b
    let z ← readV k
    let rm := (← getCpu).rm
    let rs := (upTo 16).map fun l => ffma rm (lane x l) (lane y l) (lane z l)
    raise (rs.foldl (fun acc r => acc ||| r.2) 0)
    writeV a (ofLanes (rs.map (·.1)))
    done (.vfma c a b k)) s
/-- VBCAST (R129). -/
def execVbcast (c : Chain) (a : VReg) (b : Reg) (s : State) : Host.Outcome State Fault Refusal :=
  runChain c (.vbcast c a b) (do
    gate (.vbcast c a b) false .any
    checkOperands [.rd b] [a]
    let x ← readG b
    writeV a (ofLanes (List.replicate 16 (x.setWidth 32)))
    done (.vbcast c a b)) s
/-- VEXTR (R130). -/
def execVextr (c : Chain) (a : Reg) (b : VReg) (lane : BitVec 4) (s : State) : Host.Outcome State Fault Refusal :=
  runChain c (.vextr c a b lane) (do
    gate (.vextr c a b lane) false .any
    checkOperands [.wr a] [b]
    let v ← readV b
    writeG a ((Machine.lane v lane.toNat).setWidth 64)
    done (.vextr c a b lane)) s
/-- VINS (R130). -/
def execVins (c : Chain) (a : VReg) (b : Reg) (lane : BitVec 4) (s : State) : Host.Outcome State Fault Refusal :=
  runChain c (.vins c a b lane) (do
    gate (.vins c a b lane) false .any
    checkOperands [.rd b] [a]
    let x ← readG b
    let v ← readV a
    writeV a (ofLanes ((lanes v).set lane.toNat (x.setWidth 32)))
    done (.vins c a b lane)) s
/-- VSUM (R115, R132). -/
def execVsum (c : Chain) (a : Reg) (b : VReg) (s : State) : Host.Outcome State Fault Refusal := vreduce (.vsum c a b) c a b fadd s
/-- VMAXR (R116, R132). -/
def execVmaxr (c : Chain) (a : Reg) (b : VReg) (s : State) : Host.Outcome State Fault Refusal :=
  vreduce (.vmaxr c a b) c a b (fun _ => fmaxRule) s
/-- VSEL (R131). -/
def execVsel (c : Chain) (a b : VReg) (k : RegC) (s : State) : Host.Outcome State Fault Refusal :=
  runChain c (.vsel c a b k) (do
    gate (.vsel c a b k) false .any
    checkOperands [.rd (wide k)] [a, b]
    let m ← readG (wide k)
    let x ← readV a
    let y ← readV b
    writeV a (ofLanes ((upTo 16).map fun l => if m.getLsbD l then lane y l else lane x l))
    done (.vsel c a b k)) s
/-- VCVT.bf16.fp32 (R99, R133). -/
def execVcvtBf16Fp32 (c : Chain) (a b : VReg) (s : State) : Host.Outcome State Fault Refusal :=
  vunary (.vcvtBf16Fp32 c a b) c a b (fun x => ((toBF16 x).1.setWidth 32, (toBF16 x).2)) s
/-- VCVT.fp32.bf16 (R133). -/
def execVcvtFp32Bf16 (c : Chain) (a b : VReg) (s : State) : Host.Outcome State Fault Refusal :=
  vunary (.vcvtFp32Bf16 c a b) c a b (fun x => ofBF16 (x.setWidth 16)) s
/-- VCVT.dl8.fp32: scale 1.0 (R104, R133). -/
def execVcvtDl8Fp32 (c : Chain) (a b : VReg) (s : State) : Host.Outcome State Fault Refusal :=
  vunary (.vcvtDl8Fp32 c a b) c a b (fun x => ((toDL8 x 0x3F800000).1.setWidth 32, (toDL8 x 0x3F800000).2)) s
/-- VCVT.fp32.dl8 (R103, R133). -/
def execVcvtFp32Dl8 (c : Chain) (a b : VReg) (s : State) : Host.Outcome State Fault Refusal :=
  vunary (.vcvtFp32Dl8 c a b) c a b (fun x => (ofDL8 (x.setWidth 8), 0)) s

/-! VLD and VST (R134, R135, R140). -/

/-- The region entry of a differentiable page behind the pieces, after step 5 of R160 for a vector access. -/
def vectorRegion (ps : List Place) (ea : Word) : Exec (Option TlbEntry) :=
  match ps.head?.bind Place.entry? with
  | none => pure none
  | some e =>
    if e.kind == 0 then pure none
    else if e.kind == 2 then do
      elemCheck e ea
      return some e
    else trapRegion ea e

/-- VLD (R134). One that accumulates in mode 2 acquires nothing (R364; notes/assumptions/47.md). DEDUCED: in mode 1 it is plain, as the
tables of R358 and R362 have it; R366 says that it pushes an entry (notes/assumptions/65.md). -/
def execVld (c : Chain) (a : VReg) (b : Reg) (off : Word) (mm : MemMode) (s : State) : Host.Outcome State Fault Refusal :=
  runChain c (.vld c a b off mm) (do
    gate (.vld c a b off mm) false .any
    checkOperands [.rd b] [a]
    let ea := (← readG b) + off
    checkAlign ea 64
    let ps ← placesAt true false (piecesOf ea 64)
    let e ← vectorRegion ps ea
    let t ← getCpu
    match e, t.dmode == 2 with
    | some e, true =>
      if decide (e.cls ≤ 1) then do
        vectorCheck e ea
        reverseVld e a ea
      else plainVld ps ea
    | _, _ => plainVld ps ea
    done (.vld c a b off mm)) s
where
  plainVld (ps : List Place) (ea : Word) : Exec Unit := do
    scoreCheck ps false
    volatileWait mm (ps.findSome? Place.hostVa)
    let bs ← readPlaces mm ps
    writeV a (ofVecBytes bs)
    acquireMode mm
    touchStreams ea

/-- VST (R134). -/
def execVst (c : Chain) (a : VReg) (b : Reg) (off : Word) (mm : MemMode) (s : State) : Host.Outcome State Fault Refusal :=
  runChain c (.vst c a b off mm) (do
    gate (.vst c a b off mm) false .any
    checkOperands [.rd b] [a]
    let ea := (← readG b) + off
    checkAlign ea 64
    let ps ← placesAt false true (piecesOf ea 64)
    let e ← vectorRegion ps ea
    let t ← getCpu
    match e, t.dmode == 2 with
    | some e, true => if decide (e.cls ≤ 1) then vectorCheck e ea else pure ()
    | _, _ => pure ()
    scoreCheck ps true
    releaseMode mm (ps.findSome? Place.hostVa)
    let bs := vecBytes (← readV a)
    match e with
    | some e =>
      if t.dmode == 1 then recordVst e ps ea bs mm
      else if t.dmode == 2 then reverseVst e ps a ea mm
      else do
        writePlaces mm ps bs
        freshSectors ps
    | none => do
      writePlaces mm ps bs
      freshSectors ps
    touchStreams ea
    done (.vst c a b off mm)) s

/-! VLDX and VSTX (R136 to R139). -/

/-- The address of each lane (R136). -/
def laneAddrs (base : Word) (v : Vec) : List Word := (lanes v).map fun o => base + o.signExtend 64

/-- Check every lane in ascending order (R138, R140). -/
def gatherPlaces (rd wr : Bool) : List Word → Exec (List Place)
  | [] => pure []
  | a :: as => do
    checkAlign a 4
    let p ← placeAt a 4 rd wr
    match p.entry? with
    | some e => if e.kind != 0 then trapRegion a e else pure ()
    | none => pure ()
    let ps ← gatherPlaces rd wr as
    return p :: ps

/-- Two lanes are served by one read: their addresses A(j) are equal (R136), or the access is volatile and they name one word of memory,
which is then read exactly once (R139). -/
def sameLane (mm : MemMode) (x y : Word × Place) : Bool := x.1 == y.1 || (mm.cls == .volatile && x.2.key == y.2.key)

/-- Read the word of each lane, given with its address. `got` holds what has been read so far. -/
def gatherWords (mm : MemMode) : List ((Word × Place) × F32) → List (Word × Place) → Exec (List F32)
  | _, [] => pure []
  | got, l :: ls => do
    let w ← match first? (fun x => sameLane mm x.1 l) got with
      | some x => pure x.2
      | none => do
        let bs ← readPlaces mm [l.2]
        pure (BitVec.ofNat 32 (leNat bs))
    let ws ← gatherWords mm ((l, w) :: got) ls
    return w :: ws

/-- Write the lanes that no higher lane overwrites (R137). -/
def scatterWords (mm : MemMode) : List (Place × F32) → Exec Unit
  | [] => pure ()
  | (p, x) :: rest => do
    if rest.any (fun q => q.1.key == p.key) then pure () else writePlaces mm [p] (leBytes 4 x.toNat)
    scatterWords mm rest

/-- The window or handle that an aperture lane was checked against, by core (R138). -/
def Place.pin (p : Place) : Option (Nat × Nat) :=
  match p.src with
  | .window k num _ => some (k, num)
  | _ => none

/-- The handle that address `va` names in the handle aperture of core `k`. -/
def handlePin (k : Nat) (va : Word) : Option (Nat × Nat) :=
  if decide (Config.handleAperture ≤ va.toNat) && decide (va.toNat < Config.handleApertureEnd) then
    some (k, 8 + (va.toNat - Config.handleAperture) / 2 ^ 20 % 8)
  else none

/-- While the rest of a gather or scatter waits, what it was checked against stays as it is (R138). -/
def pinned (pins : List (Nat × Nat)) (m : Exec Unit) : Exec Unit := fun s =>
  match m s with
  | .error (.wait p r walks) => .error (.wait p (.pinned pins r) walks)
  | r => r

/-- Move the streams for every address in turn (R189). -/
def touchAll : List Word → Exec Unit
  | [] => pure ()
  | a :: as => do
    touchStreams a
    touchAll as

/-- VLDX (R136). -/
def execVldx (c : Chain) (a : VReg) (b : Reg) (k : VReg) (mm : MemMode) (s : State) : Host.Outcome State Fault Refusal :=
  runChain c (.vldx c a b k mm) (do
    gate (.vldx c a b k mm) false .any
    checkOperands [.rd b] [a, k]
    let base ← readG b
    let as := laneAddrs base (← readV k)
    let ps ← gatherPlaces true false as
    let core := (← getCpu).coreId
    pinned (ps.filterMap Place.pin ++ as.filterMap (handlePin core)) do
      scoreCheck ps false
      volatileWait mm (ps.findSome? Place.hostVa)
      let ws ← gatherWords mm [] (List.zip as ps)
      writeV a (ofLanes ws)
      acquireMode mm
      touchAll as
      done (.vldx c a b k mm)) s

/-- VSTX (R137). -/
def execVstx (c : Chain) (a : VReg) (b : Reg) (k : VReg) (mm : MemMode) (s : State) : Host.Outcome State Fault Refusal :=
  runChain c (.vstx c a b k mm) (do
    gate (.vstx c a b k mm) false .any
    checkOperands [.rd b] [a, k]
    let base ← readG b
    let as := laneAddrs base (← readV k)
    let ps ← gatherPlaces false true as
    let core := (← getCpu).coreId
    pinned (ps.filterMap Place.pin ++ as.filterMap (handlePin core)) do
      scoreCheck ps true
      releaseMode mm (ps.findSome? Place.hostVa)
      scatterWords mm (List.zip ps (lanes (← readV a)))
      touchAll as
      done (.vstx c a b k mm)) s

end Sys2Proof.Machine
end

