-- ==== Sys2Proof/Machine/Aged.lean ====
section
/-!
DEFINITION. Aged regions: LDAW, LDAT, VLDA, STA, VSTA, ITADV (R242 to R263) and the events STAMPED_STORE_HOME and
WEIRLIM_EXPIRE.
-/
namespace Sys2Proof.Machine

/-- The checks of an aged access (R160, R244, R489). -/
def agedReach (ea : Word) (w : Nat) (rd wr : Bool) : Exec Xlat := do
  checkAlign ea w
  let x ← reach ea rd wr
  if x.entry.kind != 1 || x.home != 0 then trapRegion ea x.entry else return x

/-- The load accepts a state of this stamp at lag `lag` (R247). -/
def accepts (iter : BitVec 32) (lag : BitVec 5) (stamp : BitVec 32) : Bool :=
  lag == 31 || decide (ageOf iter stamp ≤ lag.toNat)

/-- Of two stamps the one of smaller age. -/
def younger (iter a b : BitVec 32) : BitVec 32 := if decide (ageOf iter b < ageOf iter a) then b else a

/-- What thread `t` knows of an aged grain (R206, R215). -/
def Thread.seenOf (t : Thread) (g : Nat) : Option AgedSeen := first? (fun x => x.grain == g) t.seen

/-- `t` knows this of a grain from now on. -/
def Thread.sees (t : Thread) (x : AgedSeen) : Thread := { t with seen := x :: t.seen.filter fun y => y.grain != x.grain }

/-- The stores whose states the value of field `r` depends on (R201): a read of g126 takes the oldest entry of the flume queue, and g0
depends on nothing. -/
def Thread.depsOf (t : Thread) (r : Nat) : List Dep := if r = 126 then t.flumeFlow.headD [] else if r = 0 then [] else assocD [] r t.flow

/-- A copy that R215 still lets `t` read, at an address that depends on `deps`: not below a stamp it has read, nor older than its own
last store to the grain, nor older than a store that comes, in its writer's program order, before a state that `t` had read at its last
acquire, or that an aged load of `t` returned on which the address depends (R200, R201). -/
def Thread.mayRead (t : Thread) (deps : List Dep) (c : Copy) : Bool :=
  (match t.seenOf c.home with
    | some x => decide ((c.stamp.getD 0 - x.stamp).toInt ≥ 0) && decide (c.wrote ≥ x.wrote)
    | none => true) &&
  !c.later.any fun o => decide (o.2 ≤ assocD 0 o.1 t.front) ||
    deps.any fun d => d.reader == t.writer && d.writer == o.1 && decide (o.2 ≤ d.wrote)

/-- The copy `holder` holds of a grain, if it still holds it: a copy may have been dropped (a free choice), and is gone then. -/
def heldCopy (holder g : Nat) : Exec (Option Copy) := do
  let s ← get
  match s.grainCopy? holder g with
  | none => return none
  | some c => do
    let kept ← choose
    if kept then return some c
    else do
      modify fun s => s.dropGrain holder g
      return none

/-- A grain state that an aged load has found. -/
structure Found where
  grain : Grain
  /-- The cache that holds it; none for the home, or for a state that a stored grain has served the load with. -/
  holder : Option Nat
  /-- It is the state that the home has now, which the load installs (R248). -/
  fresh : Bool
deriving DecidableEq, Repr

/-- The state with which a stored grain has served the waiting load, if it is one of grain `g` (R250). -/
def Thread.servedWith (t : Thread) (g : Nat) : Option Grain := (t.agedWait.bind (·.served)).filter fun h => h.home == g

/-- What an aged load finds for one grain (R248 to R252): the state it has been served with, or the nearest accepted one; or
STALE, or a wait in the weir. `va` is the VA of the grain, `keep` and `found` what a VLDA has of its first grain, `deps` what the address
depends on. -/
def findGrain (x : Xlat) (g : Nat) (va : Word) (deps : List Dep) (lag : BitVec 5) (waits : Bool) (keep : Option (List Byte × Grain))
    (found : List Grain) : Exec Found := do
  let t ← getCpu
  match t.servedWith g with
  | some h => return { grain := h, holder := none, fresh := (← get).homeGrain x.entry g == h }
  | none => do
    let good (c : Copy) : Bool := accepts t.iter lag (c.stamp.getD 0) && t.mayRead deps c
    let l1 ← heldCopy t.coreId g
    match l1.filter good with
    | some c => return { grain := c.grain, holder := some c.holder, fresh := false }
    | none => do
      let part ← if g / 2 ^ 37 == t.die then pure none else heldCopy (4096 + t.die) g
      match part.filter good with
      | some c => return { grain := c.grain, holder := some c.holder, fresh := false }
      | none => do
        let s ← get
        let h := s.homeGrain x.entry g
        if accepts t.iter lag h.stamp then return { grain := h, holder := none, fresh := true }
        else
          let best := younger t.iter (match part with | some c => younger t.iter h.stamp (c.stamp.getD 0) | none => h.stamp)
            (match l1 with | some c => c.stamp.getD 0 | none => h.stamp)
          if waits && t.wake != .timeout then
            park (.weir { slice := sliceOf g, slot := t.id, grain := g, least := t.iter - lag.setWidth 32 }
              { entry := x.entry, got := keep, served := none } found)
          else trap Cause.stale va best

/-- The thread has read a grain state: what binds its later aged loads (R215), those at addresses that depend on the value among them. -/
def Thread.reads (t : Thread) (c : Grain) : Thread :=
  { t.sees { grain := c.home, stamp := c.stamp, wrote := match t.seenOf c.home with | some x => x.wrote | none => 0 } with
    heard := if c.wrote = 0 then t.heard else assocSet c.writer (max c.wrote (assocD 0 c.writer t.heard)) t.heard
    got := if c.wrote = 0 then t.got else (c.writer, c.wrote) :: t.got }

/-- One grain of an aged load: `n` bytes from `ea`, their state, and the state if it came from the home, when it is installed (R248,
R492). -/
def agedRead (x : Xlat) (ea : Word) (n : Nat) (deps : List Dep) (lag : BitVec 5) (waits : Bool) (keep : Option (List Byte × Grain))
    (found : List Grain) : Exec (List Byte × Grain × List Grain) := do
  let size := x.entry.grain
  let pa := x.entry.physical ea.toNat
  let g := pa / size * size
  if (← get).testing pa n then stall else pure ()
  let c ← findGrain x g (BitVec.ofNat 64 (ea.toNat / size * size)) deps lag waits keep found
  let s ← get
  memErrIf ((sectorsOf pa n).any c.grain.bad.contains)
    (match c.holder with | some h => some (s.copyWay h (lineOf g)) | none => unitAt pa) ea
  modify fun s => if c.fresh then s.installGrain s.cpu.coreId s.cpu.iter c.grain else s
  modCpu fun t => t.reads c.grain
  return ((c.grain.data.drop (pa - g)).take n, c.grain, if c.fresh then [c.grain] else [])

/-- The page of an aged load: as its wait has translated it (R250), or checked and translated now. -/
def agedPage (ea : Word) (w : Nat) : Exec Xlat := do
  match (← getCpu).agedWait with
  | some k => return { entry := k.entry, va := ea.toNat, pa := k.entry.physical ea.toNat }
  | none => agedReach ea w true false

/-- An age as gc receives it (R260). -/
def ageWord (i : Int) : Word := BitVec.ofInt 64 i

/-- Uses of an aged load (R260). -/
def agedUses (us : List Use) (k : RegC) : List Use := if k == 0 then us else us ++ [.wr (wide k)]

/-- The scoreboard's view of an aged access (R309). -/
def agedPlace (x : Xlat) (ea : Word) (n : Nat) : Place := { va := ea, key := x.pa, n := n, src := .page x, off := none }

/-- The thread waits in no weir any more. -/
def leaveWeir : Exec Unit := modify fun s => { s with weir := s.weir.filter fun w => w.slot != s.cpu.id }

/-- LDAW and LDAT (R260). -/
def agedLoad (i : Instr) (c : Chain) (a b : Reg) (k : RegC) (off : Word) (lag : BitVec 5) (waits : Bool) (s : State) :
    Host.Outcome State Fault Refusal :=
  runChain c i (do
    gate i false .any
    checkUses (agedUses [.wr a, .rd b] k)
    let deps := (← getCpu).depsOf b.toNat
    let ea := (← readG b) + off
    let x ← agedPage ea 4
    scoreCheck [agedPlace x ea 4] false
    let (bs, c, _) ← agedRead x ea 4 deps lag waits none []
    writeG a (BitVec.ofNat 64 (leNat bs))
    writeC k (ageWord (ageOf (← getCpu).iter c.stamp))
    leaveWeir
    touchStreams ea
    done i) s

/-- LDAW (R260). -/
def execLdaw (c : Chain) (a b : Reg) (k : RegC) (off : Word) (lag : BitVec 5) (s : State) : Host.Outcome State Fault Refusal :=
  agedLoad (.ldaw c a b k off lag) c a b k off lag true s
/-- LDAT (R260). -/
def execLdat (c : Chain) (a b : Reg) (k : RegC) (off : Word) (lag : BitVec 5) (s : State) : Host.Outcome State Fault Refusal :=
  agedLoad (.ldat c a b k off lag) c a b k off lag false s

/-- The grains of a 64-byte access, as offsets and lengths (R261). -/
def vectorGrains (e : TlbEntry) : List (Nat × Nat) := if e.grain = 32 then [(0, 32), (32, 32)] else [(0, 64)]

/-- The bytes of the grains in ascending order and the greatest of their ages (R261): a first grain found before a wait is not
searched again, and counts as read all the same (R256). -/
def agedReads (x : Xlat) (ea : Word) (deps : List Dep) (lag : BitVec 5) : List (Nat × Nat) → Exec (List Byte × Int)
  | [(o, n), (p, m)] => do
    let t ← getCpu
    let (first, c, found) ← match t.agedWait.bind (·.got) with
      | some (bs, c) => do
        modCpu fun t => t.reads c
        pure (bs, c, [])
      | none => agedRead x (ea + BitVec.ofNat 64 o) n deps lag true none []
    let (second, c', _) ← agedRead x (ea + BitVec.ofNat 64 p) m deps lag true (some (first, c)) found
    return (first ++ second, max (ageOf t.iter c.stamp) (ageOf t.iter c'.stamp))
  | _ => do
    let (bs, c, _) ← agedRead x ea 64 deps lag true none []
    return (bs, ageOf (← getCpu).iter c.stamp)

/-- VLDA (R261). -/
def execVlda (c : Chain) (a : VReg) (b : Reg) (k : RegC) (off : Word) (lag : BitVec 5) (s : State) :
    Host.Outcome State Fault Refusal :=
  runChain c (.vlda c a b k off lag) (do
    gate (.vlda c a b k off lag) false .any
    checkOperands (agedUses [.rd b] k) [a]
    let deps := (← getCpu).depsOf b.toNat
    let ea := (← readG b) + off
    let x ← agedPage ea 64
    scoreCheck [agedPlace x ea 64] false
    let (bs, age) ← agedReads x ea deps lag (vectorGrains x.entry)
    writeV a (ofVecBytes bs)
    writeC k (ageWord age)
    leaveWeir
    touchStreams ea
    done (.vlda c a b k off lag)) s

/-- A stamped store of bytes to one grain (R254): the core drops its copy, and the home accepts or discards the store. No later
aged load of the thread returns a state older than the one the home has then (R206, R255). -/
def agedWrite (x : Xlat) (ea : Word) (bs : List Byte) : Exec Unit := do
  let size := x.entry.grain
  let pa := x.entry.physical ea.toNat
  let g := pa / size * size
  if (← get).testing pa bs.length then stall else pure ()
  hostCopy pa bs.length
  modify fun s =>
    let s := stampedAt { grain := g, size := size, base := x.entry.basestamp, stamp := s.cpu.iter, addr := pa, len := bs.length,
                         data := BitVec.ofNat 512 (leNat bs) } s.cpu.writer (s.dropGrain s.cpu.coreId g)
    { s with cpu := s.cpu.sees { grain := g, stamp := s.stampOf g x.entry.basestamp, wrote := (assocD (0, 0) g s.stampWrites).2 } }

/-- Stamped stores of the grains of a vector in ascending order (R262). -/
def agedWrites (x : Xlat) (ea : Word) (bs : List Byte) : List (Nat × Nat) → Exec Unit
  | [] => pure ()
  | (o, n) :: rest => do
    agedWrite x (ea + BitVec.ofNat 64 o) ((bs.drop o).take n)
    agedWrites x ea bs rest

/-- STA (R262). -/
def execSta (c : Chain) (a b : Reg) (off : Word) (s : State) : Host.Outcome State Fault Refusal :=
  runChain c (.sta c a b off) (do
    gate (.sta c a b off) false .any
    checkUses [.rd a, .rd b]
    let (v, base) ← readG2 a b
    let ea := base + off
    let x ← agedReach ea 4 false true
    scoreCheck [agedPlace x ea 4] true
    releaseMode MemMode.none
    agedWrite x ea (leBytes 4 v.toNat)
    touchStreams ea
    done (.sta c a b off)) s

/-- VSTA (R262). -/
def execVsta (c : Chain) (a : VReg) (b : Reg) (off : Word) (s : State) : Host.Outcome State Fault Refusal :=
  runChain c (.vsta c a b off) (do
    gate (.vsta c a b off) false .any
    checkOperands [.rd b] [a]
    let ea := (← readG b) + off
    let x ← agedReach ea 64 false true
    scoreCheck [agedPlace x ea 64] true
    releaseMode MemMode.none
    agedWrites x ea (vecBytes (← readV a)) (vectorGrains x.entry)
    touchStreams ea
    done (.vsta c a b off)) s

/-- ITADV (R263). -/
def execItadv (c : Chain) (n : BitVec 5) (s : State) : Host.Outcome State Fault Refusal :=
  runChain c (.itadv c n) (do
    gate (.itadv c n) false .any
    modCpu fun t => { t with iter := t.iter + n.setWidth 32 }
    done (.itadv c n)) s

/-! Events. -/

/-- STAMPED_STORE_HOME: a stamped store is accepted or discarded at its home (R254), once the host holds no copy of the
grain (R432). Its writer is none of the threads. -/
def execStampedStoreHome (r : StampedStore) (s : State) : Host.Outcome State Fault Refusal :=
  awaitHost (.stampedStoreHome r) s (.next (stampedAt r 0 s))

/-- The slot waits in an aged load whose bound of WEIRLIM cycles has passed since its issue (R251). -/
def State.weirOver (s : State) (t : Thread) : Bool :=
  t.state == .parked && (match t.held with | some (.ldaw _ _ _ _ _ _) | some (.vlda _ _ _ _ _ _) => true | _ => false) &&
    t.weirlim != 0 && decide (s.cycleOf t ≥ t.since + t.weirlim.toNat)

/-- WEIRLIM_EXPIRE: the bound of a parked aged load has passed, and its entry is withdrawn; when the load is tried again
it completes if the slice has served it, and traps STALE otherwise (R251). An event left over from an earlier wait ends
nothing. -/
def execWeirlimExpire (slot : Nat) (s : State) : Host.Outcome State Fault Refusal :=
  match s.thread? slot with
  | some t =>
    .next (if s.weirOver t then { s with weir := s.weir.filter fun w => w.slot != slot }.putThread { t with wake := .timeout } else s)
  | none => .next s

end Sys2Proof.Machine
end

