-- ==== Sys2Proof/Machine/Atomics.lean ====
section
/-!
DEFINITION. Read-modify-writes, reservations and rills (R270 to R293), and their events: RMW_AT_HOME, RUPD_APPLY,
LOSS_NOTICE, WAITR_TIMEOUT, RILL_ACCEPT, RILL_MIGRATE.
-/
namespace Sys2Proof.Machine

/-- The directory recalls a copy in state M, O or E of the bytes before the update unit reads them (R175): it stays as a shared
one. -/
def State.recallOwned (s : State) (a n : Nat) : State :=
  let down (m : Moesi) : Moesi := if m == .invalid then .invalid else .shared
  { s with
    tracked := s.tracked.map fun h => if overlaps a n h.grain h.size then { h with state := .shared } else h
    cores := s.cores.map fun (c : Core) => { c with windows := c.windows.map fun w =>
      { w with fills := w.fills.map fun f => if overlaps a n f.home f.size then { f with state := down f.state } else f } }
    dirs := s.dirs.map fun d => if overlaps a n d.grain d.size && d.owner.isSome then { d with state := .shared, owner := none } else d }

/-- The homes that perform an operation (R270): with `near`, home 0 only; with `host1`, home 1 too; with `host2`, home 2
too; `peer`: home 3. -/
structure Homes where
  host1 : Bool
  host2 : Bool
  peer : Bool
deriving DecidableEq, Repr

/-- LR and SC (R270). -/
def Homes.resv : Homes := ⟨false, false, false⟩
/-- AADD, ASWP, CAS, CASX. -/
def Homes.swap : Homes := ⟨true, true, true⟩
/-- AAND, AOR, AXOR, AMIN, AMAX. -/
def Homes.logic : Homes := ⟨true, false, true⟩
/-- RUPD. -/
def Homes.update : Homes := ⟨false, false, true⟩

/-- The home performs the operation. -/
def Homes.has (h : Homes) (home : Nat) : Bool :=
  if home = 0 then true else if home = 1 then h.host1 else if home = 2 then h.host2 else h.peer

/-- The checks of a read-modify-write of width `w` (R160, R272, R273, R287, R434). A rill migrates to the home
(R282). -/
def rmwReach (ea : Word) (w : Nat) (h : Homes) : Exec Xlat := do
  checkAlign ea w
  let x ← reach ea true true
  if x.entry.kind != 0 then trapRegion ea x.entry else pure ()
  let s ← get
  let enabled := x.home != 2 || (s.port (s.portFor x.pa)).atomics
  trapIf (!h.has x.home || !enabled) Cause.atomunsup ea
  migrateFor x
  return x

/-- The place of a read-modify-write for the scoreboard, where it counts as a store (R309). -/
def rmwPlace (x : Xlat) (ea : Word) (w : Nat) : Place := { va := ea, key := x.key, n := w, src := .page x, off := none }

/-- Perform a read-modify-write at its home (R270, R271): what it read and whether it wrote. -/
def performRmw (op : RmwOp) (x : Xlat) (ea : Word) (v e : BitVec 128) : Exec (BitVec 128 × Bool) := do
  let w := rmwWidth op
  scoreCheck [rmwPlace x ea w] true
  remoteReady x ea w true true
  if x.home == 0 && op != .lr then hostCopy x.key w else pure ()
  let s ← get
  if s.testing x.key w || s.owedAt x.key w then stall else pure ()
  if x.home == 0 then requestGrain x.grain x.entry.grain true else pure ()
  memErrIf (s.badAt x.key w) (s.badUnit x.key w) ea
  modify fun s =>
    let s := if (s.port (s.portFor x.pa)).up && x.home == 2 then s.drainPosts (s.portFor x.pa) else s
    if x.home ≤ 1 then s.recallOwned x.key w else s
  let s ← get
  let (old, ok, s') := rmwAt { op := op, holder := s.cpu.id, addr := x.key, x := v, e := e } s
  set (s'.syncCopies s.cpu.die x.key w)
  return (old, ok)

/-- The fetch-and-op family (R288). -/
def fetchOp (i : Instr) (c : Chain) (a b : Reg) (k : RegC) (off : Word) (mm : MemMode) (op : RmwOp) (h : Homes) (s : State) :
    Host.Outcome State Fault Refusal :=
  runChain c i (do
    gate i true .any
    checkUses (agedUses [.rd a, .rd b] k)
    let (v, base) ← readG2 a b
    let ea := base + off
    let x ← rmwReach ea 8 h
    releaseMode mm x.hostVa
    let (old, _) ← performRmw op x ea (v.setWidth 128) 0
    writeC k (old.setWidth 64)
    acquireMode mm
    touchStreams ea
    done i) s

/-- AADD (R288). -/
def execAadd (c : Chain) (a b : Reg) (k : RegC) (off : Word) (mm : MemMode) (s : State) : Host.Outcome State Fault Refusal :=
  fetchOp (.aadd c a b k off mm) c a b k off mm .add Homes.swap s
/-- AAND (R288). -/
def execAand (c : Chain) (a b : Reg) (k : RegC) (off : Word) (mm : MemMode) (s : State) : Host.Outcome State Fault Refusal :=
  fetchOp (.aand c a b k off mm) c a b k off mm .and Homes.logic s
/-- AOR (R288). -/
def execAor (c : Chain) (a b : Reg) (k : RegC) (off : Word) (mm : MemMode) (s : State) : Host.Outcome State Fault Refusal :=
  fetchOp (.aor c a b k off mm) c a b k off mm .or Homes.logic s
/-- AXOR (R288). -/
def execAxor (c : Chain) (a b : Reg) (k : RegC) (off : Word) (mm : MemMode) (s : State) : Host.Outcome State Fault Refusal :=
  fetchOp (.axor c a b k off mm) c a b k off mm .xor Homes.logic s
/-- AMIN (R288). -/
def execAmin (c : Chain) (a b : Reg) (k : RegC) (off : Word) (mm : MemMode) (s : State) : Host.Outcome State Fault Refusal :=
  fetchOp (.amin c a b k off mm) c a b k off mm .min Homes.logic s
/-- AMAX (R288). -/
def execAmax (c : Chain) (a b : Reg) (k : RegC) (off : Word) (mm : MemMode) (s : State) : Host.Outcome State Fault Refusal :=
  fetchOp (.amax c a b k off mm) c a b k off mm .max Homes.logic s
/-- ASWP (R288). -/
def execAswp (c : Chain) (a b : Reg) (k : RegC) (off : Word) (mm : MemMode) (s : State) : Host.Outcome State Fault Refusal :=
  fetchOp (.aswp c a b k off mm) c a b k off mm .swp Homes.swap s

/-- CAS (R289). -/
def execCas (c : Chain) (a b : Reg) (k : RegC) (off : Word) (mm : MemMode) (s : State) : Host.Outcome State Fault Refusal :=
  runChain c (.cas c a b k off mm) (do
    gate (.cas c a b k off mm) true .any
    checkUses [.rd a, .rd b, .rw (wide k)]
    let (v, base) ← readG2 a b
    let e ← readG (wide k)
    let ea := base + off
    let x ← rmwReach ea 8 Homes.swap
    releaseMode mm x.hostVa
    let (old, _) ← performRmw .cas x ea (v.setWidth 128) (e.setWidth 128)
    writeC k (old.setWidth 64)
    acquireMode mm
    touchStreams ea
    done (.cas c a b k off mm)) s

/-- Registers `r` and `r + 1` as a pair, the first at the lower address (R289). -/
def Thread.pair (t : Thread) (r : Nat) : BitVec 128 := t.reg (r + 1) ++ t.reg r

/-- CASX (R289). -/
def execCasx (c : Chain) (a b : Reg) (k : RegC) (off : Word) (mm : MemMode) (s : State) : Host.Outcome State Fault Refusal :=
  runChain c (.casx c a b k off mm) (do
    gate (.casx c a b k off mm) true .any
    checkUses [.run a.toNat, .run (a.toNat + 1), .rd b, .run k.toNat, .run (k.toNat + 1)]
    let base ← readG b
    checkRegs [a.toNat, a.toNat + 1, k.toNat, k.toNat + 1]
    let t ← getCpu
    let ea := base + off
    let x ← rmwReach ea 16 Homes.swap
    releaseMode mm x.hostVa
    let (old, _) ← performRmw .casx x ea (t.pair a.toNat) (t.pair k.toNat)
    modCpu fun t => (t.setReg k.toNat (old.extractLsb' 0 64)).setReg (k.toNat + 1) (old.extractLsb' 64 64)
    acquireMode mm
    touchStreams ea
    done (.casx c a b k off mm)) s

/-- LR: the core holds the reservation from now on (R277, R290). -/
def execLr (c : Chain) (a b : Reg) (off : Word) (mm : MemMode) (s : State) : Host.Outcome State Fault Refusal :=
  runChain c (.lr c a b off mm) (do
    gate (.lr c a b off mm) true .any
    checkUses [.wr a, .rd b]
    let ea := (← readG b) + off
    let x ← rmwReach ea 8 Homes.resv
    volatileWait mm x.hostVa
    let rid := (← get).nextRid
    let (old, _) ← performRmw .lr x ea 0 0
    modCpu fun t => { t with resv := some (rid, granule x.key) }
    writeG a (old.setWidth 64)
    acquireMode mm
    touchStreams ea
    done (.lr c a b off mm)) s

/-- SC: status 0 when it stored, 1 when not (R290). -/
def execSc (c : Chain) (a b : Reg) (k : RegC) (off : Word) (mm : MemMode) (s : State) : Host.Outcome State Fault Refusal :=
  runChain c (.sc c a b k off mm) (do
    gate (.sc c a b k off mm) true .any
    checkUses (agedUses [.rd a, .rd b] k)
    let (v, base) ← readG2 a b
    let ea := base + off
    let x ← rmwReach ea 8 Homes.resv
    releaseMode mm x.hostVa
    let (_, ok) ← performRmw .sc x ea (v.setWidth 128) 0
    writeC k (if ok then 0 else 1)
    touchStreams ea
    done (.sc c a b k off mm)) s

/-! RUPD (R274, R291). -/

/-- Where function 1 sets OVF on saturation: the entry that governs the cell's page, for a cell on the device (R154,
R274). -/
def updateOvf (x : Xlat) : Exec (Option Nat) := do
  if x.home != 0 then return none else return some (← ovfAt x.entry.regionIdx)

/-- Hand a function 1 to 7 to the home of the cell (R291); it counts as a message sent (R420). A peer that refuses it drops it and is
reported, and the message counts as received there all the same (notes/assumptions/5.md); while the peer's answers do not arrive, it is
applied there when it is acknowledged (R438). `vol`: it is volatile (R213). -/
def updateAt (vol : Bool) (fn : BitVec 3) (x : Xlat) (ea : Word) (v : Word) : Exec Unit := do
  let ovf ← updateOvf x
  let s ← get
  let r : RupdReq := { fn := fn, addr := x.key, x := v, q := 0, ovf := ovf, launch := s.cpu.launch, slot := s.cpu.id }
  if x.home == 3 && !s.peerGrants s.cpu.ctx x.entry.peer x.pa (rupdWidth fn) true true then
    modify fun s => (((s.sends r.launch s.cpu.agent).receives r.launch (updateUnit r.addr)).post
      (.peerStoreRefused s.cpu.id ea (BitVec.ofNat 12 x.entry.peer)))
  else if x.home == 0 then sendUpdate r
  else modify fun s =>
    let s := s.sends r.launch s.cpu.agent
    if (s.peer (BitVec.ofNat 12 x.entry.peer)).answers && !s.owedAt x.key (rupdWidth fn) then rupdAt r s
    else s.owe x ea vol (.update r)

/-- RUPD with functions 1 to 7. -/
def rupd (i : Instr) (c : Chain) (a b : Reg) (off : Word) (mm : MemMode) (fn : BitVec 3) (s : State) :
    Host.Outcome State Fault Refusal :=
  runChain c i (do
    gate i true .any
    checkUses [.rd a, .rd b]
    let (v, base) ← readG2 a b
    let ea := base + off
    let x ← rmwReach ea (rupdWidth fn) Homes.update
    scoreCheck [rmwPlace x ea (rupdWidth fn)] true
    releaseMode mm
    updateAt (mm.cls == .volatile) fn x ea v
    touchStreams ea
    done i) s

/-- RUPD function 0: the element is checked, then its shadow cell is translated at issue (R160, R291). -/
def execRupdAdjoint (c : Chain) (a b : Reg) (off : Word) (mm : MemMode) (s : State) : Host.Outcome State Fault Refusal :=
  runChain c (.rupdAdjoint c a b off mm) (do
    gate (.rupdAdjoint c a b off mm) true .any
    checkUses [.rd a, .rd b]
    let (v, base) ← readG2 a b
    let ea := base + off
    let x ← reach ea true true
    if x.entry.kind != 2 || decide (x.entry.cls > 1) || x.home != 0 then trapRegion ea x.entry else pure ()
    checkAlign ea x.entry.elemWidth
    elemCheck x.entry ea
    let cell ← cellAt x.entry ea false true
    migrateFor cell
    scoreCheck [cellPlace cell 8] true
    releaseMode mm
    accumulate x.entry cell.pa (v.setWidth 32)
    touchPlaces [cellPlace cell 8]
    done (.rupdAdjoint c a b off mm)) s

/-- RUPD function 1: Q64 add (R274). -/
def execRupdQ64Add (c : Chain) (a b : Reg) (off : Word) (mm : MemMode) (s : State) : Host.Outcome State Fault Refusal :=
  rupd (.rupdQ64Add c a b off mm) c a b off mm 1 s
/-- RUPD function 2: FP32 add (R274). -/
def execRupdFp32Add (c : Chain) (a b : Reg) (off : Word) (mm : MemMode) (s : State) : Host.Outcome State Fault Refusal :=
  rupd (.rupdFp32Add c a b off mm) c a b off mm 2 s
/-- RUPD function 3: integer add (R274). -/
def execRupdIntAdd (c : Chain) (a b : Reg) (off : Word) (mm : MemMode) (s : State) : Host.Outcome State Fault Refusal :=
  rupd (.rupdIntAdd c a b off mm) c a b off mm 3 s
/-- RUPD function 4: signed minimum (R274). -/
def execRupdMin (c : Chain) (a b : Reg) (off : Word) (mm : MemMode) (s : State) : Host.Outcome State Fault Refusal :=
  rupd (.rupdMin c a b off mm) c a b off mm 4 s
/-- RUPD function 5: signed maximum (R274). -/
def execRupdMax (c : Chain) (a b : Reg) (off : Word) (mm : MemMode) (s : State) : Host.Outcome State Fault Refusal :=
  rupd (.rupdMax c a b off mm) c a b off mm 5 s
/-- RUPD function 6: or (R274). -/
def execRupdOr (c : Chain) (a b : Reg) (off : Word) (mm : MemMode) (s : State) : Host.Outcome State Fault Refusal :=
  rupd (.rupdOr c a b off mm) c a b off mm 6 s
/-- RUPD function 7: and (R274). -/
def execRupdAnd (c : Chain) (a b : Reg) (off : Word) (mm : MemMode) (s : State) : Host.Outcome State Fault Refusal :=
  rupd (.rupdAnd c a b off mm) c a b off mm 7 s

/-! WAITR (R277, R293). -/

/-- WAITR: 1 when its timeout has passed while it waited, else 0 once no reservation is held or a spurious cause came. -/
def execWaitr (c : Chain) (a : Reg) (s : State) : Host.Outcome State Fault Refusal :=
  runChain c (.waitr c a) (do
    gate (.waitr c a) false .any
    checkUses [.rw a]
    checkRegs [a.toNat]
    let t ← getCpu
    if t.resv.isNone || t.wake == .spurious then do
      writeG a 0
      done (.waitr c a)
    else if t.wake == .timeout then do
      writeG a 1
      done (.waitr c a)
    else park) s

/-- The slot waits in a WAITR. -/
def Thread.inWaitr (t : Thread) : Bool :=
  t.state == .parked && match t.held with | some (.waitr _ _) => true | _ => false

/-- A spurious cause reaches the threads of the core that satisfies `p`: a WAITR whose granule overlaps bytes
`a` to `a + n - 1` wakes, and its reservation stays (R277). -/
def State.spuriousWake (s : State) (p : Thread → Bool) (a n : Nat) : State :=
  s.mapThreads (fun t => p t && t.inWaitr && match t.resv with | some (_, g) => overlaps g 64 a n | none => false)
    (fun t => { t with wake := .spurious })

/-! SPAWN (R292). -/

/-- The thread a rill seed becomes in slot `id` (R280, R292). -/
def rillOf (r : RillSeed) (id : Nat) : Thread :=
  { Thread.free id with
    state := .ready, sup := r.sup, ctx := r.ctx, tenant := r.tenant, task := r.task, graphno := r.graphno, rank := r.rank,
    launch := r.launch, nregs := 24, pc := r.pc, homeCoh := true,
    g := ((Thread.free id).g.set 1 r.g1).set 2 r.g2 }

/-- The slice core of `r` accepts it in its free slot of lowest number, if it has one (R281, R292). -/
def State.acceptRill (s : State) (r : RillSeed) : Option State :=
  match s.freeRillSlot (64 * r.die + r.slice) with
  | some id =>
    some ((s.receives r.launch (4096 + 64 * r.die + r.slice)).putThread (rillOf r id))
  | none => none

/-- SPAWN stalls until the spawner's earlier accesses are performed at device scope and a slot of the slice core of its die and cluster
number accepts the rill (R292). -/
def execSpawn (c : Chain) (a b : Reg) (k : RegC) (s : State) : Host.Outcome State Fault Refusal :=
  runChain c (.spawn c a b k) (do
    gate (.spawn c a b k) false .any
    checkUses (if k == 0 then [.rd a, .rd b] else [.rd a, .rd b, .rd (wide k)])
    let (pc, x) ← readG2 a b
    let y ← readG (wide k)
    checkTarget pc
    engineRelease .device
    let s ← get
    let t := s.cpu
    let r : RillSeed := { die := t.die, slice := t.cluster, spawner := t.id, pc := pc, g1 := x, g2 := y,
                          sup := t.sup, ctx := t.ctx, tenant := t.tenant, task := t.taskId, graphno := t.graphno, rank := t.rank,
                          launch := t.launch }
    let w := Want.rill (64 * t.die + t.cluster)
    match if s.mayServe t.id w then ((s.served' t.id w).sends t.launch t.agent).acceptRill r else none with
    | some s' => do
      set s'
      done (.spawn c a b k)
    | none => stall (.refused w)) s

/-! Events. -/

/-- RMW_AT_HOME (R271): the directory recalls an owned copy first (R175); one that writes a grain that the host holds waits for the
host's answer (R432), and one that meets an uncorrectable error changes nothing (R287). -/
def execRmwAtHome (r : RmwReq) (s : State) : Host.Outcome State Fault Refusal :=
  let w := rmwWidth r.op
  if s.badAt r.addr w then .next (s.selfTest (s.badUnit r.addr w))
  else awaitHost (.rmwAtHome r) s (.next ((rmwAt r (s.recallOwned r.addr w)).2.2.syncFor r.holder r.addr w))

/-- RUPD_APPLY (R274): an update of a grain that the host holds waits for the host's answer (R432). -/
def execRupdApply (r : RupdReq) (s : State) : Host.Outcome State Fault Refusal :=
  awaitHost (.rupdApply r) s (.next ((rupdAt r s).syncUpdate r.slot r))

/-- The holder's core learns that reservation `rid` is lost (R276). A notice for an older reservation ends nothing. -/
def State.loseResv (s : State) (holder rid : Nat) : State :=
  s.mapThreads (fun t => t.id == holder && (match t.resv with | some (r, _) => r == rid | none => false)) (fun t => { t with resv := none })

/-- A loss notice for a thread of agent `k` (SLOTID div 64). -/
def noticeFor (k : Nat) (e : Instr) : Bool := match e with | .lossNotice h _ => h / 64 == k | _ => false

/-- LOSS_NOTICE: the holder's core learns of the loss; a WAITR on the reservation completes when it is tried again (R276, R277).
Every notice that is on its way to the core arrives in the same cycle, so that the waiters of one event go on in the order of
the rotation (R278). -/
def execLossNotice (holder rid : Nat) (s : State) : Host.Outcome State Fault Refusal :=
  let others := s.events.filter (noticeFor (holder / 64))
  let s := { s with events := s.events.filter fun e => !noticeFor (holder / 64) e }
  .next (others.foldl (fun s e => match e with | .lossNotice h r => s.loseResv h r | _ => s) (s.loseResv holder rid))

/-- The timeout of the WAITR that the thread is in, if any, has passed (R277, R293). -/
def State.waitrOver (s : State) (t : Thread) : Bool :=
  match t.held with
  | some (.waitr _ a) => t.reg a.toNat != 0 && decide (s.cycleOf t ≥ t.since + (t.reg a.toNat).toNat)
  | _ => false

/-- WAITR_TIMEOUT: the timeout of a parked WAITR passes (R277). An event left over from an earlier wait ends nothing. -/
def execWaitrTimeout (slot : Nat) (s : State) : Host.Outcome State Fault Refusal :=
  .next (s.mapThreads (fun t => t.id == slot && t.inWaitr && s.waitrOver t)
    (fun t => { t with wake := if t.wake == .none then .timeout else t.wake }))

/-- RILL_ACCEPT: a slot of the slice core accepts a rill that no SPAWN waits for; a full slice core, or another request's earlier
ticket, refuses it, and it is sent again (R176, R177, R281, R292). -/
def execRillAccept (r : RillSeed) (s : State) : Host.Outcome State Fault Refusal :=
  let slot := 2 ^ 20 + 4096 + r.spawner
  let w := Want.rill (64 * r.die + r.slice)
  match if s.mayServe slot w then (s.served' slot w).acceptRill r else none with
  | some s' => .next s'
  | none => .next ((s.refuse slot w).post (.rillAccept r))

/-- RILL_MIGRATE: the rill's context arrives in a free slot of a slice core of its die; a full one leaves it where it is
(R282). -/
def execRillMigrate (slot slice : Nat) (s : State) : Host.Outcome State Fault Refusal :=
  match s.thread? slot, s.freeRillSlot slice with
  | some t, some id =>
    if t.isRill && t.clusterId != slice then
      let back := s.cpu.id
      let s := (s.focus slot).migrate id
      .next (s.focus (if back = slot then id else back))
    else .next s
  | _, _ => .next s

end Sys2Proof.Machine
end

