-- ==== Sys2Proof/Machine/Cistern.lean ====
section
/-!
DEFINITION. Cistern windows and prefetch: SMAP, SUNMAP, SFLUSH, PFS, PFX (R182 to R195).
-/
namespace Sys2Proof.Machine

/-! Lines in use, under test and retired (R478, R479). -/

/-- The ring of the handle shares a line with lines `f` to `f + n - 1` (R312). -/
def Handle.meets (h : Handle) (f n : Nat) : Bool := h.count != 0 && overlaps h.base (h.size * h.count) (512 * f) (512 * n)

/-- A cistern range of the request shares a line with lines `f` to `f + n - 1` (R301). -/
def MailReq.inCistern (r : MailReq) (f n : Nat) : Bool :=
  (!r.srcVa && overlaps r.src.toNat r.len.toNat (512 * f) (512 * n)) || (!r.dstVa && overlaps r.dst.toNat r.len.toNat (512 * f) (512 * n))

/-- User threads on core `k`. -/
def State.usersOf (s : State) (k : Nat) : List Thread := s.threads.filter fun t => !t.isRill && !t.isSluice && t.coreId == k
/-- The unit is in use. -/
def State.unitInUse (s : State) (u : TestUnit) : Bool :=
  match u with
  | .row k j => (s.usersOf k).any fun t => decide (t.rbase ≤ j) && decide (j < t.rbase + t.nregs / 8)
  | .vec k j => (s.usersOf k).any fun t => decide (t.vbase ≤ j) && decide (j < t.vbase + t.nvregs)
  | .line k j =>
    (s.core k).windows.any (fun w => decide (w.f ≤ j) && decide (j < w.f + w.n)) ||
      ((s.core k).handles.toList.any fun h => h.meets j 1) || (s.core k).score.any fun e => e.req.inCistern j 1
  | .core k => !(s.usersOf k).isEmpty
  | .matrix c => (upTo 8).any fun j => (s.core (8 * c + j)).fmt.holder.isSome
  | _ => false

/-- The list with the units that it does not hold yet. -/
def addUnits (l : List TestUnit) : List TestUnit → List TestUnit
  | [] => l
  | u :: us => addUnits (if l.contains u then l else l ++ [u]) us

/-- Failing units that nobody uses any more are retired (R479). -/
def State.retireIdle (s : State) : State :=
  { s with retired := addUnits s.retired (s.failing.filter fun u => !s.unitInUse u), failing := s.failing.filter s.unitInUse }

/-- A line of `f` to `f + n - 1` of core `k` has failed its self-test (R192, R324, R478). -/
def State.linesFailed (s : State) (k f n : Nat) : Bool := (upTo n).any fun j => (s.retired ++ s.failing).contains (.line k (f + j))

/-- One of them runs a self-test and refuses work (R478). -/
def State.linesTested (s : State) (k f n : Nat) : Bool :=
  s.events.any fun e => match e with | .selfTestVerdict (.line c l) _ => c == k && decide (f ≤ l) && decide (l < f + n) | _ => false

/-- The current thread waits for a gather or scatter that has checked a handle of core `k` whose ring lies on lines `f` to `f + n - 1`
(R138). -/
def checkLinePins (k f n : Nat) : Exec Unit := do
  let s ← get
  let hs := (upTo 8).filter fun j => ((s.core k).handles.toList.getD j Handle.none).meets f n
  if s.threads.any fun t => t.id != s.cpu.id && t.waiting && hs.any fun j => t.pins.contains (k, 8 + j) then stall else pure ()

/-- Window `num` of core `k`, if it is mapped. -/
def State.window? (s : State) (k num : Nat) : Option Window := first? (fun w => w.num == num) (s.core k).windows

/-- The home addresses of the lines of a window, translated as its owner's accesses are; a filled grain of it as well. -/
def State.windowHomes (s : State) (w : Window) : List (Nat × Nat) :=
  let wk := s.walkerOf w.owner
  (upTo w.n).filterMap (fun j =>
    match lookup s wk (w.va + 512 * j) with
    | .leaf e => if e.home = 0 then some (e.physical (w.va + 512 * j), 512) else none
    | _ => none) ++
  w.fills.map fun f => (f.home, f.size)

/-- Wake the WAITRs of core `k` whose granule one of the ranges covers (R277). -/
def State.wakeRanges (s : State) (k : Nat) : List (Nat × Nat) → State
  | [] => s
  | (a, n) :: rs => (s.spuriousWake (fun t => t.coreId == k && !t.isRill) a n).wakeRanges k rs

/-- Release window `num` of core `k` (R186): its dirty grains are at home already, so its mapping goes, the directory takes the
cistern out of its entries, and WAITRs on granules it covered wake (R193, R277). DESIGN CHOICE: the lines are private again with the bytes
that they held before the mapping; R186 gives no contents (notes/assumptions/66.md). -/
def State.releaseWindow (s : State) (k num : Nat) : State :=
  match s.window? k num with
  | none => s
  | some w =>
    let homes := s.windowHomes w
    let s := s.putCore { s.core k with windows := (s.core k).windows.filter fun x => x.num != num }
    (w.fills.foldl (fun (s : State) f => s.unshare k f.home) s).wakeRanges k homes

/-- A grain that has been written back: M becomes E, and O becomes S (R193). -/
def Moesi.clean : Moesi → Moesi
  | .modified => .exclusive
  | .owned => .shared
  | m => m

/-- SFLUSH writes back: the directory's states become clean with the window's (R193). -/
def State.flushWindow (s : State) (k num : Nat) : State :=
  let homes := match s.window? k num with | some w => (w.fills.filter fun (f : WinFill) => f.state.clean != f.state).map fun (f : WinFill) => f.home | none => []
  let s := s.modWindow k num fun x => { x with fills := x.fills.map fun f => { f with state := f.state.clean } }
  { s with dirs := s.dirs.map fun d =>
      if homes.contains d.grain && d.owner == some k then
        { d with state := d.state.clean, owner := if d.state == .owned then none else d.owner }
      else d }

/-- Two ranges of lines share one. -/
def linesMeet (f n g m : Nat) : Bool := overlaps f n g m

/-- As `checkLinePins`, for the lines of window `num` of core `k`. -/
def checkWindowPins (k num : Nat) : Exec Unit := do
  match (← get).window? k num with
  | some x => checkLinePins k x.f x.n
  | none => pure ()

/-- SMAP (R192). -/
def execSmap (c : Chain) (a b : Reg) (w : BitVec 3) (s : State) : Host.Outcome State Fault Refusal :=
  runChain c (.smap c a b w) (do
    gate (.smap c a b w) false .any
    checkUses [.rd a, .rd b]
    let (va, geo) ← readG2 a b
    let f := field geo 0 8
    let n := field geo 8 9
    let s ← get
    let t := s.cpu
    let k := t.coreId
    trapIf (va.toNat % 512 != 0) Cause.align va
    trapIf (decide (va.toNat + 512 * n > Config.vaEnd)) Cause.prot va
    trapIf (n == 0 || decide (f + n > 256)) Cause.prot geo
    trapIf (match s.window? k w.toNat with | some x => x.owner != t.id | none => false) Cause.prot (w.setWidth 64)
    let others := (s.core k).windows.filter fun x => x.num != w.toNat
    trapIf (others.any (fun x => linesMeet f n x.f x.n || overlaps va.toNat (512 * n) x.va (512 * x.n)) || s.linesFailed k f n)
      Cause.prot geo
    if s.linesTested k f n then stall else pure ()
    checkPins k w.toNat
    checkLinePins k f n
    checkWindowPins k w.toNat
    modify fun s =>
      let s := (s.releaseWindow k w.toNat).retireIdle
      s.putCore { s.core k with windows := (s.core k).windows ++ [{ num := w.toNat, owner := t.id, va := va.toNat, f := f, n := n, fills := [] }] }
    done (.smap c a b w)) s

/-- PROT when another thread holds the window (R193). -/
def checkHolder (w : BitVec 3) : Exec Unit := do
  let s ← get
  trapIf (match s.window? s.cpu.coreId w.toNat with | some x => x.owner != s.cpu.id | none => false) Cause.prot (w.setWidth 64)

/-- SUNMAP (R193). -/
def execSunmap (c : Chain) (w : BitVec 3) (s : State) : Host.Outcome State Fault Refusal :=
  runChain c (.sunmap c w) (do
    gate (.sunmap c w) false .any
    checkHolder w
    checkPins (← getCpu).coreId w.toNat
    checkWindowPins (← getCpu).coreId w.toNat
    modify fun s => (s.releaseWindow s.cpu.coreId w.toNat).retireIdle
    done (.sunmap c w)) s

/-- SFLUSH: the grains stay valid and become clean (R193). -/
def execSflush (c : Chain) (w : BitVec 3) (s : State) : Host.Outcome State Fault Refusal :=
  runChain c (.sflush c w) (do
    gate (.sflush c w) false .any
    checkHolder w
    modify fun s => s.flushWindow s.cpu.coreId w.toNat
    done (.sflush c w)) s

/-- PFS (R189, R194). -/
def execPfs (c : Chain) (a : Reg) (stream : BitVec 4) (cis : Bool) (s : State) : Host.Outcome State Fault Refusal :=
  runChain c (.pfs c a stream cis) (do
    gate (.pfs c a stream cis) false .any
    let r := a.toNat
    checkUses [.run r, .run (r + 1), .run (r + 2), .run (r + 3)]
    checkRegs [r, r + 1, r + 2, r + 3]
    let t ← getCpu
    let count := (t.reg (r + 2)).toNat % 2 ^ 32
    let lead := min (max (t.reg (r + 3)).toNat 1) 64
    let st : Stream := { num := stream.toNat, ctx := t.ctx, sup := t.sup, owner := t.id, base := t.reg r, stride := t.reg (r + 1),
                         count := count, lead := lead, head := 0, cistern := cis }
    modCore fun k => { k with streams := k.streams.filter (fun x => x.num != stream.toNat) ++ if count = 0 then [] else [st] }
    if count = 0 then pure () else streamFetch st
    done (.pfs c a stream cis)) s

/-- PFX: no condition of the address traps (R195; notes/assumptions/53.md). -/
def execPfx (c : Chain) (b : Reg) (off : Word) (cis : Bool) (s : State) : Host.Outcome State Fault Refusal :=
  runChain c (.pfx c b off cis) (do
    gate (.pfx c b off cis) false .any
    checkUses [.rd b]
    let ea := (← readG b) + off
    attempt (prefetchLine (← getCpu).walker ea cis)
    done (.pfx c b off cis)) s

end Sys2Proof.Machine
end

