-- ==== Sys2Proof/Machine/Copies.lean ====
section
/-!
DEFINITION. Copy requests, batches, the sluice slot's instructions and the circular buffers (R299 to R326), and the event
COPY_COMPLETE.
-/
namespace Sys2Proof.Machine

/-! Requests (R301). -/

namespace MailReq
def ssp (r : MailReq) : Nat := field r.flags 0 2
def dsp (r : MailReq) : Nat := field r.flags 2 2
def ph (r : MailReq) : Nat := field r.flags 4 4
def postAct (r : MailReq) : Nat := field r.flags 8 2
/-- BATCH, ROW and SBE of the tag, and SUP (R302). -/
def batchTag (r : MailReq) : Nat := field r.tag 12 7
def rowTag (r : MailReq) : Nat := field r.tag 5 7
def sbe (r : MailReq) : Nat := field r.tag 0 5
def sup (r : MailReq) : Bool := r.tag.getLsbD 19
/-- FLAGS break R301 on their own. -/
def badFlags (r : MailReq) : Bool :=
  decide (r.flags.toNat ≥ 2 ^ 11) || decide (r.ssp > 1) || decide (r.dsp > 1) ||
    (decide (r.postAct ≥ 2) && r.dsp != 1) || (r.postAct == 1 && decide (r.ph > 7))
end MailReq

/-- A range of a request breaks R301 (R489). -/
def badRange (s : State) (k : Nat) (space : Nat) (base len : Word) : Bool :=
  let b := base.toNat
  let n := len.toNat
  if space == 1 then
    decide (b + n > Config.cisternBytes) ||
      (s.core k).windows.any (fun w => overlaps b n (512 * w.f) (512 * w.n)) ||
      s.retired.any fun u => match u with | .line c l => c == k && overlaps b n (512 * l) 512 | _ => false
  else
    decide (b + n > Config.vaEnd) ||
      overlaps b n Config.sluiceCode (Config.sluiceCodeEnd - Config.sluiceCode) ||
      overlaps b n Config.handleAperture (Config.handleApertureEnd - Config.handleAperture) ||
      overlaps b n Config.cisternAperture (Config.cisternApertureEnd - Config.cisternAperture)

/-- The least number below `n` that is not in the list. DESIGN CHOICE: of several free batch rows, or scoreboard entries, CPREQ takes the
one of lowest number (notes/assumptions/58.md). -/
def freeIndex (n : Nat) (used : List Nat) : Option Nat := first? (fun j => !used.contains j) (upTo n)

/-- The thread's batch row on its core, or a free one (R305). -/
def State.rowFor (s : State) (t : Thread) : Option Nat :=
  match t.row with
  | some r => some r
  | none => freeIndex 128 (s.myCore.rows.map (·.num))

/-- CPREQ (R317). -/
def execCpreq (c : Chain) (a : Reg) (s : State) : Host.Outcome State Fault Refusal :=
  runChain c (.cpreq c a) (do
    gate (.cpreq c a) false .notSluice
    let r := a.toNat
    checkUses [.run r, .run (r + 1), .run (r + 2), .run (r + 3)]
    checkRegs [r, r + 1, r + 2, r + 3]
    let s ← get
    let t := s.cpu
    let q : MailReq := { src := t.reg r, dst := t.reg (r + 1), len := t.reg (r + 2), flags := t.reg (r + 3), tag := 0 }
    trapIf (q.src.toNat % 32 != 0) Cause.align q.src
    trapIf (q.dst.toNat % 32 != 0) Cause.align q.dst
    trapIf (q.len.toNat % 32 != 0) Cause.align q.len
    trapIf (q.len == 0 || decide (q.len.toNat > 2 ^ 30)) Cause.prot q.len
    trapIf q.badFlags Cause.prot q.flags
    trapIf (badRange s t.coreId q.ssp q.src q.len) Cause.prot q.src
    trapIf (badRange s t.coreId q.dsp q.dst q.len) Cause.prot q.dst
    trapIf (q.stop && !t.sup) Cause.priv ((Instr.cpreq c a).baseWord.setWidth 64)
    engineRelease .core
    match s.rowFor t, freeIndex 32 (s.myCore.score.map (·.idx)) with
    | some row, some sbe =>
      if decide (s.myCore.mailbox.length ≥ 16) || decide (batchOpen t.batch.opened ≥ 31) then stall
      else do
        let tag := BitVec.ofNat 64 ((if t.sup then 2 ^ 19 else 0) + t.batch.sealedNo.toNat % 128 * 2 ^ 12 + row * 2 ^ 5 + sbe)
        let q := { q with tag := tag }
        modCore fun k => { k with
          mailbox := k.mailbox ++ [q]
          score := k.score ++ [{ idx := sbe, ctx := t.ctx, req := q, owner := t.id, task := t.taskId, rank := t.rank,
                                 savearea := t.savearea, launch := t.launch, taken := false, entries := [] }]
          rows := if t.row.isSome then k.rows else k.rows ++ [{ num := row, owner := some t.id, batch := Batch.empty, save := none, entry := none }] }
        modCpu fun t => { t with row := some row, batch := { t.batch with opened := t.batch.opened + 1 } }
        modify fun s => s.sends t.launch t.agent
        done (.cpreq c a)
    | _, _ => stall) s

/-! Batches (R306, R307, R318, R319). -/

/-- The unreported failure of a RING byte. -/
def batchFail (b : Byte) : Nat := b.toNat / 32
/-- The byte without its failure. -/
def clearFail (b : Byte) : Byte := b &&& 0x1F
/-- The cause a failure code names (R307). -/
def failCause (code : Nat) : BitVec 8 :=
  if code = 1 then Cause.prot else if code = 2 then Cause.region else if code = 3 then Cause.nomap else if code = 4 then Cause.memerr
  else Cause.remote
/-- The failure code of a cause (R307, R321). -/
def failCode (cause : Word) : Option Nat :=
  if cause = 0x05 then some 1 else if cause = 0x07 then some 2 else if cause = 0x06 then some 3 else if cause = 0x19 then some 4
  else if cause = 0x12 then some 5 else none

namespace Batch
/-- Change the byte of number `n` in the ring. -/
def setAt (b : Batch) (n : Nat) (x : Byte) : Batch := { b with ring := b.ring.set (n % 64) x (Nat.mod_lt _ (by decide)) }
/-- Number `j` steps before the open batch, mod 2^32. -/
def back (b : Batch) (j : Nat) : Nat := (b.sealedNo.toNat + 2 ^ 32 - j) % 2 ^ 32
/-- FVA is in use: the batch FBATCH names still holds an unreported failure. -/
def fvaUsed (b : Batch) : Bool :=
  if b.fbatch.toNat = b.sealedNo.toNat then batchFail b.opened != 0
  else (upTo 64).any fun j => b.back (j + 1) == b.fbatch.toNat && batchFail (b.at (b.back (j + 1))) != 0
/-- The oldest finished batch with an unreported failure: its number (R319). `n` counts back from the newest ring byte. -/
def failed (b : Batch) : Nat → Option Nat
  | 0 => none
  | n + 1 => if n + 1 > b.unfin && batchFail (b.at (b.back (n + 1))) != 0 then some (b.back (n + 1)) else b.failed n
/-- The report of batch `k`'s failure: the state without it, the cause and TRAPVAL (R319). -/
def reportOf (b : Batch) (k : Nat) : Batch × BitVec 8 × Word :=
  let x := b.at k
  let mine := b.fvaUsed && b.fbatch.toNat == k
  let b' := b.setAt k (clearFail x)
  (if mine then { b' with fva := 0 } else b', failCause (batchFail x), if mine then b.fva else 0)
/-- Seal the open batch (R318). -/
def sealOpen (b : Batch) : Batch := { (b.setAt b.sealedNo.toNat b.opened) with opened := 0, sealedNo := b.sealedNo + 1 }
/-- A failure is posted to the batch numbered `n` (R322). -/
def fail (b : Batch) (n : Nat) (code : Nat) (addr : Word) : Batch :=
  let used := b.fvaUsed
  let mark (x : Byte) : Byte := clearFail x ||| BitVec.ofNat 8 (code * 32)
  let b := if n = b.sealedNo.toNat then { b with opened := mark b.opened } else b.setAt n (mark (b.at n))
  if used then b else { b with fva := addr, fbatch := BitVec.ofNat 64 n }
/-- One request of batch `n` has been posted (R322). -/
def post (b : Batch) (n : Nat) : Batch :=
  if n = b.sealedNo.toNat then { b with opened := b.opened - 1 } else b.setAt n (b.at n - 1)
/-- The full number of the batch a tag names (R302, R322). -/
def ofTag (b : Batch) (tag : Nat) : Nat := b.back ((b.sealedNo.toNat + 128 - tag) % 128)
/-- No request is unposted. -/
def quiet (b : Batch) : Bool := b.unfin == 0 && batchOpen b.opened == 0
end Batch

/-- Stop with the report of a batch's failure; a CPWAIT that completes with one has acquired first. -/
def reportBatch (b : Batch) (k : Nat) (acquired : Bool) : Exec Unit :=
  let (b', cause, val) := b.reportOf k
  throw (.report b' acquired cause val (BitVec.ofNat 32 k))

/-- CPSEAL (R318). -/
def execCpseal (c : Chain) (s : State) : Host.Outcome State Fault Refusal :=
  runChain c (.cpseal c) (do
    gate (.cpseal c) false .notSluice
    let b := (← getCpu).batch
    if decide (b.unfin ≥ 64) then park
    else if batchFail (b.at b.sealedNo.toNat) != 0 then reportBatch b (b.back 64) false
    else do
      modCpu fun t => { t with batch := t.batch.sealOpen }
      done (.cpseal c)) s

/-- CPWAIT (R319). -/
def execCpwait (c : Chain) (n : Word) (s : State) : Host.Outcome State Fault Refusal :=
  runChain c (.cpwait c n) (do
    gate (.cpwait c n) false .notSluice
    let b := (← getCpu).batch
    if decide (b.unfin > n.toNat) then park
    else
      match b.failed 64 with
      | some k => reportBatch b k true
      | none => do
        acquire .device
        done (.cpwait c n)) s

/-! The mailbox (R300, R320). -/

/-- Take the head request, an acquire read at core scope (R204): it goes to ga to ga+4, and its scoreboard entry counts as taken (R320,
R321). -/
def takeMail (a : Nat) (q : MailReq) : Exec Unit := do
  acquire .core
  modCpu fun t => (((((t.setReg a q.src).setReg (a + 1) q.dst).setReg (a + 2) q.len).setReg (a + 3) q.flags).setReg (a + 4) q.tag)
  modCore fun k => { k with mailbox := k.mailbox.drop 1, score := mapFirst (fun e => e.idx == q.sbe) (fun e => { e with taken := true }) k.score }

/-- MBGET (R320). -/
def execMbget (c : Chain) (a : BitVec 5) (s : State) : Host.Outcome State Fault Refusal :=
  runChain c (.mbget c a) (do
    gate (.mbget c a) false .sluice
    checkUses ((upTo 5).map fun j => .run (a.toNat + j))
    match (← getCore).mailbox with
    | [] => stall
    | q :: _ => do
      takeMail a.toNat q
      done (.mbget c a)) s

/-- MBGET.nw (R320). -/
def execMbgetNw (c : Chain) (a : BitVec 5) (s : State) : Host.Outcome State Fault Refusal :=
  runChain c (.mbgetNw c a) (do
    gate (.mbgetNw c a) false .sluice
    checkUses ((upTo 5).map fun j => .run (a.toNat + j))
    match (← getCore).mailbox with
    | [] => modCpu fun t => t.setReg (a.toNat + 4) (BitVec.allOnes 64)
    | q :: _ => takeMail a.toNat q
    done (.mbgetNw c a)) s

/-! XFER (R303, R321). -/

/-- One side of a copy: a cistern range of the core, or a range of VAs with its pages' translations. -/
inductive Side where
  | cistern (base : Nat)
  | pages (base : Nat) (xs : List Xlat)
deriving DecidableEq, Repr

/-- The 16 KiB units a VA range touches, each by its first byte in the range. -/
def unitsOf (base len : Nat) : List Nat :=
  (upTo ((base + len - 1) / 2 ^ 14 - base / 2 ^ 14 + 1)).map fun j => max base ((base / 2 ^ 14 + j) * 2 ^ 14)

/-- How a copy fails: its cause, the failing address, and the unit that holds an uncorrectable error. -/
structure CopyFail where
  cause : BitVec 8
  addr : Word
  unit : Option TestUnit := none
deriving DecidableEq, Repr

/-- Translate and check the page of one 16 KiB unit of a side (R303). -/
def checkUnit (wk : Walker) (v : Word) (rd wr : Bool) : Exec Xlat := do
  let x ← reachAs wk v rd wr
  if x.entry.kind == 1 || (x.entry.kind == 2 && x.home != 0) then trapRegion v x.entry else return x

/-- The state with what a failed check of the unit at `v` has translated (R304). -/
def translatedFor (wk : Walker) (v : Word) (s : State) : State :=
  match translateFor wk v s with
  | .ok (_, s') => s'
  | .error _ => s

/-- Translate and check a side's pages with the requester's context and level, until a check fails (R303, R488). A page that is not
present waits for its future. DESIGN CHOICE: the 16 KiB units of the range are checked in ascending order, and a failure names the first
byte of the range in its unit (notes/assumptions/59.md). -/
def checkSide (wk : Walker) (note : Note) (rd wr : Bool) : List Nat → Exec (List Xlat × Option CopyFail)
  | [], s => .ok (([], none), s)
  | va :: vas, s =>
    let v := BitVec.ofNat 64 va
    match checkUnit wk v rd wr s with
    | .ok (x, s) =>
      match checkSide wk note rd wr vas s with
      | .ok ((xs, f), s) => .ok ((x :: xs, f), s)
      | .error e => .error e
    | .error (.trap cause val _) => .ok (([], some { cause := cause, addr := val }), translatedFor wk v s)
    | .error (.memerr unit val _) => .ok (([], some { cause := Cause.memerr, addr := val, unit := unit }), s)
    | .error (.page p) => .error (.copyPage p { note with trappc := p } s.used)
    | .error e => .error e

/-- A side of the request, checked: the side, and how its check fails. -/
def sideOf (wk : Walker) (note : Note) (space : Nat) (base len : Word) (wr : Bool) : Exec (Side × Option CopyFail) :=
  if space == 1 then pure (.cistern base.toNat, none)
  else do
    let (xs, f) ← checkSide wk note (!wr) wr (unitsOf base.toNat len.toNat)
    return (.pages base.toNat xs, f)

/-- Where sector `j` of a side lies: the key, the address a failure names, and the translation of its page. -/
def Side.sector (k : Nat) (d : Side) (j : Nat) : Nat × Nat × Option Xlat :=
  match d with
  | .cistern base => (cisternKey k (base + 32 * j), base + 32 * j, none)
  | .pages base xs =>
    let va := base + 32 * j
    match xs[va / 2 ^ 14 - base / 2 ^ 14]? with
    | some x =>
      let pa := x.entry.physical va
      (({ x with pa := pa, va := va } : Xlat).key, va, some { x with pa := pa, va := va })
    | none => (cisternKey k 0, va, none)

/-- Home 1, 2 or 3 does not answer for a sector of the source, or of the destination (`wr`): its link or its peer is down, the peer
refuses, or a completion has timed out or reported an error (R303, R435, R438). What ends a copy to home 2 is `State.endingRead`. -/
def State.remoteFails (s : State) (x : Option Xlat) (wr : Bool) : Bool :=
  match x with
  | none => false
  | some x =>
    let failed := if wr then s.cpu.reply.endFails else s.cpu.reply.sourceFailed
    if x.home = 1 || x.home = 2 then
      let p := s.port (s.portFor x.pa)
      !p.up || (x.home == 1 && p.pcie) || ((x.home == 1 || !wr) && failed)
    else if x.home = 3 then !s.peerGrants s.cpu.ctx x.entry.peer x.pa 32 (!wr) wr || failed
    else false

/-- The sector waits for an answer of the host or of a peer: one of the source for its data (R435, R441), one of the destination for its
acknowledgement, which for home 2 is the read that ends the copy (R303, R433). What the wait leaves. -/
def State.remoteWaits (s : State) (x : Option Xlat) (wr : Bool) : Option WaitRec :=
  let ask (p : Option Nat) : WaitRec := if wr then .ending p else .request p
  match x with
  | none => none
  | some x =>
    if !(if wr then s.cpu.reply.endOpen else s.cpu.reply.sourceOpen) then none
    else if x.home = 1 || x.home = 2 then
      if (s.port (s.portFor x.pa)).answers then none else some (ask none)
    else if x.home = 3 then
      if (s.peer (BitVec.ofNat 12 x.entry.peer)).answers then none else some (ask (some x.entry.peer))
    else none

/-- The copy stalls until the sectors of a side are answered, and while one of them is in a unit under test (R478) or has an update or a
store on its way (R303). -/
def awaitSectors (k : Nat) (d : Side) (wr : Bool) : Nat → Nat → Exec Unit
  | 0, _ => pure ()
  | n + 1, j => do
    let s ← get
    let (key, _, x) := d.sector k j
    if s.testing key 32 || s.owedAt key 32 then stall else pure ()
    match if s.remoteFails x wr then none else s.remoteWaits x wr with
    | some r => stall r
    | none => awaitSectors k d wr n (j + 1)

/-- Read the source sectors from `j` on, until one fails: the data, and the failure. -/
def readSectors (k : Nat) (d : Side) (s : State) : Nat → Nat → List (List Byte) × Option CopyFail
  | 0, _ => ([], none)
  | n + 1, j =>
    let (key, addr, x) := d.sector k j
    if s.remoteFails x false then ([], some { cause := Cause.remote, addr := BitVec.ofNat 64 addr })
    else if s.badAt key 32 then ([], some { cause := Cause.memerr, addr := BitVec.ofNat 64 addr, unit := s.badUnit key 32 })
    else
      let (rest, f) := readSectors k d s n (j + 1)
      (Memory.reads s.mem key 32 :: rest, f)

/-- The copies on the current thread's die of the first `n` sectors of a side become what their homes have: the reads of a copy use no
untracked copy, and none of the agent's later reads is older (R206, R303). -/
def freshSide (k : Nat) (d : Side) : Nat → State → State
  | 0, s => s
  | n + 1, s => match d.sector k n with
    | (key, _, some x) => freshSide k d n (if x.home = 0 then s.syncCopies s.cpu.die key 32 else s)
    | (_, _, none) => freshSide k d n s

/-- A sector is written. One of home 2 is a posted write, which comes after the earlier ones of its port and stays on its way while no
completion covers it (R433). -/
def State.writeSector (s : State) (x : Option Xlat) (key : Nat) (bs : List Byte) : State :=
  match x with
  | some x =>
    let p := s.portFor x.pa
    if x.home = 2 && !(s.port p).answers && (s.cpu.reply.endOpen || s.cpu.reply.endFails) then s.modPort p fun q => { q with posts := q.posts ++ [(key, bs)] }
    else (if x.home = 2 then s.drainPosts p else s).writeFrom s.cpu.die key bs
  | none => s.writeFrom s.cpu.die key bs

/-- Write sectors from `j` on, until one is refused: the state and the failure (R303). -/
def writeSectors (k : Nat) (d : Side) : List (List Byte) → Nat → State → State × Option CopyFail
  | [], _, s => (s, none)
  | bs :: rest, j, s =>
    let (key, addr, x) := d.sector k j
    if s.remoteFails x true then (s, some { cause := Cause.remote, addr := BitVec.ofNat 64 addr })
    else writeSectors k d rest (j + 1) (s.writeSector x key bs)

/-- The read that ends a copy to home 2 fails (R303, R433): REMOTE, for the last of the first `n` sectors that is of home 2. -/
def State.endingRead (s : State) (k : Nat) (d : Side) : Nat → Option CopyFail
  | 0 => none
  | n + 1 => match d.sector k n with
    | (_, addr, some x) =>
      if x.home = 2 then
        if s.cpu.reply.endFails then some { cause := Cause.remote, addr := BitVec.ofNat 64 addr } else none
      else s.endingRead k d n
    | (_, _, none) => s.endingRead k d n

/-- Host copies of the destination grains are invalidated before they are written (R432). -/
def snoopSectors (k : Nat) (d : Side) : Nat → Nat → Exec Unit
  | 0, _ => pure ()
  | n + 1, j => do
    match (d.sector k j).2.2 with
    | some x => if x.home == 0 then hostCopy x.pa 32 else pure ()
    | none => pure ()
    snoopSectors k d n (j + 1)

/-- The page request record of a copy names the requester (R303). -/
def copyNote (t : Thread) (e : Score) : Note :=
  { ctx := t.ctx, kind := 2, cause := 0, rank := e.rank, taskid := e.task, trappc := 0, trapval := 0, aux := 0, len := 0,
    savearea := e.savearea, newpc := 0, target := .none, launch := 64 }

/-- The move of a copy of `n` sectors, in one step: the failure, if any (R303). Its writes are release writes if a fence of the program
came before them (R202). -/
def moveSectors (k : Nat) (src dst : Side) (n : Nat) : Exec (Option CopyFail) := do
  releaseMode MemMode.none
  awaitSectors k src false n 0
  modify fun s => freshSide k src n s
  let (data, f) := readSectors k src (← get) n 0
  awaitSectors k dst true data.length 0
  snoopSectors k dst data.length 0
  let s ← get
  let (s', g) := writeSectors k dst data 0 s
  set s'
  return match g, f with
    | some x, _ => some x
    | none, some x => some x
    | none, none => s.endingRead k dst n

/-- The whole of a copy: the failure, if any (R303). DESIGN CHOICE: the source's pages are checked before the destination's
(notes/assumptions/59.md). -/
def moveBytes (q : MailReq) (note : Note) : Exec (Option CopyFail) := do
  let t ← getCpu
  let wk : Walker := { t.walker with sup := q.sup }
  let (src, f) ← sideOf wk note q.ssp q.src q.len false
  if f.isSome then return f
  else do
    let (dst, f) ← sideOf wk note q.dsp q.dst q.len true
    if f.isSome then return f else moveSectors t.coreId src dst (q.len.toNat / 32)

/-- The copy: its failure, or cause and address 0; a page future that was refused fails it with NOMAP (R303, R321). -/
def copyOutcome (q : MailReq) (note : Note) : Exec CopyFail := do
  let t ← getCpu
  match t.nomap, t.future with
  | some va, none => do
    modCpu fun t => { t with nomap := none }
    return { cause := Cause.nomap, addr := va }
  | _, _ => return (← moveBytes q note).getD { cause := 0, addr := 0 }

/-- XFER performs a request that an MBGET took, and waits for COPY_COMPLETE (R303, R321). -/
def execXfer (c : Chain) (a b : BitVec 5) (s : State) : Host.Outcome State Fault Refusal :=
  runChain c (.xfer c a b) (do
    gate (.xfer c a b) false .sluice
    checkUses (((upTo 5).map fun j => Use.run (a.toNat + j)) ++ [.run b.toNat, .run (b.toNat + 1)])
    let t ← getCpu
    if t.reply == .copying then stall
    else do
      checkRegs ((upTo 5).map (a.toNat + ·))
      let r := a.toNat
      let q : MailReq := { src := t.reg r, dst := t.reg (r + 1), len := t.reg (r + 2), flags := t.reg (r + 3), tag := t.reg (r + 4) }
      match first? (fun e => e.idx == q.sbe && e.taken) (← getCore).score with
      | none => trap Cause.prot q.tag
      | some e => do
        let f ← if q.stop then pure { cause := 0, addr := 0 } else copyOutcome q (copyNote t e)
        let used := (← get).used
        modCore fun k => { k with score := mapFirst (fun x => x.idx == q.sbe) (fun x => { x with entries := used }) k.score }
        modCpu fun t => { t with state := .stalled, held := some (.xfer c a b), reply := .copying, awaits := none }
        modify fun s => (s.selfTest f.unit).post (.copyComplete s.cpu.id f.cause f.addr)) s

/-- COPY_COMPLETE: the XFER of the slot writes its cause and address and completes (R321). -/
def execCopyComplete (slot : Nat) (cause : BitVec 8) (addr : Word) (s : State) : Host.Outcome State Fault Refusal :=
  .next (s.mapThreads (fun t => t.id == slot && t.state == .stalled && t.reply == .copying) fun t =>
    match t.held with
    | some (.xfer c a b) =>
      (((t.setReg b.toNat (cause.setWidth 64)).setReg (b.toNat + 1) addr).dropFlow [b.toNat, b.toNat + 1]).goTo (t.pc + BitVec.ofNat 64 (Instr.xfer c a b).len)
    | _ => t)

/-! MBPOST (R322). -/

/-- POST = 1: one more filled slot of handle `ph` of the core; none when it is unconfigured or full. -/
def Core.postHandle (k : Core) (ph : Nat) : Option Core :=
  let h := k.handles[ph % 8]'(Nat.mod_lt _ (by decide))
  if h.count == 0 || decide (h.filled ≥ h.count) then none
  else some { k with handles := k.handles.set (ph % 8) { h with filled := h.filled + 1 } (Nat.mod_lt _ (by decide)) }

/-- Push a slot reference to h8 (false) or h9 (true) of a core (R311). -/
def Core.pushRef (k : Core) (q : Bool) (x : Word) : Core := if q then { k with q9 := k.q9 ++ [x] } else { k with q8 := k.q8 ++ [x] }
/-- The queue is full: 16 references (R311). -/
def Core.refFull (k : Core) (q : Bool) : Bool := decide ((if q then k.q9 else k.q8).length ≥ 16)

/-- The action at finish: the cause and address after it (R322). -/
def postAction (q : MailReq) (cause addr : Word) : Exec (Word × Word) := do
  let t ← getCpu
  let k ← getCore
  if cause != 0 || q.postAct == 0 then return (cause, addr)
  else if q.postAct == 1 then
    match k.postHandle q.ph with
    | some k' => do
      checkPins t.coreId (8 + q.ph % 8)
      modify fun s => s.putCore k'
      return (cause, addr)
    | none => return (Cause.prot.setWidth 64, q.dst)
  else do
    if k.refFull (q.postAct == 3) then stall else pure ()
    modCore fun k => k.pushRef (q.postAct == 3) (BitVec.ofNat 64 (t.ring * 2 ^ 17) + q.dst)
    return (cause, addr)

/-- The batch state after a request is posted with this cause (R322). -/
def Batch.finishOne (b : Batch) (q : MailReq) (cause addr : Word) : Batch :=
  let n := b.ofTag q.batchTag
  let b := b.post n
  match failCode cause with | some code => b.fail n code addr | none => b

/-- Bytes of a save record's batch-state part (R307). -/
def Batch.bytes (b : Batch) : List Byte :=
  b.ring.toList ++ [b.opened] ++ List.replicate 7 0 ++ leBytes 8 b.fbatch.toNat ++ leBytes 8 b.fva.toNat ++
    leBytes 8 b.sealedNo.toNat ++ List.replicate 32 0

/-- Post to the row of the request: to its thread, or to the row itself once the thread has been spilled, in which case
the row is written to the save record and released when no batch is unfinished (R305, R322). -/
def State.postRow (s : State) (q : MailReq) (cause addr : Word) : State :=
  let k := s.myCore
  match first? (fun r => r.num == q.rowTag) k.rows with
  | none => s
  | some r =>
    match r.owner with
    | some id => s.mapThreads (fun t => t.id == id) fun t => { t with batch := t.batch.finishOne q cause addr }
    | none =>
      let b := r.batch.finishOne q cause addr
      if b.quiet then
        let s := s.putCore { k with rows := k.rows.filter fun x => x.num != r.num }
        match r.save with
        | some a => s.writeFrom (s.cpu.die) a b.bytes
        | none => s
      else s.putCore { k with rows := mapFirst (fun x => x.num == r.num) (fun x => { x with batch := b }) k.rows }

/-- MBPOST (R322). -/
def execMbpost (c : Chain) (a b : BitVec 5) (s : State) : Host.Outcome State Fault Refusal :=
  runChain c (.mbpost c a b) (do
    gate (.mbpost c a b) false .sluice
    checkUses [.run a.toNat, .run b.toNat, .run (b.toNat + 1)]
    checkRegs [a.toNat, b.toNat, b.toNat + 1]
    let t ← getCpu
    let tag := t.reg a.toNat
    let cause := t.reg b.toNat
    match first? (fun e => e.req.tag == tag && e.taken) (← getCore).score with
    | none => trap Cause.prot tag
    | some e => do
      trapIf (cause != 0 && (failCode cause).isNone) Cause.prot cause
      engineRelease .device
      let (cause, addr) ← postAction e.req cause (t.reg (b.toNat + 1))
      writing fun s => s.postRow e.req cause addr
      modCore fun k => { k with score := k.score.filter fun x => x.idx != e.idx }
      modify fun s => s.retireIdle.receives e.launch s.cpu.agent
      done (.mbpost c a b)) s

/-! XPUSH and the handles (R323 to R326). -/

/-- XPUSH (R315, R323). -/
def execXpush (c : Chain) (a : BitVec 5) (q d : Bool) (s : State) : Host.Outcome State Fault Refusal :=
  runChain c (.xpush c a q d) (do
    gate (.xpush c a q d) false .sluice
    checkUses [.run a.toNat]
    checkRegs [a.toNat]
    let t ← getCpu
    let x := t.reg a.toNat
    trapIf (decide (x.toNat ≥ 2 ^ 20) || x.toNat % 32 != 0) Cause.prot x
    engineRelease .cluster
    let dest := if d then t.idAt ((t.ring + 1) % 8) / 64 else t.coreId
    if ((← get).core dest).refFull q then stall else pure ()
    modify fun s => s.putCore ((s.core dest).pushRef q x)
    done (.xpush c a q d)) s

/-- Handle `h` of the current core. -/
def getHandle (h : BitVec 3) : Exec Handle := do return (← getCore).handles[h.toNat]
/-- Change it. -/
def setHandle (h : BitVec 3) (x : Handle) : Exec Unit := modCore fun k => { k with handles := k.handles.set h.toNat x }

/-- HCFG (R324). -/
def execHcfg (c : Chain) (h : BitVec 3) (b : Reg) (s : State) : Host.Outcome State Fault Refusal :=
  runChain c (.hcfg c h b) (do
    gate (.hcfg c h b) false .any
    checkUses [.rd b]
    let x ← readG b
    let count := field x 35 13
    let size := field x 17 18
    let base := field x 0 17
    let s ← get
    let k := s.cpu.coreId
    trapIf (decide (x.toNat ≥ 2 ^ 48)) Cause.prot x
    trapIf (count != 0 && (size % 32 != 0 || decide (size < 32) || decide (size > 131072) || base % 32 != 0 ||
      badRange s k 1 (BitVec.ofNat 64 base) (BitVec.ofNat 64 (size * count)))) Cause.prot x
    let new : Handle := if count = 0 then Handle.none else { base := base, size := size, count := count, ch := 0, filled := 0 }
    trapIf ((upTo 256).any fun j => new.meets j 1 && s.linesFailed k j 1) Cause.prot x
    if (upTo 256).any fun j => new.meets j 1 && s.linesTested k j 1 then stall else pure ()
    checkPins k (8 + h.toNat)
    setHandle h new
    modify State.retireIdle
    done (.hcfg c h b)) s

/-- One of the four ring instructions: `bad` traps PROT, `waits` parks, `op` changes the handle (R325, R326). A waiting one is an acquire
read at core scope, another (`rel`) a release write (R314). -/
def ringOp (i : Instr) (c : Chain) (h : BitVec 3) (n : Word) (rel : Bool) (bad waits : Handle → Bool) (op : Handle → Handle) (s : State) :
    Host.Outcome State Fault Refusal :=
  runChain c i (do
    gate i false .any
    let x ← getHandle h
    trapIf (x.count == 0 || bad x) Cause.prot ((h.setWidth 64 <<< 16) ||| n)
    if waits x then park else pure ()
    if rel then engineRelease .core else acquire .core
    if op x == x then pure () else checkPins (← getCpu).coreId (8 + h.toNat)
    setHandle h (op x)
    done i) s

/-- CWAIT (R325). -/
def execCwait (c : Chain) (h : BitVec 3) (n : Word) (s : State) : Host.Outcome State Fault Refusal :=
  ringOp (.cwait c h n) c h n false (fun x => decide (n.toNat > x.count)) (fun x => decide (x.filled < n.toNat)) id s
/-- CFREE (R325). -/
def execCfree (c : Chain) (h : BitVec 3) (n : Word) (s : State) : Host.Outcome State Fault Refusal :=
  ringOp (.cfree c h n) c h n false (fun x => decide (n.toNat > x.count)) (fun x => decide (x.count - x.filled < n.toNat)) id s
/-- CADV (R325). -/
def execCadv (c : Chain) (h : BitVec 3) (n : Word) (s : State) : Host.Outcome State Fault Refusal :=
  ringOp (.cadv c h n) c h n true (fun x => decide (n.toNat > x.filled)) (fun _ => false)
    (fun x => { x with ch := (x.ch + n.toNat) % x.count, filled := x.filled - n.toNat }) s
/-- CPOST (R325): it traps when the ring is full (R326). -/
def execCpost (c : Chain) (h : BitVec 3) (n : Word) (s : State) : Host.Outcome State Fault Refusal :=
  ringOp (.cpost c h n) c h n true (fun x => decide (n.toNat > x.count - x.filled)) (fun _ => false)
    (fun x => { x with filled := x.filled + n.toNat }) s

end Sys2Proof.Machine
end

