-- ==== Sys2Proof/Machine/Matrix.lean ====
section
/-!
DEFINITION. The matrix unit (R328 to R355): format contexts and tiles, slots, the arithmetic of a step (R113, R114), the
page-3 instructions, and the events MMA_ACCEPT and MMA_TILE_WRITE.
-/
namespace Sys2Proof.Machine

/-! Exact values of operand elements (R113, R114). -/

/-- An operand element or a partial sum: `fin n e` is n × 2^e over the step's common denominator. -/
inductive Num where
  | nan
  | inf (neg : Bool)
  | fin (n e : Int)
deriving DecidableEq, Repr

namespace Num
/-- The exact value of an FP32 pattern. -/
def ofF (x : F32) : Num := if isNaN x then nan else if isInf x then inf (signF x) else fin (signedF x) (exF x)
/-- The exact value of a DL8 code, times `dl8Den` (R100). -/
def ofDL8 (d : Byte) : Num := if isNaR d then nan else fin (dl8Val d) 0
/-- An exact product; ∞ × 0 is a NaN. -/
def mul (x y : Num) : Num :=
  match x, y with
  | nan, _ => nan
  | _, nan => nan
  | inf a, inf b => inf (a != b)
  | inf a, fin n _ => if n = 0 then nan else inf (a != decide (n < 0))
  | fin n _, inf b => if n = 0 then nan else inf (b != decide (n < 0))
  | fin n e, fin m f => fin (n * m) (e + f)
/-- An exact sum; +∞ and -∞ give a NaN. -/
def add (x y : Num) : Num :=
  match x, y with
  | nan, _ => nan
  | _, nan => nan
  | inf a, inf b => if a == b then inf a else nan
  | inf a, fin _ _ => inf a
  | fin _ _, inf b => inf b
  | fin n e, fin m f => fin (n * 2 ^ (e - min e f).toNat + m * 2 ^ (f - min e f).toNat) (min e f)
/-- The exact sum of a list. -/
def sum (xs : List Num) : Num := xs.foldl add (fin 0 0)
/-- x > y, exactly; false when either is a NaN. -/
def gt (x y : Num) : Bool :=
  match x, y with
  | nan, _ => false
  | _, nan => false
  | inf a, inf b => !a && b
  | inf a, fin _ _ => !a
  | fin _ _, inf b => b
  | fin n e, fin m f => decide (m * 2 ^ (f - min e f).toNat < n * 2 ^ (e - min e f).toNat)
/-- One block's sum times its two scales, over `den`, rounded once (R113, R114). -/
def round (x : Num) (den : Nat) (sa sb : F32) : F32 :=
  match x with
  | nan => defNaN
  | inf a => infF a
  | fin n e =>
    let (a, b) := dyadic (n.natAbs * sigF sa * sigF sb) (e + exF sa + exF sb)
    (roundF 0 (decide (n < 0)) a (b * den) false).1
end Num

/-! Formats (R328). -/

/-- AFMT: 1 FP32, 2 BF16, 3 DL8. DESIGN CHOICE: of a restored CFG whose BFMT is another, AFMT is the format of the B slots as well
(notes/assumptions/41.md). -/
def fmtOf (cfg : BitVec 5) : Nat := cfg.toNat % 4
/-- ASP: the A operands are 2:4 sparse. -/
def aspOf (cfg : BitVec 5) : Bool := cfg.getLsbD 4
/-- The step depth K. -/
def depthOf (cfg : BitVec 5) : Nat := if fmtOf cfg = 3 then 32 else if fmtOf cfg = 2 then 8 else 2
/-- Bytes of an element of a format. -/
def elemBytes (f : Nat) : Nat := if f = 3 then 1 else if f = 2 then 2 else 4
/-- Bytes of a dense slot (R334). -/
def slotBytes (f : Nat) : Nat := if f = 3 then 1024 else if f = 2 then 512 else 256
/-- Bytes of an A slot (R334). -/
def aBytes (cfg : BitVec 5) : Nat :=
  if aspOf cfg then (if fmtOf cfg = 3 then 640 else 288) else slotBytes (fmtOf cfg)

/-- `n` pieces of `k` elements each. -/
def chunks {α : Type} (k : Nat) : Nat → List α → List (List α)
  | 0, _ => []
  | n + 1, xs => xs.take k :: chunks k n (xs.drop k)

/-- An element from its bytes, lowest first. -/
def elemOf (f : Nat) (bs : List Byte) : Num :=
  if f = 3 then Num.ofDL8 (bs.headD 0)
  else if f = 2 then Num.ofF (BitVec.ofNat 32 (leNat bs * 65536))
  else Num.ofF (BitVec.ofNat 32 (leNat bs))

/-- The elements of a run of bytes. -/
def elemsOf (f n : Nat) (bs : List Byte) : List Num := (chunks (elemBytes f) n bs).map (elemOf f)

/-- The values that stand at each k of a group of a sparse row: an exact zero where no index names k (R334). -/
def groupAt (v0 v1 : Num) (nib : Nat) : List (List Num) :=
  (upTo 4).map fun k =>
    match (if nib % 4 = k then [v0] else []) ++ (if nib / 4 = k then [v1] else []) with
    | [] => [.fin 0 0]
    | xs => xs

/-- Nibble `g` of a row's metadata bytes (R334). -/
def nibbleOf (md : List Byte) (g : Nat) : Nat := (md.getD (g / 2) 0).toNat / 16 ^ (g % 2) % 16

/-- A sparse row as the values at each k. -/
def sparseRow (vals : List Num) (md : List Byte) (groups : Nat) : List (List Num) :=
  (upTo groups).flatMap fun g => groupAt (vals.getD (2 * g) .nan) (vals.getD (2 * g + 1) .nan) (nibbleOf md g)

/-- The rows of a step's A operand: for each k the values that multiply row k of B (R334, R339). -/
def MmaStep.aRows (m : MmaStep) : List (List (List Num)) :=
  let f := fmtOf m.cfg
  let k := depthOf m.cfg
  if !m.aTile.isEmpty then (chunks k 32 m.aTile).map fun r => r.map fun x => [Num.ofF x]
  else if aspOf m.cfg then
    let half := k / 2
    let metaLen := k / 8
    (upTo 32).map fun i =>
      let vals := elemsOf f half (m.aSlot.drop (elemBytes f * half * i))
      sparseRow vals ((m.aSlot.drop (elemBytes f * half * 32 + metaLen * i)).take metaLen) (k / 4)
  else (chunks (elemBytes f * k) 32 m.aSlot).map fun r => (elemsOf f k r).map fun x => [x]

/-- The rows of a step's B operand (R334). -/
def MmaStep.bRows (m : MmaStep) : List (List Num) :=
  let f := fmtOf m.cfg
  (chunks (elemBytes f * 32) (depthOf m.cfg) m.bSlot).map fun r => elemsOf f 32 r

/-- The exact sum of the products of a block of A values with column `j` of its rows of B. -/
def blockSum (a : List (List Num)) (b : List (List Num)) (j : Nat) : Num :=
  Num.sum ((List.zipWith (fun xs row => xs.map fun x => x.mul (row.getD j .nan)) a b).flatten)

/-- Denominator of a step's products: DL8 elements enter over `dl8Den` (R113). -/
def MmaStep.den (m : MmaStep) : Nat :=
  if fmtOf m.cfg = 3 then (if m.aTile.isEmpty then dl8Den * dl8Den else dl8Den) else 1

/-- Blocks of 8 products of a step, or the one block of an FP32 step (R113). -/
def MmaStep.blocks (m : MmaStep) : Nat := if fmtOf m.cfg = 3 then 4 else 1

/-- The scale of block (r, c) of 4 by 4, or 1 without scales (R335). -/
def scaleAt (xs : List F32) (r c : Nat) : F32 := xs.getD (4 * r + c) 0x3F800000

/-- Element (i, j) after the step: blocks in ascending order, C := RNE(C + t) for each (R113). -/
def MmaStep.elem (m : MmaStep) (aRow : List (List Num)) (bRows : List (List Num)) (i j : Nat) (c : F32) : F32 :=
  (upTo m.blocks).foldl (fun c b =>
    let s := blockSum ((aRow.drop (8 * b)).take 8) ((bRows.drop (8 * b)).take 8) j
    (fadd 0 c (s.round m.den (scaleAt m.aScales (i / 8) b) (scaleAt m.bScales b (j / 8)))).1) c

/-- A tile after a step (R338). -/
def MmaStep.apply (m : MmaStep) (t : Vector F32 1024) : Vector F32 1024 :=
  let a := m.aRows
  let b := m.bRows
  Vector.ofFn fun (x : Fin 1024) => m.elem (a.getD (x.val / 32) []) b (x.val / 32) (x.val % 32) t[x]

/-! Contexts. -/

/-- Change the current core's format context. -/
def modFmt (f : FmtCtx → FmtCtx) : Exec Unit := modCore fun k => { k with fmt := f k.fmt }

/-- The format context of core `k` is freed and scrubbed (R329). -/
def State.freeFmt (s : State) (k : Nat) : State := s.putCore { s.core k with fmt := FmtCtx.none }

/-- Element (i, j) of a tile. -/
def FmtCtx.at (x : FmtCtx) (t : Tile) (i j : Nat) : F32 := (x.tiles[t.toNat]).toList.getD (32 * i + j) 0
/-- A tile's elements, row by row. -/
def FmtCtx.tile (x : FmtCtx) (t : Tile) : List F32 := (x.tiles[t.toNat]).toList
/-- The tile with these elements, row by row. -/
def tileOf (xs : List F32) : Vector F32 1024 := Vector.ofFn fun (x : Fin 1024) => xs.getD x.val 0
/-- Change a tile. -/
def FmtCtx.modTile (x : FmtCtx) (t : Tile) (v : Vector F32 1024) : FmtCtx := { x with tiles := x.tiles.set t.toNat v }
/-- Write the whole of a tile, which gives it a fresh check (R477). -/
def FmtCtx.setTile (x : FmtCtx) (t : Tile) (v : Vector F32 1024) : FmtCtx :=
  { x.modTile t v with badTiles := x.badTiles.filter fun j => j != t.toNat }
/-- A pending instruction writes tile `t` (R333). -/
def FmtCtx.busy (x : FmtCtx) (t : Tile) : Bool := x.pending.any fun m => m.dst == t

/-- TRAPVAL of FMTCTX: the core's index in the cluster ring (R332). -/
def trapFmtctx {α : Type} : Exec α := do trap Cause.fmtctx (BitVec.ofNat 64 (← getCpu).ring)

/-- FMTCTX in the sluice slot, and unless `held` is false when the thread does not hold its core's context (R332). -/
def checkFmt (held : Bool) : Exec Unit := do
  let t ← getCpu
  let k ← getCore
  if t.isSluice || (held && k.fmt.holder != some t.id) then trapFmtctx else pure ()

/-- The matrix unit of cluster `c` runs a self-test and refuses work (R478). -/
def State.matrixTest (s : State) (c : Nat) : Bool :=
  s.events.any fun e => match e with | .selfTestVerdict (.matrix d) _ => d == c | _ => false

/-- The checks of a page-3 instruction: FMTCTX follows REGRANGE and VREGRANGE (R332). -/
def matrixGate (i : Instr) (held : Bool) (us : List Use) (vs : List VReg) : Exec Unit := do
  gate i false .any
  checkOperands us vs (checkFmt held)
  let s ← get
  if s.matrixTest s.cpu.clusterId then stall else pure ()

/-- Stall until no pending instruction of the thread writes the tile (R333). -/
def waitTile (t : Tile) : Exec Unit := do if (← getCore).fmt.busy t then stall else pure ()
/-- The tile is read: MEMERR with TRAPVAL 0 when it holds an uncorrectable error (R18, R477). -/
def checkTile (t : Tile) : Exec Unit := do
  memErrIf ((← getCore).fmt.badTiles.contains t.toNat) (some (.matrix (← getCpu).clusterId)) 0
/-- Stall until none of the thread's matrix instructions is pending. -/
def waitMatrix : Exec Unit := do if (← getCore).fmt.pending.isEmpty then pure () else stall

/-- FMTSET with a configuration (R329, R346). -/
def execFmtset (c : Chain) (cfg : BitVec 5) (s : State) : Host.Outcome State Fault Refusal :=
  runChain c (.fmtset c cfg) (do
    matrixGate (.fmtset c cfg) false [] []
    let t ← getCpu
    match (← getCore).fmt.holder with
    | none => modFmt fun _ => { FmtCtx.none with holder := some t.id, cfg := cfg }
    | some h =>
      if h == t.id then do
        waitMatrix
        modFmt fun x => { x with cfg := cfg }
      else park
    done (.fmtset c cfg)) s

/-- FMTSET #0 (R329). -/
def execFmtsetRelease (c : Chain) (s : State) : Host.Outcome State Fault Refusal :=
  runChain c (.fmtsetRelease c) (do
    matrixGate (.fmtsetRelease c) false [] []
    let t ← getCpu
    if (← getCore).fmt.holder == some t.id then do
      waitMatrix
      modify fun s => (s.freeFmt t.coreId).retireIdle
    else pure ()
    done (.fmtsetRelease c)) s

/-- What FMTRD reads (R347). -/
def Core.fmtWord (k : Core) (held : Bool) : Word :=
  BitVec.ofNat 64 (k.f11.length * 2 ^ 33 + k.f10.length * 2 ^ 24 + k.q9.length * 2 ^ 19 + k.q8.length * 2 ^ 14 +
    if held then 32 + k.fmt.cfg.toNat else 0)

/-- FMTRD (R347). -/
def execFmtrd (c : Chain) (a : Reg) (s : State) : Host.Outcome State Fault Refusal :=
  runChain c (.fmtrd c a) (do
    matrixGate (.fmtrd c a) false [.wr a] []
    let k ← getCore
    let t ← getCpu
    writeG a (k.fmtWord (k.fmt.holder == some t.id))
    done (.fmtrd c a)) s

/-! Acceptance (R336, R337). -/

/-- Core id and offset of a slot reference (R315). -/
def refCore (t : Thread) (r : Word) : Nat := t.coreId / 8 * 8 + field r 17 3
def refOff (r : Word) : Nat := field r 0 17

/-- The bytes of a slot (R336). An error in it reports the slot reference (notes/assumptions/49.md). -/
def readSlot (n : Nat) (r : Word) : Exec (List Byte) := do
  let s ← get
  let k := refCore s.cpu r
  trapIf (badRange s k 1 (BitVec.ofNat 64 (refOff r)) (BitVec.ofNat 64 n)) Cause.prot r
  deliver (cisternKey k (refOff r)) n r

/-- The bytes of several slots. -/
def readSlots (n : Nat) : List Word → Exec (List (List Byte))
  | [] => pure []
  | r :: rs => do
    let b ← readSlot n r
    let bs ← readSlots n rs
    return b :: bs

/-- DESYNC when a FIFO does not hold 16 scales for each reference (R337). -/
def checkSync (cfg : BitVec 5) (refs : List Word) (scales : List F32) : Exec Unit :=
  let f := if fmtOf cfg = 3 then refs.length else 0
  trapIf (scales.length != 16 * f) Cause.desync (BitVec.ofNat 64 scales.length) (BitVec.ofNat 32 f)

/-- The queues hold what `n` steps consume (R336). -/
def slotsReady (cfg : BitVec 5) (n : Nat) (refs : List Word) (scales : List F32) : Bool :=
  decide (n ≤ refs.length) && (fmtOf cfg != 3 || decide (16 * n ≤ scales.length))

/-- Columns K × j to K × j + K - 1 of a tile, row by row (R339). -/
def tileColumns (xs : List F32) (k j : Nat) : List F32 := (chunks 32 32 xs).flatMap fun r => (r.drop (k * j)).take k

/-- A matrix instruction waits, is accepted, captures its operands and retires; its steps are pending (R336, R348). `aTile`
is MMAT's A tile and start step. DESIGN CHOICE: an uncorrectable error in the destination tile traps MEMERR with TRAPVAL 0 at acceptance,
after the slots have been read (notes/assumptions/67.md). -/
def matrixSteps (i : Instr) (d : Tile) (n : Nat) (aTile : Option (Tile × Nat)) : Exec Unit := do
  let k ← getCore
  let cfg := k.fmt.cfg
  let ready := (aTile.isSome || slotsReady cfg n k.q8 k.f10) && slotsReady cfg n k.q9 k.f11
  match aTile with | some (t, _) => waitTile t | none => pure ()
  if ready then pure () else stall
  if aTile.isNone then checkSync cfg k.q8 k.f10 else pure ()
  checkSync cfg k.q9 k.f11
  let as ← if aTile.isNone then readSlots (aBytes cfg) (k.q8.take n) else pure []
  let bs ← readSlots (slotBytes (fmtOf cfg)) (k.q9.take n)
  match aTile with | some (t, _) => checkTile t | none => pure ()
  checkTile d
  let dl8 := fmtOf cfg == 3
  let steps := (upTo n).map fun j =>
    { dst := d, cfg := cfg
      aTile := match aTile with | some (t, s0) => tileColumns (k.fmt.tile t) (depthOf cfg) (s0 + j) | none => []
      aSlot := as.getD j []
      bSlot := bs.getD j []
      aScales := if dl8 && aTile.isNone then (k.f10.drop (16 * j)).take 16 else []
      bScales := if dl8 then (k.f11.drop (16 * j)).take 16 else [] : MmaStep }
  modCore fun k => { k with
    q8 := if aTile.isNone then k.q8.drop n else k.q8
    f10 := if aTile.isNone && dl8 then k.f10.drop (16 * n) else k.f10
    q9 := k.q9.drop n
    f11 := if dl8 then k.f11.drop (16 * n) else k.f11
    fmt := { k.fmt with pending := k.fmt.pending ++ steps } }
  modify fun s => { s with events := s.events ++ List.replicate n (.mmaTileWrite s.cpu.coreId) }
  done i

/-- MMA (R348). -/
def execMma (c : Chain) (d : Tile) (n : BitVec 5) (s : State) : Host.Outcome State Fault Refusal :=
  runChain c (.mma c d n) (do
    matrixGate (.mma c d n) true [] []
    if aspOf (← getCore).fmt.cfg then trapFmtctx else pure ()
    matrixSteps (.mma c d n) d n.toNat none) s

/-- MMAT (R339, R348). -/
def execMmat (c : Chain) (d t : Tile) (n : BitVec 5) (s0 : BitVec 4) (s : State) : Host.Outcome State Fault Refusal :=
  runChain c (.mmat c d t n s0) (do
    matrixGate (.mmat c d t n s0) true [] []
    if decide (s0.toNat + n.toNat > 32 / depthOf (← getCore).fmt.cfg) then trapFmtctx else pure ()
    matrixSteps (.mmat c d t n s0) d n.toNat (some (t, s0.toNat))) s

/-- MMASP (R348). -/
def execMmasp (c : Chain) (d : Tile) (n : BitVec 5) (s : State) : Host.Outcome State Fault Refusal :=
  runChain c (.mmasp c d n) (do
    matrixGate (.mmasp c d n) true [] []
    if aspOf (← getCore).fmt.cfg then pure () else trapFmtctx
    matrixSteps (.mmasp c d n) d n.toNat none) s

/-! Tiles (R349). -/

/-- TZERO (R349). -/
def execTzero (c : Chain) (t : Tile) (s : State) : Host.Outcome State Fault Refusal :=
  runChain c (.tzero c t) (do
    matrixGate (.tzero c t) true [] []
    waitTile t
    modFmt fun x => x.setTile t (Vector.replicate 1024 0)
    done (.tzero c t)) s

/-- TRD (R349): piece k is elements 16k to 16k + 15 of the tile, row by row. -/
def execTrd (c : Chain) (a : VReg) (t : Tile) (piece : BitVec 6) (s : State) : Host.Outcome State Fault Refusal :=
  runChain c (.trd c a t piece) (do
    matrixGate (.trd c a t piece) true [] [a]
    waitTile t
    checkTile t
    writeV a (ofLanes ((((← getCore).fmt.tile t).drop (16 * piece.toNat)).take 16))
    done (.trd c a t piece)) s

/-- TWR (R349). -/
def execTwr (c : Chain) (a : VReg) (t : Tile) (piece : BitVec 6) (s : State) : Host.Outcome State Fault Refusal :=
  runChain c (.twr c a t piece) (do
    matrixGate (.twr c a t piece) true [] [a]
    waitTile t
    let v ← readV a
    modFmt fun x =>
      let xs := x.tile t
      x.modTile t (tileOf (xs.take (16 * piece.toNat) ++ lanes v ++ xs.drop (16 * piece.toNat + 16)))
    done (.twr c a t piece)) s

/-! Tile images (R342 to R344, R350). -/

/-- Bytes of an image (R342). -/
def imageBytes (f : Nat) : Nat := if f = 3 then 1088 else if f = 2 then 2048 else 4096

/-- Block `blk` of a tile, given row by row (R351). -/
def blockOf (xs : List F32) (blk : Nat) : List F32 :=
  (((chunks 32 32 xs).drop (8 * (blk / 4))).take 8).flatMap fun r => (r.drop (8 * (blk % 4))).take 8

/-- The transpose of a tile, given row by row. -/
def transpose (xs : List F32) : List F32 := (upTo 1024).map fun x => xs.getD (32 * (x % 32) + x / 32) 0

/-- The flags of several results. -/
def flagsOf {α : Type} (rs : List (α × Flags)) : Flags := rs.foldl (fun acc r => acc ||| r.2) 0

/-- Element (i, j)'s block (R342). -/
def blkOf (x : Nat) : Nat := 4 * (x / 32 / 8) + x % 32 / 8

/-- The image of a tile and the flags its conversion sets (R342). -/
def imageOf (f : Nat) (xs : List F32) : List Byte × Flags :=
  if f = 3 then
    let scales := (upTo 16).map fun b => blockScale (blockOf xs b)
    let codes := List.zipWith (fun n x => toDL8 x ((scales.getD (blkOf n) (0, 0)).1)) (upTo 1024) xs
    (codes.map (·.1) ++ scales.flatMap (fun r => leBytes 4 r.1.toNat), flagsOf scales ||| flagsOf codes)
  else if f = 2 then
    let hs := xs.map toBF16
    (hs.flatMap (fun r => leBytes 2 r.1.toNat), flagsOf hs)
  else (xs.flatMap (fun x => leBytes 4 x.toNat), 0)

/-- The tile of an image (R342). -/
def ofImage (f : Nat) (bs : List Byte) : List F32 × Flags :=
  if f = 3 then
    let scales := (chunks 4 16 (bs.drop 1024)).map fun b => BitVec.ofNat 32 (leNat b)
    let rs := List.zipWith (fun n d => scaleDL8 d (scales.getD (blkOf n) 0)) (upTo 1024) (bs.take 1024)
    (rs.map (·.1), flagsOf rs)
  else if f = 2 then
    let rs := (chunks 2 1024 bs).map fun b => ofBF16 (BitVec.ofNat 16 (leNat b))
    (rs.map (·.1), flagsOf rs)
  else ((chunks 4 1024 bs).map fun b => BitVec.ofNat 32 (leNat b), 0)

/-- The DL8 image of the transpose: codes and scales moved, not quantised again (R343). -/
def flipImage (bs : List Byte) : List Byte :=
  let codes := (upTo 1024).map fun x => bs.getD (32 * (x % 32) + x / 32) 0
  let scales := chunks 4 16 (bs.drop 1024)
  codes ++ ((upTo 16).flatMap fun b => scales.getD (4 * (b % 4) + b / 4) [])

/-- Both images of TSTT (R343). -/
def twoImages (f : Nat) (xs : List F32) : List Byte × Flags :=
  let r := imageOf f xs
  (r.1 ++ (if f = 3 then flipImage r.1 else (imageOf f (transpose xs)).1), r.2)

/-- The places of the pieces of an image, which lie in plain pages. -/
def plainPlaces (rd wr : Bool) : List (Word × Nat) → Exec (List Place)
  | [] => pure []
  | (va, n) :: rest => do
    let p ← placeAt va n rd wr
    match p.entry? with
    | some e => if e.kind != 0 then trapRegion va e else pure ()
    | none => pure ()
    let ps ← plainPlaces rd wr rest
    return p.split ++ ps

/-- The places of an image, every page checked in ascending order before any byte moves (R160, R344). -/
def imagePlaces (ea : Word) (n align : Nat) (rd wr : Bool) : Exec (List Place) := do
  checkAlign ea align
  let ps ← plainPlaces rd wr (piecesOf ea n)
  scoreCheck ps wr
  return ps

/-- TLD (R350). -/
def execTld (c : Chain) (t : Tile) (b : Reg) (off : Word) (f : BitVec 2) (s : State) : Host.Outcome State Fault Refusal :=
  runChain c (.tld c t b off f) (do
    matrixGate (.tld c t b off f) true [.rd b] []
    waitTile t
    let ea := (← readG b) + off
    let ps ← imagePlaces ea (imageBytes f.toNat) 64 true false
    let bs ← readPlaces MemMode.none ps
    let r := ofImage f.toNat bs
    raise r.2
    modFmt fun x => x.setTile t (tileOf r.1)
    touchAll (ps.map (·.va))
    done (.tld c t b off f)) s

/-- Store an image at `ea`. DESIGN CHOICE: an uncorrectable error in the tile traps MEMERR before any check of the image's address
(R350; notes/assumptions/67.md). -/
def storeImage (i : Instr) (t : Tile) (b : Reg) (off : Word) (image : List F32 → List Byte × Flags) : Exec Unit := do
  matrixGate i true [.rd b] []
  waitTile t
  checkTile t
  let ea := (← readG b) + off
  let r := image ((← getCore).fmt.tile t)
  let ps ← imagePlaces ea r.1.length 64 false true
  raise r.2
  releaseMode MemMode.none (ps.findSome? Place.hostVa)
  writePlaces MemMode.none ps r.1
  touchAll (ps.map (·.va))
  done i

/-- TST (R350). -/
def execTst (c : Chain) (t : Tile) (b : Reg) (off : Word) (f : BitVec 2) (s : State) : Host.Outcome State Fault Refusal :=
  runChain c (.tst c t b off f) (storeImage (.tst c t b off f) t b off (imageOf f.toNat)) s

/-- TSTT (R343, R350). -/
def execTstt (c : Chain) (t : Tile) (b : Reg) (off : Word) (f : BitVec 2) (s : State) : Host.Outcome State Fault Refusal :=
  runChain c (.tstt c t b off f) (storeImage (.tstt c t b off f) t b off (twoImages f.toNat)) s

/-! Scales and quantisation (R351 to R353). -/

/-- QBLK (R351). -/
def execQblk (c : Chain) (a : Reg) (t : Tile) (blk : BitVec 4) (s : State) : Host.Outcome State Fault Refusal :=
  runChain c (.qblk c a t blk) (do
    matrixGate (.qblk c a t blk) true [.wr a] []
    waitTile t
    checkTile t
    writeF a (blockScale (blockOf ((← getCore).fmt.tile t) blk.toNat))
    done (.qblk c a t blk)) s

/-- VQNT (R352). -/
def execVqnt (c : Chain) (a b : VReg) (k : RegC) (q : BitVec 2) (s : State) : Host.Outcome State Fault Refusal :=
  runChain c (.vqnt c a b k q) (do
    gate (.vqnt c a b k q) false .any
    checkOperands [.rd (wide k)] [a, b] (checkFmt false)
    let sc ← readG (wide k)
    let y ← readV b
    let x ← readV a
    let rs := (lanes y).map fun l => toDL8 l (sc.setWidth 32)
    let bs := vecBytes x
    raise (flagsOf rs)
    writeV a (ofVecBytes (bs.take (16 * q.toNat) ++ rs.map (·.1) ++ bs.drop (16 * q.toNat + 16)))
    done (.vqnt c a b k q)) s

/-- VDQNT (R352). -/
def execVdqnt (c : Chain) (a b : VReg) (k : RegC) (q : BitVec 2) (s : State) : Host.Outcome State Fault Refusal :=
  runChain c (.vdqnt c a b k q) (do
    gate (.vdqnt c a b k q) false .any
    checkOperands [.rd (wide k)] [a, b] (checkFmt false)
    let sc ← readG (wide k)
    let rs := (((vecBytes (← readV b)).drop (16 * q.toNat)).take 16).map fun d => scaleDL8 d (sc.setWidth 32)
    raise (flagsOf rs)
    writeV a (ofLanes (rs.map (·.1)))
    done (.vdqnt c a b k q)) s

/-- SCPUSH (R353): the append is a release write at core scope. -/
def execScpush (c : Chain) (a : Reg) (q : Bool) (s : State) : Host.Outcome State Fault Refusal :=
  runChain c (.scpush c a q) (do
    gate (.scpush c a q) false .any
    checkOperands [.rd a] [] (checkFmt false)
    let x : F32 := (← readG a).setWidth 32
    let k ← getCore
    trapIf (isNaN x || isInf x || signF x || isZeroF x) Cause.badscale (x.setWidth 64)
    trapIf (decide ((if q then k.f11 else k.f10).length ≥ 256)) Cause.desync 256
      (BitVec.ofNat 32 (if q then k.q9 else k.q8).length)
    engineRelease .core
    modCore fun k => if q then { k with f11 := k.f11 ++ [x] } else { k with f10 := k.f10 ++ [x] }
    done (.scpush c a q)) s

/-! RGROW (R340, R354). -/

/-- |x| of an FP32 value. -/
def absF (x : F32) : F32 := x &&& 0x7FFFFFFF

/-- Of the positions, the one whose value wins against every earlier one, lowest k on a tie. -/
def bestOf (better : Num → Num → Bool) (val : Nat → Num) : List Nat → Option Nat
  | [] => none
  | k :: ks =>
    match bestOf better val ks with
    | none => some k
    | some j => if better (val j) (val k) then some j else some k

/-- One group: the four W and S elements and the nibble, after at most one swap (R340). -/
def regrow (theta : F32) (w sc : List F32) (nib : Nat) : List F32 × List F32 × Nat :=
  let i0 := nib % 4
  let i1 := nib / 4
  let score (k : Nat) : Num := Num.ofF (sc.getD k 0)
  let weight (k : Nat) : Num := Num.ofF (absF (w.getD k 0))
  if i0 == i1 || (w ++ sc).any isNaN || isNaN theta || isInf theta || (signF theta && !isZeroF theta) then (w, sc, nib)
  else
    let liveAt (k : Nat) : Bool := k == i0 || k == i1
    match bestOf Num.gt score ((upTo 4).filter fun k => !liveAt k),
          bestOf (fun x y => Num.gt y x) weight ((upTo 4).filter liveAt) with
    | some p, some l =>
      if (score p).gt ((weight l).add (Num.ofF theta)) then
        let other := if l == i0 then i1 else i0
        ((w.set l 0).set p 0, (sc.set l (absF (w.getD l 0))).set p 0, min other p + 4 * max other p)
      else (w, sc, nib)
    | _, _ => (w, sc, nib)

/-- RGROW's effect on both tiles, given row by row, and on the mask (R340). -/
def regrowAll (theta : F32) (w sc : List F32) (mask : List Byte) : List F32 × List F32 × List Byte :=
  let rs := (upTo 256).map fun n => regrow theta ((w.drop (4 * n)).take 4) ((sc.drop (4 * n)).take 4) (nibbleOf mask n)
  (rs.flatMap (·.1), rs.flatMap (·.2.1), (chunks 2 128 (rs.map (·.2.2))).map fun p => BitVec.ofNat 8 (p.getD 0 0 + 16 * p.getD 1 0))

/-- RGROW (R354). DESIGN CHOICE: an uncorrectable error in a tile traps MEMERR before any check of the mask's address
(notes/assumptions/67.md). -/
def execRgrow (c : Chain) (w t : Tile) (b : Reg) (off : Word) (s : State) : Host.Outcome State Fault Refusal :=
  runChain c (.rgrow c w t b off) (do
    matrixGate (.rgrow c w t b off) true [.rd b] []
    waitTile w
    waitTile t
    checkTile w
    checkTile t
    let ea := (← readG b) + off
    let ps ← imagePlaces ea 128 32 true true
    let mask ← readPlaces MemMode.none ps
    let x := (← getCore).fmt
    let (w', s', m') := regrowAll ((← getCpu).rgspan.setWidth 32) (x.tile w) (x.tile t) mask
    modFmt fun x => (x.setTile w (tileOf w')).setTile t (tileOf s')
    releaseMode MemMode.none (ps.findSome? Place.hostVa)
    writePlaces MemMode.none ps m'
    touchAll (ps.map (·.va))
    done (.rgrow c w t b off)) s

/-- MSYNC (R355). -/
def execMsync (c : Chain) (s : State) : Host.Outcome State Fault Refusal :=
  runChain c (.msync c) (do
    matrixGate (.msync c) true [] []
    waitMatrix
    done (.msync c)) s

/-! Events. -/

/-- The matrix instruction that the holder of core `k`'s context waits in. -/
def State.waitingMma (s : State) (k : Nat) : Option (Nat × Instr) :=
  match (s.core k).fmt.holder with
  | none => none
  | some h =>
    match s.thread? h with
    | some t =>
      match t.state, t.held with
      | .stalled, some (.mma c d n) => some (h, .mma c d n)
      | .stalled, some (.mmat c d a n s0) => some (h, .mmat c d a n s0)
      | .stalled, some (.mmasp c d n) => some (h, .mmasp c d n)
      | _, _ => none
    | none => none

/-- Run the meaning `f` as thread `id`, and give the turn back. -/
def asThread (id : Nat) (f : State → Host.Outcome State Fault Refusal) (s : State) : Host.Outcome State Fault Refusal :=
  match f (s.focus id).anew with
  | .next s' => .next (s'.focus s.cpu.id)
  | r => r

/-- MMA_ACCEPT: the unit looks at the waiting instruction of the context of core `k` and accepts it if its queues hold
what it consumes (R330, R336). -/
def execMmaAccept (k : Nat) (s : State) : Host.Outcome State Fault Refusal :=
  match s.waitingMma k with
  | some (h, .mma c d n) => asThread h (execMma c d n) s
  | some (h, .mmat c d a n s0) => asThread h (execMmat c d a n s0) s
  | some (h, .mmasp c d n) => asThread h (execMmasp c d n) s
  | _ => .next s

/-- MMA_TILE_WRITE: the oldest captured step of the context of core `k` is applied to its tile (R333, R338). -/
def execMmaTileWrite (k : Nat) (s : State) : Host.Outcome State Fault Refusal :=
  let c := s.core k
  match c.fmt.pending with
  | [] => .next s
  | m :: ms => .next (s.putCore { c with fmt := ({ c.fmt with pending := ms } : FmtCtx).modTile m.dst (m.apply c.fmt.tiles[m.dst.toNat]) })

end Sys2Proof.Machine
end

