-- ==== Sys2Proof/Machine/Turnout.lean ====
section
/-!
DEFINITION. The Turnout: CBPUSH, CBSEAL, CBNEXT, CBDONE (R379 to R394).
-/
namespace Sys2Proof.Machine

/-- Where a Turnout instruction's descriptor stands. -/
structure Desc where
  va : Word
  home : Nat
  sweep : Option Sweep
  /-- STATE of dw4. -/
  state : Nat
deriving DecidableEq, Repr

/-- The sweep entry of the descriptor at `home`. -/
def State.sweep? (s : State) (home : Nat) : Option Sweep := first? (fun w => w.home == home) s.sweeps

/-- Change it. -/
def State.putSweep (s : State) (w : Sweep) : State := { s with sweeps := mapFirst (fun x => x.home == w.home) (fun _ => w) s.sweeps }

/-- Translate `va` for the Turnout: a plain page homed on the device (R380, R390). -/
def turnoutReach (va : Word) (rd : Bool) : Exec Nat := do
  let x ← reach va rd true
  if x.entry.kind != 0 || x.home != 0 then trapRegion va x.entry else return x.pa

/-- The first checks of all four instructions (R389, R390). -/
def getDesc : Exec Desc := do
  let t ← getCpu
  trapIf (t.cbdesc == 0) Cause.prot 0
  let home ← turnoutReach t.cbdesc true
  let bs ← deliver home 64 t.cbdesc
  let state := leNat ((bs.drop 32).take 8) % 4
  let s ← get
  let w := s.sweep? home
  trapIf (match w with | some w => w.ctx != t.ctx | none => state == 1 || state == 2) Cause.prot t.cbdesc
  return { va := t.cbdesc, home := home, sweep := w, state := state }

/-- The Turnout of the die on which the descriptor at `home` is homed writes bytes of device memory (R379). -/
def turnoutWrite (home a : Nat) (bs : List Byte) : Exec Unit := do
  if (← get).testing a bs.length then stall else pure ()
  hostCopy a bs.length
  modify fun s => s.writeFrom (home / 2 ^ 37) a bs

/-- MAXLEVEL of a sweep. -/
def Sweep.maxLevel (w : Sweep) : Nat := w.items.foldl (fun m c => max m c.level) 0
/-- NDEFER of a sweep. -/
def Sweep.deferred (w : Sweep) : Nat := (w.items.filter fun c => c.level == 0).length
/-- dw4 and dw5 with STATE `st` (R380). -/
def Sweep.words (w : Sweep) (st : Nat) : List Byte :=
  leBytes 8 (w.items.length * 2 ^ 16 + w.maxLevel * 2 ^ 8 + st) ++ leBytes 8 w.deferred

/-- Every placed constraint is done (R382). -/
def Sweep.finished (w : Sweep) : Bool := w.items.all fun c => c.level == 0 || c.done
/-- The open level: the lowest that holds a constraint not yet done (R386). -/
def Sweep.openLevel (w : Sweep) : Option Nat := least ((w.items.filter fun c => c.level != 0 && !c.done).map (·.level))
where
  least : List Nat → Option Nat
    | [] => none
    | x :: xs => match least xs with | none => some x | some y => some (min x y)

/-- Write `l` to bytes of the level table of the sweep whose descriptor lies at `home`. -/
def setLevels (home l : Nat) : List Nat → Exec Unit
  | [] => pure ()
  | a :: as => do
    turnoutWrite home a [BitVec.ofNat 8 l]
    setLevels home l as

/-- The sweep ends: the level table is cleared, STATE becomes 3, the entry is free (R382, R386). -/
def finishSweep (w : Sweep) : Exec Unit := do
  setLevels w.home 0 (w.items.flatMap (·.bodies))
  turnoutWrite w.home (w.home + 32) (w.words 3)
  modify fun s => { s with sweeps := s.sweeps.filter fun x => x.home != w.home }

/-- The bodies a constraint names, each once (R383). -/
def bodiesOf (g h : Word) : List Nat :=
  dedup ([field g 0 24, field g 24 24, field h 0 24, field h 24 24].take (field g 48 2 + 1))
where
  dedup : List Nat → List Nat
    | [] => []
    | x :: xs => x :: (dedup xs).filter fun y => y != x

/-- PROT for a body at or beyond NBODY. -/
def checkBodies (n : Nat) : List Nat → Exec Unit
  | [] => pure ()
  | b :: bs => do
    trapIf (decide (b ≥ n)) Cause.prot (BitVec.ofNat 64 b)
    checkBodies n bs

/-- Home addresses of the bodies' level-table bytes, with their VAs. DESIGN CHOICE: the bytes of all bodies are translated before any is
read, so that a fault of a later body's page comes before an error in an earlier byte (notes/assumptions/60.md). -/
def levelPlaces (table : Nat) : List Nat → Exec (List (Nat × Word))
  | [] => pure []
  | b :: bs => do
    let va := BitVec.ofNat 64 (table + b)
    let a ← turnoutReach va true
    let rest ← levelPlaces table bs
    return (a, va) :: rest

/-- The level-table bytes. -/
def readLevels : List (Nat × Word) → Exec (List Nat)
  | [] => pure []
  | (a, va) :: rest => do
    let b ← deliver a 1 va
    let bs ← readLevels rest
    return leNat b :: bs

/-- CBPUSH (R383, R384, R391). -/
def execCbpush (c : Chain) (a b : Reg) (k : RegC) (s : State) : Host.Outcome State Fault Refusal :=
  runChain c (.cbpush c a b k) (do
    gate (.cbpush c a b k) false .any
    checkUses [.wr a, .rd b, .run k.toNat, .run (k.toNat + 1)]
    let payload ← readG b
    let t ← getCpu
    checkRegs [k.toNat, k.toNat + 1]
    let g := t.reg k.toNat
    let h := t.reg (k.toNat + 1)
    let d ← getDesc
    trapIf (decide (field g 50 14 ≠ 0) || decide (field h 48 16 ≠ 0)) Cause.prot g
    engineRelease .device
    trapIf (match d.sweep with | some w => w.running | none => d.state != 0) Cause.prot d.va
    let s ← get
    let dw (j : Nat) : Nat := s.peek (d.home + 8 * j) 8
    trapIf (decide (dw 1 = 0) || decide (dw 1 > 2 ^ 24) || decide (dw 3 = 0) || decide (dw 3 > 2 ^ 24) || decide (dw 2 % 32 ≠ 0))
      Cause.prot d.va
    let w := d.sweep.getD { home := d.home, ctx := t.ctx, running := false, items := [] }
    let i := w.items.length
    let bodies := bodiesOf g h
    checkBodies (dw 1) bodies
    trapIf (i == dw 3) Cause.prot (BitVec.ofNat 64 (dw 3))
    let table ← levelPlaces (dw 0) bodies
    let m := (← readLevels table).foldl max 0
    let entry ← turnoutReach (BitVec.ofNat 64 (dw 2 + 32 * i)) true
    if d.sweep.isNone && decide ((s.sweeps.filter fun x => x.home / 2 ^ 37 == d.home / 2 ^ 37).length ≥ 8) then do
      writeG a (1 <<< 62)
      done (.cbpush c a b k)
    else do
      if d.sweep.isNone then do
        turnoutWrite d.home (d.home + 32) (w.words 1)
        modify fun s => { s with sweeps := s.sweeps ++ [w] }
      else pure ()
      let l := if m < 255 then m + 1 else 0
      setLevels d.home (if l = 0 then 255 else l) (table.map (·.1))
      turnoutWrite d.home entry (leBytes 8 payload.toNat ++ leBytes 8 g.toNat ++ leBytes 8 h.toNat ++ leBytes 8 l)
      let used := (← get).used
      modify fun s => s.putSweep { w with items := w.items ++ [{ level := l, entries := used, bodies := table.map (·.1), entry := entry, handed := false, done := false }] }
      writeG a (BitVec.ofNat 64 (i * 2 ^ 8 + if l = 0 then 2 ^ 63 else l))
      done (.cbpush c a b k)) s

/-- CBSEAL (R382, R392): it waits for the earlier accesses, and then tests and seals in one step. -/
def execCbseal (c : Chain) (s : State) : Host.Outcome State Fault Refusal :=
  runChain c (.cbseal c) (do
    gate (.cbseal c) false .any
    engineRelease .device
    let d ← getDesc
    match d.sweep with
    | none => trap Cause.prot d.va
    | some w => do
      trapIf w.running Cause.prot d.va
      if w.finished then finishSweep w
      else do
        turnoutWrite d.home (d.home + 32) (w.words 2)
        modify fun s => s.putSweep { w with running := true }
      done (.cbseal c)) s

/-- The pair a, a+1 of CBNEXT: a second register that is g126 or g127 is the one reported (R390; notes/assumptions/39.md). -/
def nextUses (a : Reg) : List Use := if a == 126 then [.run 127] else [.run a.toNat, .run (a.toNat + 1)]

/-- The index of the first constraint of level `l` not handed out yet. -/
def nextOf (l : Nat) : List Constraint → Nat → Option (Nat × Constraint)
  | [], _ => none
  | x :: xs, i => if x.level == l && !x.handed then some (i, x) else nextOf l xs (i + 1)

/-- CBNEXT (R386, R393). -/
def execCbnext (c : Chain) (a : Reg) (s : State) : Host.Outcome State Fault Refusal :=
  runChain c (.cbnext c a) (do
    gate (.cbnext c a) false .any
    checkUses (nextUses a)
    let d ← getDesc
    match d.sweep with
    | none => do
      trapIf (d.state == 0) Cause.prot d.va
      acquire .device
      modCpu fun t => t.setReg a.toNat (BitVec.allOnes 64)
      done (.cbnext c a)
    | some w =>
      match if w.running then w.openLevel.bind fun l => nextOf l w.items 0 else none with
      | none => park
      | some (i, x) => do
        let s ← get
        let lva := BitVec.ofNat 64 (s.peek (d.home + 16) 8 + 32 * i)
        let payload ← deliver x.entry 8 lva
        modify fun s => s.putSweep { w with items := w.items.set i { x with handed := true } }
        acquire .device
        modCpu fun t => (t.setReg a.toNat (BitVec.ofNat 64 i)).setReg (a.toNat + 1) (BitVec.ofNat 64 (leNat payload))
        done (.cbnext c a)) s

/-- CBDONE (R394): it waits for the earlier accesses, and then tests and marks in one step. -/
def execCbdone (c : Chain) (a : Reg) (s : State) : Host.Outcome State Fault Refusal :=
  runChain c (.cbdone c a) (do
    gate (.cbdone c a) false .any
    checkUses [.rd a]
    let i ← readG a
    engineRelease .device
    let d ← getDesc
    match d.sweep with
    | none => trap Cause.prot i
    | some w =>
      match if w.running then w.items[i.toNat]? else none with
      | none => trap Cause.prot i
      | some x => do
        trapIf (!x.handed || x.done) Cause.prot i
        let w' := { w with items := w.items.set i.toNat { x with done := true } }
        modify fun s => s.putSweep w'
        if w'.finished then finishSweep w' else pure ()
        done (.cbdone c a)) s

end Sys2Proof.Machine
end

