-- ==== Sys2Proof/Machine/Gangs.lean ====
section
/-!
DEFINITION. What launches, tasks, spills and drains share: partitions and reservations (R401, R418), the scrub of a core
that changes context (R422), placing the members of a gang (R56, R59, R69, R70, R117, R120, R236), task records and
successors (R408 to R415), the release of a slot (R61, R93) and the charge of thread-cycles (R417).
-/
namespace Sys2Proof.Machine

/-! Tenants and partitions (R401). -/

/-- PART of a cluster. -/
def State.partOf (s : State) (c : Nat) : Nat := if h : c < 384 then s.clupart[c].toNat else 0
/-- TENCFG of a tenant. -/
def State.tenant (s : State) (n : Nat) : Word := if h : n < 16 then s.tencfg[n] else 0
/-- The tenant may launch. -/
def tenEn (w : Word) : Bool := w.getLsbD 0
/-- Its partition. -/
def tenPart (w : Word) : Nat := field w 1 4
/-- The quantum times WEIGHT; a WEIGHT of 0 acts as 1. -/
def tenQuantum (w : Word) : Nat := 2 ^ (20 + field w 13 4) * max 1 (field w 5 8)
/-- The clusters of a tenant's partition, ascending. -/
def State.partition (s : State) (ten : Nat) : List Nat := (upTo 384).filter fun c => s.partOf c == tenPart (s.tenant ten)
/-- `c` and the next partition clusters of its die, `n` in all, if there are so many (R416). -/
def State.spanFrom (s : State) (ten c n : Nat) : Option (List Nat) :=
  let cs := ((s.partition ten).filter fun d => decide (c ≤ d) && d / 64 == c / 64).take n
  if cs.length = n && cs.head? == some c then some cs else none

/-- The cluster indices, of `n`, whose rows hold one of the ranks (R70, R236). -/
def indicesOf (n : Nat) (ranks : List Nat) : List Nat := (upTo n).filter fun i => ranks.any fun r => r / 8 % n == i

/-- The clusters of a gang of `n` cluster indices from `c` on, of which only those in `need` take one (R236): an index that needs
none is given `c`. -/
def State.spanFor (s : State) (ten c n : Nat) (need : List Nat) : Option (List Nat) :=
  (s.spanFrom ten c need.length).map fun cs =>
    (upTo n).map fun i => if need.contains i then cs.getD (need.filter fun j => decide (j < i)).length c else c

/-- The reservation is for the gang of queue entry `q` (R418). -/
def Hold.isFor (h : Hold) (q : QEntry) : Bool :=
  h.cluster == q.cluster && h.tenant == q.tenant && h.launch == q.launch && h.task == q.task && h.resume == q.resume

/-- No reservation for another gang than that of `q` holds one of the clusters (R418). -/
def State.unreserved (s : State) (q : QEntry) (cs : List Nat) : Bool :=
  cs.all fun d => match first? (fun h => h.clusters.contains d) s.holds with
    | some h => h.isFor q
    | none => true

/-! Cores and their registers. -/

/-- The unit takes no new user: it is retired, has failed, or runs a self-test (R478, R479). -/
def State.unitBarred (s : State) (u : TestUnit) : Bool :=
  (s.retired ++ s.failing).contains u || s.events.any fun e => match e with | .selfTestVerdict v _ => v == u | _ => false
/-- The core admits no gang: it, or the matrix unit of its cluster, takes no new user (R478, R479). -/
def State.coreRetired (s : State) (k : Nat) : Bool := s.unitBarred (.core k) || s.unitBarred (.matrix (k / 8))
/-- Register row `j` of core `k` is allotted, or is barred (R56). -/
def State.rowUsed (s : State) (k j : Nat) : Bool :=
  s.unitBarred (.row k j) || (s.usersOf k).any fun t => decide (t.rbase ≤ j) && decide (j < t.rbase + t.nregs / 8)
/-- Vector entry `j` of core `k` is allotted, or is barred (R117). -/
def State.vecUsed (s : State) (k j : Nat) : Bool :=
  s.unitBarred (.vec k j) || (s.usersOf k).any fun t => decide (t.vbase ≤ j) && decide (j < t.vbase + t.nvregs)
/-- The lowest base of `n` unused places in a row, of `total` (R59, R120). -/
def runOf (total n : Nat) (used : Nat → Bool) : Option Nat :=
  if n ≤ total then first? (fun b => (upTo n).all fun j => !used (b + j)) (upTo (total + 1 - n)) else none

/-- The core can change context: no slot of the old one is occupied, its mailbox, scoreboard and batch rows are empty
(R300, R422). -/
def State.coreEmpty (s : State) (k : Nat) : Bool :=
  (s.usersOf k).isEmpty && (s.core k).mailbox.isEmpty && (s.core k).score.isEmpty && (s.core k).rows.isEmpty

/-- The sluice slot's thread as it starts the standard program (R54, R299). -/
def sluiceThread (k ctx tenant : Nat) : Thread :=
  { Thread.free (64 * k + 63) with
    state := .ready, sup := true, ctx := ctx, tenant := tenant, launch := 64, size := 1, nregs := 32, pc := BitVec.ofNat 64 Config.sluiceCode }

/-- Release every window of core `k` that satisfies `p` (R186). -/
def State.releaseWindows (s : State) (k : Nat) (p : Window → Bool) : State :=
  ((s.core k).windows.filter p).foldl (fun s w => s.releaseWindow k w.num) s

/-- Scope codes of kind-3 audit entries, in the order of R476's table (notes/assumptions/14.md). -/
abbrev scopeSlot : Nat := 0
abbrev scopeCore : Nat := 1
abbrev scopeL2 : Nat := 2
abbrev scopeTranslation : Nat := 3
abbrev scopeMemory : Nat := 4

/-- Core `k` joins context `ctx` (R299, R422): windows, cistern, L1 data and instruction caches, format context, handles, streams
and micro-TLBs are scrubbed, failing lines of its handles are retired (R479), and the sluice slot starts the standard program. -/
def State.scrubCore (s : State) (k ctx : Nat) : State :=
  let s := s.releaseWindows k fun _ => true
  let s := s.dropResv fun r => r.holder == 64 * k + 63
  let s := (nub ((s.tracked.filter fun h => h.core == k).map fun (h : Held) => lineOf h.grain)).foldl (fun (s : State) a => s.dropL1 k a) s
  let c := s.core k
  let lo := cisternKey k 0
  let hi := cisternKey k Config.cisternBytes
  let s := s.putCore { Core.fresh k with cycle := c.cycle, ctx := some ctx }
  let s := { s with
    mem := s.mem.filter fun x => decide (x.1 < lo) || decide (hi ≤ x.1)
    bad := s.bad.filter fun b => decide (32 * b < lo) || decide (hi ≤ 32 * b)
    copies := s.copies.filter fun x => x.holder != k }
  ((s.putThread (sluiceThread k ctx (s.contextD ctx).tenant)).retireIdle).post (.scrubComplete ctx scopeCore k)

/-! Placing a gang. -/

/-- A member to be placed: its thread, and the windows and format context it brings (R236). -/
structure Seat where
  thread : Thread
  windows : List Window
  fmt : Option FmtCtx
deriving Repr

/-- A gather or scatter that waits has checked a handle of core `k` whose ring lies on one of the lines `f` to `f + n - 1` (R138). -/
def State.ringPinned (s : State) (k f n : Nat) : Bool :=
  s.threads.any fun t => t.waiting && (upTo 8).any fun j => t.pins.contains (k, 8 + j) && ((s.core k).handles.toList.getD j Handle.none).meets f n

/-- A window number, a cistern line or a VA of `w` is taken on core `k` (R186), or a gather or scatter that waits has checked a handle
over its lines (R138). -/
def State.windowTaken (s : State) (k : Nat) (w : Window) : Bool :=
  (s.core k).windows.any (fun x => x.num == w.num || linesMeet w.f w.n x.f x.n || overlaps w.va (512 * w.n) x.va (512 * x.n)) ||
    s.linesFailed k w.f w.n || s.linesTested k w.f w.n || s.ringPinned k w.f w.n

/-- The core as the context finds it: its own, or one it can join. -/
def State.joinCore (s : State) (k ctx : Nat) : Option State :=
  if s.coreRetired k then none
  else if (s.core k).ctx = some ctx then some s
  else if s.coreEmpty k then some (s.scrubCore k ctx) else none

/-- Load a member into slot `id`, if its core can host it (R59, R120, R236). -/
def State.seatAt (s : State) (ctx id : Nat) (m : Seat) : Option State :=
  let k := id / 64
  match s.joinCore k ctx with
  | none => none
  | some s =>
    match runOf 256 (m.thread.nregs / 8) (s.rowUsed k), runOf 256 m.thread.nvregs (s.vecUsed k) with
    | some rb, some vb =>
      let c := s.core k
      if m.windows.any (s.windowTaken k) || (m.fmt.isSome && c.fmt.holder.isSome) then none
      else
        let s := s.putThread { m.thread with id := id, rbase := rb, vbase := vb }
        let ws := m.windows.map fun w => { w with owner := id, fills := [] }
        some (s.putCore { c with windows := c.windows ++ ws
                                 fmt := match m.fmt with | some f => { f with holder := some id } | none => c.fmt })
    | _, _ => none

/-- SLOTID of slot `n` of core `j` of cluster `c`. -/
def slotId (c j n : Nat) : Nat := 512 * c + 64 * j + n

/-- Load the members of one row, which share a slot number, at `n`. -/
def State.seatRowAt (ctx c n : Nat) : List Seat → State → Option State
  | [], s => some s
  | m :: ms, s => (s.seatAt ctx (slotId c (m.thread.rank.toNat % 8) n) m).bind (State.seatRowAt ctx c n ms)

/-- Load one row at the lowest slot number that is free on every core it needs (R416). -/
def State.seatRow (s : State) (ctx c : Nat) (ms : List Seat) : Option State :=
  match first? (fun n => ms.all fun m => (s.thread? (slotId c (m.thread.rank.toNat % 8) n)).isNone) (upTo 63) with
  | some n => State.seatRowAt ctx c n ms s
  | none => none

/-- Load the rows `js` of the members: row j goes to the cluster of index j mod the number of clusters (R70). -/
def State.seatRows (ctx : Nat) (cs : List Nat) (ms : List Seat) : List Nat → State → Option State
  | [], s => some s
  | j :: js, s =>
    match ms.filter fun m => m.thread.rank.toNat / 8 == j with
    | [] => State.seatRows ctx cs ms js s
    | row => (s.seatRow ctx (cs.getD (j % cs.length) 0) row).bind (State.seatRows ctx cs ms js)

/-- Load members on the clusters given. -/
def State.seatGang (s : State) (ctx : Nat) (cs : List Nat) (ms : List Seat) : Option State :=
  State.seatRows ctx cs ms (upTo 252) s

/-- Load members on the cores they left, at slot numbers of their rows' choice: a pinned gang (R236, R313). `left` gives
the cluster a rank left. -/
def State.seatPinned (ctx : Nat) (left : Nat → Nat) (ms : List Seat) : List Nat → State → Option State
  | [], s => some s
  | j :: js, s =>
    match ms.filter fun m => m.thread.rank.toNat / 8 == j with
    | [] => State.seatPinned ctx left ms js s
    | m :: row => (s.seatRow ctx (left m.thread.rank.toNat) (m :: row)).bind (State.seatPinned ctx left ms js)

/-- The device with every core empty: what a gang can ever be offered (R238). -/
def State.emptied (s : State) : State := { s with cpu := Thread.free 0, others := [], cores := [], events := [], holds := [] }

/-! Task records (R408, R409). -/

/-- A task record at its home. -/
structure TaskRec where
  home : Nat
  entry : Word
  shape : Word
  arg : Word
  succ : Word
  nsucc : Nat
  dep : Int
  save : Word
  graphno : BitVec 32
  /-- The reserved word at 0x34. -/
  pad : Nat
  state : Nat
deriving DecidableEq, Repr

/-- Read the record at device address `a`. -/
def State.taskRec (s : State) (a : Nat) : TaskRec :=
  let dw (o n : Nat) : Nat := s.peek (a + o) n
  { home := a, entry := BitVec.ofNat 64 (dw 0 8), shape := BitVec.ofNat 64 (dw 8 8), arg := BitVec.ofNat 64 (dw 0x10 8),
    succ := BitVec.ofNat 64 (dw 0x18 8), nsucc := dw 0x20 4, dep := (BitVec.ofNat 32 (dw 0x24 4)).toInt,
    save := BitVec.ofNat 64 (dw 0x28 8), graphno := BitVec.ofNat 32 (dw 0x30 4), pad := dw 0x34 4, state := dw 0x38 8 }

namespace TaskRec
def size (r : TaskRec) : Nat := field r.shape 0 11
def nregs (r : TaskRec) : Nat := field r.shape 16 8
def nvregs (r : TaskRec) : Nat := field r.shape 24 5
def pin (r : TaskRec) : Bool := r.shape.getLsbD 32
def sup (r : TaskRec) : Bool := r.shape.getLsbD 33
/-- The record is valid (R409). -/
def valid (r : TaskRec) : Bool :=
  decide (1 ≤ r.size) && decide (r.size ≤ 2016) && r.nregs % 8 == 0 && decide (8 ≤ r.nregs) && decide (r.nregs ≤ 128) &&
    decide (r.nvregs ≤ 16) && !r.entry.getLsbD 0 && decide (r.entry.toNat < Config.vaEnd) && r.succ.toNat % 8 == 0 &&
    decide (r.nsucc ≤ 4096) && field r.shape 11 5 == 0 && field r.shape 29 3 == 0 && field r.shape 34 30 == 0 && r.pad == 0
end TaskRec

/-- Home address of `va` for an engine acting for context `ctx`: a plain page homed on the device with the permissions,
and no error in its `n` bytes. -/
def State.engineReach (s : State) (die ctx : Nat) (va : Word) (n : Nat) (rd wr : Bool) : Option Nat :=
  match reachAs (Walker.engine die ctx) va rd wr s with
  | .ok (x, _) => if x.entry.kind == 0 && x.home == 0 && !(rd && s.badAt x.pa n) then some x.pa else none
  | .error _ => none

/-- An uncorrectable error that `engineReach` has met leads to a self-test (R478). -/
def State.engineErr (s : State) (die ctx : Nat) (va : Word) (n : Nat) (rd wr : Bool) : State :=
  match reachAs (Walker.engine die ctx) va rd wr s with
  | .ok (x, _) => if x.plainDevice && rd && s.badAt x.pa n then s.selfTest (s.badUnit x.pa n) else s
  | .error (.memerr unit _ _) => s.selfTest unit
  | .error _ => s

/-! Queues (R415). -/

/-- The entries that take a place in the queue of a cluster and a tenant. -/
def State.queued (s : State) (c ten : Nat) : List QEntry := s.queues.filter fun q => q.cluster == c && q.tenant == ten && q.resume.isNone

/-- Agent `a` enqueues a task near cluster `near`, or none when every queue of its tenant is full. It counts as a message sent
(R415, R420). -/
def State.enqueue (s : State) (near a : Nat) (q : QEntry) : Option State :=
  let p := s.partition q.tenant
  let before := p.filter fun c => decide (c < near)
  let order := if p.contains near then p.drop before.length ++ before else p
  match first? (fun c => decide ((s.queued c q.tenant).length < 1024)) order with
  | some c => some (({ s with queues := s.queues ++ [{ q with cluster := c }] } : State).sends q.launch a)
  | none => none

/-- A new queue entry. -/
def entryOf (ctx ten launch : Nat) (task : Word) (rootSup : Bool) : QEntry :=
  { cluster := 0, tenant := ten, ctx := ctx, launch := launch, task := task, rootSup := rootSup, resume := none, reported := false, since := none, counted := 0 }

/-- An agent of `die` writes `n` bytes at `a` at their home. -/
def State.pokeFrom (s : State) (die a n v : Nat) : State := (s.poke a n v).syncCopies die a n

/-- A change of DEP by `d` (R413), made by an agent of `die`: the old value, and when it is not refused the state after it and whether
the task is to be enqueued. -/
def State.depChange (s : State) (die : Nat) (r : TaskRec) (d : Int) : Option (State × Bool) :=
  let new := r.dep + d
  if decide (new < 0) || decide (new > 2 ^ 31 - 1) || r.state % 4 != 0 then none
  else
    let go := decide (new = 0) && decide (r.dep ≠ 0)
    let s := s.pokeFrom die (r.home + 0x24) 4 new.toNat
    some (if go then s.pokeFrom die (r.home + 0x38) 8 1 else s, go)

/-- Whose work a task is: the die and cluster of the core that completes it and the agent it counts as, its context, tenant and
launch. -/
structure Owner where
  die : Nat
  near : Nat
  agent : Nat
  ctx : Nat
  tenant : Nat
  launch : Nat
deriving DecidableEq, Repr

/-- A decrement that is refused adds 1 to DEPERR (R414). -/
def State.depErr (s : State) (o : Owner) : State := s.modLaunch o.launch fun l => { l with deperr := l.deperr + 1 }

/-- Count down one successor (R412 to R414), or none while every queue is full. DESIGN CHOICE: a VA of a successor that is no multiple of
64, or whose page is not readable and writable, counts one DEPERR like one that is not present (notes/assumptions/70.md). -/
def State.countDown (s : State) (o : Owner) (list : Word) : Option State :=
  match s.engineReach o.die o.ctx list 8 true false with
  | none => some ((s.engineErr o.die o.ctx list 8 true false).depErr o)
  | some a =>
    let va := BitVec.ofNat 64 (s.peek a 8)
    match if va.toNat % 64 = 0 then s.engineReach o.die o.ctx va 64 true true else none with
    | none => some ((if va.toNat % 64 = 0 then s.engineErr o.die o.ctx va 64 true true else s).depErr o)
    | some h =>
      match s.depChange o.die (s.taskRec h) (-1) with
      | none => some (s.depErr o)
      | some (s, true) => s.enqueue o.near o.agent (entryOf o.ctx o.tenant o.launch va false)
      | some (s, false) => some s

/-- Count down `n` successors of the list at `list` from number `i` on, in ascending order and one at a time: none when all are
counted down, or the number of the first that finds every queue full (R412, R415). -/
def State.countDowns (o : Owner) (list : Word) : Nat → Nat → State → Option Nat × State
  | 0, _, s => (none, s)
  | n + 1, i, s =>
    match s.countDown o (list + BitVec.ofNat 64 (8 * i)) with
    | some s => State.countDowns o list n (i + 1) s
    | none => (some i, s)

/-- Complete the task whose record lies at `va`, of whose successors `i` have been counted down (R410, R412): none once it is
complete, with STATE 3, and CANC when it was dropped; or how many have been counted down by now. DESIGN CHOICE: a task whose record cannot
be reached any more counts nothing down, and its STATE stays (notes/assumptions/70.md). -/
def State.finishTask (s : State) (o : Owner) (va : Word) (canc : Bool) (i : Nat) : Option Nat × State :=
  match s.engineReach o.die o.ctx va 64 true true with
  | none => (none, s.engineErr o.die o.ctx va 64 true true)
  | some h =>
    let r := s.taskRec h
    match State.countDowns o r.succ (r.nsucc - i) i s with
    | (some j, s) => (some j, s)
    | (none, s) => (none, s.pokeFrom o.die (h + 0x38) 8 (if canc then 7 else 3))

/-! Thread-cycles (R417). -/

/-- Charge a gang's accrued thread-cycles to its launch and to its tenant's deficit at the admitting cluster. -/
def State.charge (s : State) (g : Gang) : State :=
  let k := (g.home, g.tenant)
  let s := { s with deficits := assocSet k (assocD 0 k s.deficits - (g.accrued : Int)) s.deficits
                    gangs := mapFirst (fun x => x.id == g.id) (fun x => { x with accrued := 0 }) s.gangs }
  s.modLaunch g.launch fun l => { l with thrcyc := l.thrcyc + g.accrued }

/-! Retirement and the release of a slot (R61, R93, R479). -/

/-- A gather or scatter that waits has checked a window of `t`, or a handle whose ring lies on one (R138): the window stays until it has
run. -/
def State.pinned (s : State) (t : Thread) : Bool :=
  (s.core t.coreId).windows.any fun w => w.owner == t.id &&
    s.threads.any fun u => u.id != t.id && u.waiting &&
      (u.pins.contains (t.coreId, w.num) ||
        (upTo 8).any fun j => u.pins.contains (t.coreId, 8 + j) && ((s.core t.coreId).handles.toList.getD j Handle.none).meets w.f w.n)

/-- Thread `t` gives up what it holds besides its registers: windows, format context, reservation, weir entries, batch row
unless a batch of it is unfinished (R92, R234, R253, R305). -/
def State.dropHoldings (s : State) (t : Thread) : State :=
  let s := s.releaseWindows t.coreId fun w => w.owner == t.id
  let s := if (s.core t.coreId).fmt.holder = some t.id then s.freeFmt t.coreId else s
  let s := s.dropResv fun r => r.holder == t.id
  let s := { s with weir := s.weir.filter fun w => w.slot != t.id }
  if t.batch.quiet then s.putCore { s.core t.coreId with rows := (s.core t.coreId).rows.filter fun r => r.owner != some t.id } else s

/-- The event answers a request, or a store to a peer, of slot `id`. -/
def repliesTo (id : Nat) (e : Instr) : Bool := match e with | .accessReply slot _ => slot == id | _ => false

/-- A number that no slot and no store on its way has, for what the thread of slot `id` leaves behind. -/
def State.orphanNo (s : State) (id : Nat) : Nat :=
  (first? (fun n => !s.owedStores.any fun o => o.slot == n) ((upTo (s.owedStores.length + 1)).map fun j => id + 2 ^ 20 * (j + 1))).getD 0

/-- The event once the thread of slot `id` has left: an answer on its way is for what it has left behind, by number `n`, and that to a
multicast is for nobody (R444). -/
def leftBehind (id n : Nat) (e : Instr) : Option Instr :=
  match e with
  | .accessReply slot a => some (.accessReply (if slot = id then n else slot) a)
  | .mcstAnswer slot _ _ => if slot = id then none else some e
  | e => some e

/-- The thread `t` leaves its slot while stores of it to peers are on their way (R92, R212): they and their answers go by a number that
no slot has. -/
def State.orphan (s : State) (t : Thread) : State :=
  { s with
    owedStores := s.owedStores.map (OwedStore.renamed t.id (s.orphanNo t.id))
    events := (if t.reply.out then dropFirst (repliesTo t.id) s.events else s.events).filterMap (leftBehind t.id (s.orphanNo t.id)) }

/-- The slot of `t` becomes Free and is scrubbed (R61, R476), and units that failed in use are retired (R479). -/
def State.vacate (s : State) (t : Thread) : State :=
  ((s.orphan t).freeThread t.id).retireIdle.post (.scrubComplete t.ctx scopeSlot t.id)

/-- The slot of `t` becomes Free, with all that `t` holds (R61). -/
def State.release (s : State) (t : Thread) : State := (if t.isRill then s else s.dropHoldings t).vacate t

/-- Gang `g` is gone once no member lives and none holds a slot; what it has accrued by then is charged (R417). -/
def State.dropGang (s : State) (id : Nat) : State :=
  match s.gang? id with
  | some g =>
    if g.members.all (fun m => !m.live) && !s.threads.any (fun t => t.gang == id && !t.isRill && !t.isSluice) then
      let s := if g.accrued = 0 then s else s.charge g
      { s with gangs := s.gangs.filter fun x => x.id != id }
    else s
  | none => s

/-- The owner of the work of thread `t`. -/
def Thread.owner (t : Thread) : Owner := { die := t.die, near := t.clusterId, agent := t.agent, ctx := t.ctx, tenant := t.tenant, launch := t.launch }

end Sys2Proof.Machine
end

