-- ==== Sys2Proof/Machine/Spill.lean ====
section
/-!
DEFINITION. The spill engine and restore (R233 to R238, R490, R331): save records (R235, R307), and the events GANG_SPILL,
GANG_RESTORE and THREAD_LOAD_COMPLETE.
-/
namespace Sys2Proof.Machine

/-- The members of gang `id` that hold a slot. -/
def State.membersOf (s : State) (id : Nat) : List Thread := s.threads.filter fun t => t.gang == id && !t.isRill && !t.isSluice

/-- What MCWAIT writes (R447). -/
def Thread.mcWord (t : Thread) : Word :=
  BitVec.ofNat 64 (t.mcPos.toNat + t.mcNeg.toNat * 2 ^ 16 + if t.mcNeg == 0 then 0 else t.mcLow.toNat * 2 ^ 32 + 2 ^ 44)

/-! Save records (R235). -/

/-- The numbers of the special registers that a record holds, in order (R235). -/
def savedNumbers : List Nat := [0, 1, 2, 3, 4, 6, 7, 8, 9, 10, 17, 18, 19]

/-- A window record (R235). -/
def windowBytes (w : Option Window) : List Byte :=
  match w with
  | some w => leBytes 8 w.va ++ leBytes 8 (w.f + w.n * 2 ^ 8 + 2 ^ 63)
  | none => List.replicate 16 0

/-- The parts of the save record of `t` by offset, without doubleword 0 (R235, R331). DESIGN CHOICE: the 16 bytes at 0x88 to 0x97, which
the row of 128 bytes of special registers leaves over, are written as 0, and the bytes at 0xA10 to 0xFFF are not written
(notes/assumptions/62.md). -/
def State.recordOf (s : State) (t : Thread) : List (Nat × List Byte) :=
  let ws := (s.core t.coreId).windows.filter fun w => w.owner == t.id
  let f := (s.core t.coreId).fmt
  let held := f.holder == some t.id
  [ (0x08, leBytes 8 t.pc.toNat ++ leBytes 8 t.p.toNat ++ savedNumbers.flatMap (fun k => leBytes 8 (s.special t k).toNat) ++
      leBytes 8 t.dmode.toNat ++ List.replicate 16 0),
    (0x98, leBytes 8 t.flume.length ++ ((t.flume ++ List.replicate 8 0).take 8).flatMap fun (x : Word) => leBytes 8 x.toNat),
    (0xE0, (upTo 8).flatMap fun n => windowBytes (first? (fun w => w.num == n) ws)),
    (0x160, t.batch.bytes),
    (0x1E0, leBytes 32 (if held then f.cfg.toNat else 0)),
    (0x200, (upTo 128).flatMap fun j => leBytes 8 (if j < t.nregs then t.reg j else 0).toNat),
    (0x600, t.v.toList.flatMap vecBytes),
    (0xA00, leBytes 8 t.mcWord.toNat ++ List.replicate 8 0) ] ++
  if held then (upTo 4).map fun j => (0x1000 + 0x1000 * j, ((f.tiles.toList.getD j (Vector.replicate 1024 0)).toList).flatMap fun x => leBytes 4 x.toNat)
  else []

/-- Where the two pages of a save record lie. -/
structure SavePages where
  lo : Nat
  hi : Nat
deriving DecidableEq, Repr

/-- The device address of offset `o`. -/
def SavePages.at (p : SavePages) (o : Nat) : Nat := if o < 0x4000 then p.lo + o else p.hi + (o - 0x4000)

/-- VA of the save record of rank `r`. -/
def saveVa (base : Word) (r : Nat) : Word := base + BitVec.ofNat 64 (0x8000 * r)

/-- The pages of the save record at `va`, if it can be used (R490). -/
def State.savePages (s : State) (die ctx : Nat) (va : Word) (rd wr : Bool) : Option SavePages :=
  if va.toNat % 0x8000 ≠ 0 then none
  else match s.engineReach die ctx va 0 rd wr, s.engineReach die ctx (va + 0x4000) 0 rd wr with
    | some lo, some hi => some { lo := lo, hi := hi }
    | _, _ => none

/-- Bytes of the save record at which registers and vector registers that hold an uncorrectable error stand, and the tiles of a
context `f` that it holds. -/
def Thread.badParts (t : Thread) (f : Option FmtCtx) : List (Nat × Nat) :=
  t.badG.map (fun (i : Nat) => (0x200 + 8 * i, 8)) ++ t.badV.map (fun (i : Nat) => (0x600 + 64 * i, 64)) ++
    (match f with | some f => f.badTiles.map fun (i : Nat) => (0x1000 + 0x1000 * i, 0x1000) | none => [])

/-- Save member `t` and free its slot (R234 steps 4 to 6): a batch row with an unfinished batch stays, to be written to the
record later (R305). What holds an error is stored with its check marked bad (R18). -/
def State.saveMember (s : State) (t : Thread) (p : SavePages) : State :=
  let f := (s.core t.coreId).fmt
  let held := f.holder == some t.id
  let parts := s.recordOf t
  let c := s.core t.coreId
  let entry := match lookup s (Walker.engine t.die t.ctx) (saveVa t.savearea t.rank.toNat).toNat with | .leaf e => some e | _ => none
  let s := if t.batch.quiet then s
    else s.putCore { c with rows := c.rows.map fun r => if r.owner == some t.id then { r with owner := none, batch := t.batch, save := some (p.at 0x160), entry := entry } else r }
  let s := s.dropHoldings t
  let s := parts.foldl (fun s x => s.writeFrom t.die (p.at x.1) x.2) s
  let s := (t.badParts (if held then some f else none)).foldl (fun s x => (s.markBad (p.at x.1) x.2).syncCopies t.die (p.at x.1) x.2) s
  let s := s.writeFrom t.die (p.at 0) (leBytes 8 (1 + (if t.state = .halted then 2 else 0) + if held then 4 else 0))
  let s := { s with gangs := mapFirst (fun g => g.id == t.gang) (fun g =>
    { g with members := g.members.map (fun (m : Member) => if m.rank == t.rank.toNat then 
      { m with slot := t.id, save := t.savearea, monctl := t.monctl, relScope := t.relScope, seen := t.seen, heard := t.heard,
               flow := t.flow, flumeFlow := t.flumeFlow } else m)
             faulters := match t.nomap with | some va => g.faulters ++ [(t.rank.toNat, va, 1025)] | none => g.faulters }) s.gangs }
  s.vacate t

/-! GANG_SPILL. -/

/-- Step 1 of R234 for the members of gang `id`: issue stops and parks are cancelled (R51, R90, R257). -/
def State.stopGang (s : State) (id : Nat) : State :=
  let parked := ((s.membersOf id).filter fun t => t.state == .parked).map (·.id)
  let s := { s with weir := s.weir.filter fun w => !parked.contains w.slot }
  s.mapThreads (fun t => t.gang == id && !t.isRill && !t.isSluice && (t.state == .ready || t.state == .parked))
    (fun t => { t.unwait with state := .spilling })

/-- The member cannot be saved yet (R50, R138, R229, R233, R234, R291, R331, R433, R441, R444). -/
def State.unsavable (s : State) (t : Thread) : Bool :=
  t.state == .stalled || t.state == .draining || t.state == .loading || t.mcOwed != 0 || s.owesNote t || s.pinned t || s.updating t.id ||
    s.owedStores.any (fun o => o.slot == t.id) || (t.postedA && !s.portA.posts.isEmpty) || (t.postedB && !s.portB.posts.isEmpty) ||
    (s.core t.coreId).score.any (fun e => e.owner == t.id && !e.taken) ||
    ((s.core t.coreId).fmt.holder == some t.id && !(s.core t.coreId).fmt.pending.isEmpty)

/-- Insert a thread by rank. -/
def insertRank (t : Thread) : List Thread → List Thread
  | [] => [t]
  | u :: us => if t.rank.toNat ≤ u.rank.toNat then t :: u :: us else u :: insertRank t us

/-- The pages of every member's save record, or the VA of the first record, by rank, that fails its check (R490). -/
def State.pagesOf (s : State) : List Thread → Except Word (List (Thread × SavePages))
  | [] => .ok []
  | t :: ts =>
    let va := saveVa t.savearea t.rank.toNat
    match s.savePages t.die t.ctx va false true, s.pagesOf ts with
    | none, _ => .error va
    | _, .error e => .error e
    | some p, .ok rest => .ok ((t, p) :: rest)

/-- A spill that cannot save: every member that would have been saved is halted in its slot, with a record of its own (R490). -/
def State.refuseSpill (s : State) (va : Word) : List Thread → State
  | [] => s
  | t :: ts =>
    let s := s.putThread { t with state := .halted }
    (s.post (.notificationRecord (trapNote t Cause.prot t.pc va 0 0 0))).refuseSpill va ts

/-- Save the members. -/
def State.saveAll : List (Thread × SavePages) → State → State
  | [], s => s
  | x :: xs, s => State.saveAll xs (s.saveMember x.1 x.2)

/-- What the spilled gang waits for: the first page future that a member of it met, whichever trigger the spill had (R230, R232,
R233); else a restore, or its place in its queue once it has been pre-empted (R417). -/
def Gang.waitsAfter (g : Gang) (why : SpillWhy) : GangState :=
  match first? (fun f => decide (f.2.2 ≤ 1024)) g.faulters with
  | some f => if f.2.2 = 1024 then .anyFuture else .future f.2.2
  | none => if why = .preempt then .resume else .restore

/-- One gang fewer waits for entry `i` of the context (R231). -/
def State.uncount (s : State) (ctx i : Nat) : State :=
  let a := (s.contextD ctx).futureAt i + 8
  s.poke a 8 (s.peek a 8 - 1)

/-- The gang waits for no future any more: each entry that counts it counts one less (R231), and what it keeps is the refusals. -/
def State.leaveFutures (s : State) (g : Gang) (keep : Bool) : State :=
  let s := (nub ((g.faulters.filter fun f => decide (f.2.2 < 1024)).map fun (f : Nat × Word × Nat) => f.2.2)).foldl (fun (s : State) i => s.uncount g.ctx i) s
  { s with gangs := mapFirst (fun x => x.id == g.id) (fun x => { x with faulters := if keep then x.faulters.filter fun f => f.2.2 == 1025 else [] }) s.gangs }

/-- A pending spill of the gang. -/
def isSpillOf (id : Nat) (e : Instr) : Bool := match e with | .gangSpill g _ => g == id | _ => false

/-- The resume entry of a gang (R417). -/
def Gang.entry (g : Gang) : QEntry := { entryOf g.ctx g.tenant g.launch g.task false with cluster := g.home, resume := some g.id }

/-- Gang `g` has been saved: it waits for what `Gang.waitsAfter` says; a pre-empted one is a resume entry at the head of its queue
(R417). -/
def State.afterSpill (s : State) (g : Gang) (why : SpillWhy) : State :=
  let st := g.waitsAfter why
  let s := { s with gangs := mapFirst (fun x => x.id == g.id) (fun x => { x with state := st }) s.gangs
                    events := s.events.filter fun e => !isSpillOf g.id e }
  match st with
  | .restore => s.post (.gangRestore g.id)
  | .resume => { s with queues := g.entry :: s.queues }
  | _ => s

/-- The pages of the members of gang `g`, which can all be saved, are there or not: it is saved, or halted (R490). -/
def State.spillGang (s : State) (g : Gang) (why : SpillWhy) : State :=
  let ts := (s.membersOf g.id).foldr insertRank []
  match s.pagesOf ts with
  | .error va =>
    let s := ts.foldl (fun s t => if saveVa t.savearea t.rank.toNat = va then (s.engineErr t.die t.ctx va 0 false true).engineErr t.die t.ctx (va + 0x4000) 0 false true else s) s
    let s := (s.refuseSpill va ts).leaveFutures g false
    { s with events := s.events.filter fun e => !isSpillOf g.id e }
  | .ok ps =>
    let s := State.saveAll ps s
    s.afterSpill ((s.gang? g.id).getD g) why

/-- GANG_SPILL (R233 to R235, R490). A member that cannot be saved yet makes the engine come back. -/
def execGangSpill (id : Nat) (why : SpillWhy) (s : State) : Host.Outcome State Fault Refusal :=
  match s.gang? id with
  | none => .next s
  | some g =>
    if g.state != .running && g.state != .loading then .next s
    else
      let s' := s.stopGang id
      if (s'.membersOf id).any s'.unsavable then .next (s'.post (.gangSpill id why))
      else awaitHost (.gangSpill id why) s' (.next (s'.spillGang g why))

/-! Restore (R236 to R238). -/

/-- The windows a record maps (R235). -/
def readWindows (dw : Nat → Nat) : List Window :=
  (upTo 8).flatMap fun n =>
    let x := BitVec.ofNat 64 (dw (0xE8 + 16 * n))
    if x.getLsbD 63 then [{ num := n, owner := 0, va := dw (0xE0 + 16 * n), f := field x 0 8, n := field x 8 9, fills := [] }] else []

/-- Batch state from its bytes (R307). -/
def readBatch (bs : List Byte) : Batch :=
  { ring := Vector.ofFn fun (j : Fin 64) => bs.getD j.val 0, opened := bs.getD 64 0,
    fbatch := BitVec.ofNat 64 (leNat ((bs.drop 0x48).take 8)), fva := BitVec.ofNat 64 (leNat ((bs.drop 0x50).take 8)),
    sealedNo := BitVec.ofNat 32 (leNat ((bs.drop 0x58).take 4)) }

/-- Bits of TRAPCAUSE that are not reserved (R221). -/
abbrev trapCauseBits : Word := 0xFFFFFFFF00010FFF

/-- Offset `o` of the record at `p` lies in a sector with an uncorrectable error. -/
def State.badRecord (s : State) (p : SavePages) (o : Nat) : Bool := s.badAt (p.at o) 1

/-- The doubleword at offset `o` of the record, as far as it is delivered (R18): 0 in a sector with an uncorrectable error. -/
def State.recordDw (s : State) (p : SavePages) (o : Nat) : Nat := if s.badRecord p o then 0 else s.peek (p.at o) 8

/-- `n` sectors of the record from offset `o` on, as `State.recordDw`. -/
def State.recordBytes (s : State) (p : SavePages) (o n : Nat) : List Byte :=
  (upTo n).flatMap fun j => if s.badRecord p (o + 32 * j) then List.replicate 32 0 else Memory.reads s.mem (p.at (o + 32 * j)) 32

/-- An error lies in the part of the record that holds more than registers, vector registers and tiles. -/
def State.badHeader (s : State) (p : SavePages) : Bool := s.badAt (p.at 0) 0x200 || s.badAt (p.at 0xA00) 16

/-- The thread a record holds, over what the gang keeps of its member (R235, R237). A register or vector register that the record
does not deliver holds an error (R18); one whose other parts are not delivered is halted (notes/assumptions/40.md). Bit 0 of the PC
is 0 (R26; notes/assumptions/43.md), and a DMODE of 3 is loaded as it stands (notes/assumptions/50.md). -/
def State.loadThread (s : State) (g : Gang) (m : Member) (p : SavePages) : Thread :=
  let dw (o : Nat) : Nat := s.recordDw p o
  let w (o : Nat) : Word := BitVec.ofNat 64 (dw o)
  let t : Thread := { Thread.free 0 with
    state := if dw 0 / 2 % 2 = 1 || s.badHeader p then .halted else .loading, sup := g.sup, ctx := g.ctx, tenant := g.tenant, task := g.task,
    graphno := g.graphno, launch := g.launch, gang := g.id, rank := BitVec.ofNat 11 m.rank, size := BitVec.ofNat 11 g.size,
    nregs := g.nregs, nvregs := g.nvregs, pc := evenPc (w 8), p := fixP ((w 0x10).setWidth 16), savearea := m.save, monctl := m.monctl,
    g := Vector.ofFn fun (j : Fin 128) => if j.val = 0 ∨ g.nregs ≤ j.val then 0 else w (0x200 + 8 * j.val)
    v := Vector.ofFn fun (j : Fin 16) => if g.nvregs ≤ j.val then 0 else ofVecBytes (s.recordBytes p (0x600 + 64 * j.val) 2)
    flume := (upTo (min (dw 0x98) 8)).map fun j => w (0xA0 + 8 * j)
    batch := readBatch (s.recordBytes p 0x160 4)
    mcPos := (w 0xA00).setWidth 16, mcNeg := (w 0xA00).extractLsb' 16 16, mcLow := (w 0xA00).extractLsb' 32 12,
    homeCoh := true, relScope := m.relScope, seen := m.seen, heard := m.heard, front := m.heard, flow := m.flow, flumeFlow := m.flumeFlow
    badG := (upTo g.nregs).filter fun j => j != 0 && s.badRecord p (0x200 + 8 * j)
    badV := (upTo g.nvregs).filter fun j => s.badAt (p.at (0x600 + 64 * j)) 64
    nomap := (first? (fun f => f.1 == m.rank && f.2.2 == 1025) g.faulters).map fun (f : Nat × Word × Nat) => f.2.1 }
  let t := (List.zip savedNumbers (upTo 13)).foldl (fun t x => t.setSpecial x.1 (w (0x18 + 8 * x.2))) t
  { t with trapcause := w (0x18 + 8 * 7) &&& trapCauseBits, dmode := (w 0x80).setWidth 2 }

/-- The format context a record holds (R331). A CFG that no FMTSET could have set is loaded as its low 5 bits stand
(notes/assumptions/41.md). -/
def State.loadFmt (s : State) (p : SavePages) : FmtCtx :=
  { holder := none, cfg := BitVec.ofNat 5 (s.recordDw p 0x1E0), pending := []
    badTiles := (upTo 4).filter fun j => s.badAt (p.at (0x1000 + 0x1000 * j)) 0x1000
    tiles := Vector.ofFn fun (j : Fin 4) => tileOf ((chunks 4 1024 (s.recordBytes p (0x1000 + 0x1000 * j.val) 128)).map fun b => BitVec.ofNat 32 (leNat b)) }

/-- A batch of the record at `p` that was unfinished at the spill has not finished (R237). -/
def State.rowsWait (s : State) (p : SavePages) : Bool := s.cores.any fun c => c.rows.any fun r => r.save == some (p.at 0x160)

/-- The live members of a spilled gang as they are to be placed; none while a record cannot be used or has to be waited
for. -/
def State.seatsOf (s : State) (g : Gang) : List Member → Option (List Seat)
  | [] => some []
  | m :: ms =>
    if !m.live then s.seatsOf g ms
    else
      match s.savePages (m.slot / 2 ^ 15 % 8) g.ctx (saveVa m.save m.rank) true false, s.seatsOf g ms with
      | some p, some rest =>
        if s.rowsWait p then none
        else some ({ thread := s.loadThread g m p, windows := readWindows (s.recordDw p)
                     fmt := if s.recordDw p 0 / 4 % 2 = 1 then some (s.loadFmt p) else none } :: rest)
      | _, _ => none

/-- Cluster that rank `r` left. -/
def Gang.left (g : Gang) (r : Nat) : Nat :=
  match first? (fun m => m.rank == r) g.members with | some m => m.slot / 512 % 512 | none => g.home

/-- The ranks of the seats. -/
def ranksOf (seats : List Seat) : List Nat := seats.map fun (m : Seat) => m.thread.rank.toNat

/-- Place the seats on the first clusters of the list that take them: the clusters and the state. A cluster index without a live
row needs no cluster (R236). -/
def State.placeOn (s : State) (g : Gang) (seats : List Seat) : List Nat → Option (List Nat × State)
  | [] => none
  | c :: rest =>
    match (s.spanFor g.tenant c (spanOf g.size) (indicesOf (spanOf g.size) (ranksOf seats))).filter (s.unreserved g.entry) with
    | none => s.placeOn g seats rest
    | some cs =>
      match s.seatGang g.ctx cs seats with
      | some s' => some (cs, s')
      | none => s.placeOn g seats rest

/-- Place a spilled gang: pinned ones on the cores they left, which lie in the tenant's partition and under no other reservation
(R401, R418), others from one of the clusters `cs` on (R236). -/
def State.placeGang (s : State) (g : Gang) (seats : List Seat) (cs : List Nat) : Option (List Nat × State) :=
  if g.pin then
    let old := (ranksOf seats).map g.left
    if old.all (s.partition g.tenant).contains && s.unreserved g.entry old then
      (State.seatPinned g.ctx g.left seats (upTo 252) s).map fun s => (g.clusters, s)
    else none
  else s.placeOn g seats cs

/-- The records of the members whose save record was not delivered (notes/assumptions/40.md). -/
def State.lostNotes (s : State) (g : Gang) : List Member → List Instr
  | [] => []
  | m :: ms =>
    let va := saveVa m.save m.rank
    match s.savePages (m.slot / 2 ^ 15 % 8) g.ctx va true false with
    | some p =>
      (if m.live && s.badHeader p then [.notificationRecord (trapNote (s.loadThread g m p) Cause.memerr (s.loadThread g m p).pc va 0 0 0)] else []) ++ s.lostNotes g ms
    | none => s.lostNotes g ms

/-- The errors met in the save records of the live members lead to self-tests (R478). -/
def State.recordTests (g : Gang) : List Member → State → State
  | [], s => s
  | m :: ms, s =>
    match if m.live then s.savePages (m.slot / 2 ^ 15 % 8) g.ctx (saveVa m.save m.rank) true false else none with
    | some p => State.recordTests g ms ((s.selfTest (s.badUnit p.lo 0x4000)).selfTest (s.badUnit p.hi 0x1000))
    | none => State.recordTests g ms s

/-- Restore a spilled gang on one of the clusters `cs`, if every live member can be placed (R236, R237). -/
def State.restoreGang (s : State) (g : Gang) (cs : List Nat) : Option State :=
  match s.seatsOf g g.members with
  | none => none
  | some seats =>
    let notes := s.lostNotes g g.members
    match s.placeGang g seats cs with
    | none => none
    | some (cs, s) =>
      let s := State.recordTests g g.members s
      let ts := s.membersOf g.id
      let s := ts.foldl (fun s t => s.dropUntracked t.die) s
      some { s with
        gangs := mapFirst (fun x => x.id == g.id) (fun x =>
          { x with state := if ts.all (fun t => t.state == .halted) then .running else .loading, home := cs.headD x.home, clusters := cs, faulters := []
                   members := x.members.map fun m => match first? (fun t => t.rank.toNat == m.rank) ts with | some t => { m with slot := t.id } | none => m }) s.gangs
        events := s.events ++ notes ++ (ts.filter fun t => t.state == .loading).map fun t => .threadLoadComplete t.id }

/-- The gang could not be placed on an empty device either (R238). -/
def State.neverFits (s : State) (g : Gang) (seats : List Seat) : Bool :=
  (s.emptied.placeGang g (seats.map fun m => { m with windows := [], fmt := none }) (s.partition g.tenant)).isNone

/-- The seat of the lowest rank (R238). -/
def lowestSeat (m : Seat) (ms : List Seat) : Seat :=
  ms.foldl (fun (b m : Seat) => if m.thread.rank.toNat < b.thread.rank.toNat then m else b) m

/-- The record of kind 3 of a gang (R227, R238). DESIGN CHOICE: its LEN is 0 (notes/assumptions/55.md). -/
def unplaceableNote (ctx launch : Nat) (task pc save : Word) (rank : BitVec 11) (nregs nvregs : Nat) (target : Target) : Note :=
  { ctx := ctx, kind := 3, cause := Cause.unplaceable, rank := rank, taskid := task, trappc := pc,
    trapval := BitVec.ofNat 64 (nregs + nvregs * 2 ^ 8), aux := rank.setWidth 32, len := 0, savearea := save, newpc := 0,
    target := target, launch := launch }

/-- Gang `g`, whose live members would be `m` and `ms`, can never be placed: it waits for an ACTION, and a record of kind 3 names the
lowest rank (R238). -/
def State.unplaced (s : State) (g : Gang) (m : Seat) (ms : List Seat) : State :=
  let m := lowestSeat m ms
  (s.putGang { g with state := .unplaceable }).post
    (.notificationRecord (unplaceableNote g.ctx g.launch g.task m.thread.pc m.thread.savearea m.thread.rank g.nregs g.nvregs (.gang g.id)))

/-- GANG_RESTORE (R236 to R238): it comes back until every live member can be placed. -/
def execGangRestore (id : Nat) (s : State) : Host.Outcome State Fault Refusal :=
  match s.gang? id with
  | none => .next s
  | some g =>
    if g.state != .restore then .next s
    else
      match s.restoreGang g (g.home :: s.partition g.tenant) with
      | some s' => .next s'
      | none =>
        match s.seatsOf g g.members with
        | some (m :: ms) =>
          if s.neverFits g (m :: ms) then .next (s.unplaced g m ms)
          else .next (s.post (.gangRestore id))
        | _ => .next (s.post (.gangRestore id))

/-- A load of a member of gang `id` is still to end. -/
def State.loading (s : State) (id : Nat) : Bool :=
  s.events.any fun e => match e with
    | .threadLoadComplete n => (match s.thread? n with | some t => t.gang == id && t.state == .loading | none => false)
    | _ => false

/-- THREAD_LOAD_COMPLETE: the slot becomes Ready; the members of a restored gang become Ready together (R52, R68, R237). -/
def execThreadLoadComplete (slot : Nat) (s : State) : Host.Outcome State Fault Refusal :=
  match s.thread? slot with
  | none => .next s
  | some t =>
    if t.state != .loading then .next s
    else
      match s.gang? t.gang with
      | some g =>
        if g.state == .loading then
          if s.loading g.id then .next s
          else
            let s := s.mapThreads (fun u => u.gang == g.id && !u.isRill && !u.isSluice && u.state == .loading) (fun u => { u with state := .ready })
            .next (s.putGang { g with state := .running })
        else .next (s.putThread { t with state := .ready })
      | none => .next (s.putThread { t with state := .ready })

end Sys2Proof.Machine
end

