-- ==== Sys2Proof/Machine/Tasks.lean ====
section
/-!
DEFINITION. Launches, tasks, queues and cancellation (R401 to R427): TQADD, DEPADD, CANCEL, and the events LAUNCH_PARSE,
LAUNCH_SWEEP, TASK_ADMIT, DEFICIT_CHARGE, RESERVATION_START, WORK_STEAL, CORE_CONTEXT_SCRUB and END_DRAIN_COMPLETE (R93).
-/
namespace Sys2Proof.Machine

/-! TQADD, DEPADD, CANCEL. -/

/-- The checks of R424: the task record at `v`. -/
def taskAt (i : Instr) (v : Word) : Exec TaskRec := do
  checkAlign v 64
  let x ← reach v true true
  if x.entry.kind != 0 || x.home != 0 then trapRegion v x.entry else pure ()
  let _ ← deliver x.key 64 v
  let s ← get
  let r := s.taskRec x.key
  trapIf (!r.valid) Cause.prot v
  trapIf (r.sup && !(s.contextD s.cpu.ctx).priv) Cause.priv (i.baseWord.setWidth 64)
  scoreCheck [rmwPlace x v 64] true
  hostCopy x.key 64
  engineRelease .device
  return r

/-- The current thread enqueues the task at `v`; it stalls while every queue of the tenant is full (R414, R415). -/
def enqueueHere (v : Word) : Exec Unit := do
  let s ← get
  match s.enqueue s.cpu.clusterId s.cpu.coreId (entryOf s.cpu.ctx s.cpu.tenant s.cpu.launch v false) with
  | some s' => set s'
  | none => stall

/-- TQADD (R425). -/
def execTqadd (c : Chain) (a : Reg) (s : State) : Host.Outcome State Fault Refusal :=
  runChain c (.tqadd c a) (do
    gate (.tqadd c a) false .notSluice
    checkUses [.rd a]
    let v ← readG a
    let r ← taskAt (.tqadd c a) v
    trapIf (r.state % 4 != 0 || decide (r.dep ≠ 0)) Cause.prot v
    modify fun s => s.pokeFrom s.cpu.die (r.home + 0x38) 8 1
    enqueueHere v
    done (.tqadd c a)) s

/-- DEPADD (R413, R426). -/
def execDepadd (c : Chain) (a b : Reg) (s : State) : Host.Outcome State Fault Refusal :=
  runChain c (.depadd c a b) (do
    gate (.depadd c a b) false .notSluice
    checkUses [.rw a, .rd b]
    let d ← readG a
    let v ← readG b
    let r ← taskAt (.depadd c a b) v
    match (← get).depChange (← getCpu).die r (d.setWidth 32).toInt with
    | none => trap Cause.prot v (BitVec.ofInt 32 r.dep)
    | some (s', go) => do
      set s'
      if go then enqueueHere v else pure ()
      writeG a (BitVec.ofInt 64 r.dep)
      done (.depadd c a b)) s

/-- CANCEL (R419, R427). -/
def execCancel (c : Chain) (a : Reg) (s : State) : Host.Outcome State Fault Refusal :=
  runChain c (.cancel c a) (do
    gate (.cancel c a) false .notSluice
    checkUses [.rd a]
    let x ← readG a
    let s ← get
    let inst : BitVec 32 := x.setWidth 32
    if s.cancelled s.cpu.tenant inst then done (.cancel c a)
    else do
      trapIf (decide ((s.cancels.filter fun e => e.tenant == s.cpu.tenant).length ≥ 64)) Cause.prot (inst.setWidth 64)
      modify fun s => { s with cancels := s.cancels ++ [{ tenant := s.cpu.tenant, inst := inst, launch := s.cpu.launch }] }
      done (.cancel c a)) s

/-! Launches (R402 to R407). -/

/-- Address of launch slot `k`. -/
def State.slotAt (s : State) (k : Nat) : Nat := s.island.lwin + 128 * k

/-- Write the completion of launch slot `k` with its code; the slot is idle, its cancel entries are free, and a SEQ byte
that has changed meanwhile is looked at again (R404, R407, R419). -/
def State.completeLaunch (s : State) (k : Nat) (code : Nat) : State :=
  let l := s.launch k
  let a := s.slotAt k
  let s := s.poke (a + 0x40) 8 code
  let s := s.poke (a + 0x48) 8 l.thrcyc
  let s := s.poke (a + 0x50) 8 l.tasks
  let s := s.poke (a + 0x58) 8 l.dropped
  let s := s.poke (a + 0x60) 8 l.deperr
  let s := s.poke (a + 0x68) 8 l.escal
  let s := s.poke (a + 0x7E) 1 l.accepted.toNat
  let s := { s with cancels := s.cancels.filter fun c => c.launch != k }
  let s := s.modLaunch k fun l => { Launch.idle with accepted := l.accepted }
  if Memory.lookup s.mem (a + 0x7F) = l.accepted then s else s.post (.launchParse k)

/-- Home addresses of the root records, with their VAs; none when one breaks code 4 (R406). DESIGN CHOICE: an uncorrectable error in the
root list or in a root record is code 4 (notes/assumptions/63.md). -/
def State.roots (s : State) (ctx : Nat) (list : Word) : List Nat → Option (List (Word × Nat))
  | [] => some []
  | j :: js =>
    match s.engineReach 0 ctx (list + BitVec.ofNat 64 (8 * j)) 8 true true with
    | none => none
    | some a =>
      let va := BitVec.ofNat 64 (s.peek a 8)
      match if va.toNat % 64 = 0 then s.engineReach 0 ctx va 64 true true else none, s.roots ctx list js with
      | some h, some rest => some ((va, h) :: rest)
      | _, _ => none

/-- The error that the parse meets in the root list or in a root record, if that is what stops it, leads to a self-test (R478). -/
def State.rootErr (ctx : Nat) (list : Word) : List Nat → State → State
  | [], s => s
  | j :: js, s =>
    let p := list + BitVec.ofNat 64 (8 * j)
    match s.engineReach 0 ctx p 8 true true with
    | none => s.engineErr 0 ctx p 8 true true
    | some a =>
      let va := BitVec.ofNat 64 (s.peek a 8)
      match if va.toNat % 64 = 0 then s.engineReach 0 ctx va 64 true true else none with
      | none => if va.toNat % 64 = 0 then s.engineErr 0 ctx va 64 true true else s
      | some _ => State.rootErr ctx list js s

/-- A launch record (R403). -/
structure LaunchRec where
  ctxw : Word
  list : Word
  nroot : Nat
deriving DecidableEq, Repr

/-- Read the record of launch slot `k`. -/
def State.launchRec (s : State) (k : Nat) : LaunchRec :=
  { ctxw := BitVec.ofNat 64 (s.peek (s.slotAt k) 8), list := BitVec.ofNat 64 (s.peek (s.slotAt k + 8) 8), nroot := s.peek (s.slotAt k + 0x10) 4 }

namespace LaunchRec
def ctx (r : LaunchRec) : Nat := field r.ctxw 0 12
def tenant (r : LaunchRec) : Nat := field r.ctxw 16 4
def sup (r : LaunchRec) : Bool := r.ctxw.getLsbD 32
end LaunchRec

/-- The parse of a record: the code of the first check that fails, or the roots (R405, R406). -/
def State.parse (s : State) (r : LaunchRec) : Except Nat (List (Word × Nat)) :=
  match s.context? r.ctx with
  | none => .error 1
  | some c =>
    if r.ctxw &&& ~~~0x1000F0FFF ≠ 0 || c.closing || c.tenant != r.tenant then .error 1
    else if !tenEn (s.tenant r.tenant) || (s.partition r.tenant).isEmpty then .error 2
    else if r.sup && !c.priv then .error 3
    else if r.nroot = 0 || decide (r.nroot > 65536) || r.list.toNat % 8 != 0 then .error 4
    else match s.roots r.ctx r.list (upTo r.nroot) with
      | none => .error 4
      | some rs =>
        if rs.any fun x => let t := s.taskRec x.2; !t.valid || (t.sup && !c.priv) || t.state % 4 != 0 || decide (t.dep ≠ 0) then .error 5
        else .ok rs

/-- Enqueue the roots in order, each near its cluster; those behind one that finds every queue full stay with the launch, and the
Headgate comes back to them (R405, R415). -/
def State.enqueueRoots (k : Nat) : List (Nat × Word) → State → State
  | [], s => s.modLaunch k fun l => { l with roots := [] }
  | (c, va) :: rest, s =>
    let l := s.launch k
    match s.enqueue c headgate (entryOf l.ctx l.tenant k va l.sup) with
    | some s => State.enqueueRoots k rest s
    | none =>
      let s := s.modLaunch k fun l => { l with roots := (c, va) :: rest }
      if s.events.contains (.launchParse k) then s else s.post (.launchParse k)

/-- Root `j` belongs to the partition cluster of index j mod P (R405). -/
def rootPlaces (p : List Nat) (roots : List (Word × Nat)) : List (Nat × Word) :=
  List.zipWith (fun j (r : Word × Nat) => (p.getD (j % p.length) 0, r.1)) (upTo roots.length) roots

/-- The new record of launch slot `k` is parsed: the roots become queued and are enqueued, or the launch completes with the code of
the first failure (R405, R406). -/
def State.parseSlot (s : State) (k : Nat) (seq : Byte) : State :=
  let r := s.launchRec k
  let s := s.modLaunch k fun _ => { Launch.idle with accepted := seq, ctx := r.ctx, tenant := r.tenant, sup := r.sup }
  match s.parse r with
  | .error code => (if code = 4 then State.rootErr r.ctx r.list (upTo (min r.nroot 65536)) s else s).completeLaunch k code
  | .ok roots =>
    let s := s.modLaunch k fun l => { l with running := true }
    let s := roots.foldl (fun (s : State) x => s.poke (x.2 + 0x38) 8 1) s
    State.enqueueRoots k (rootPlaces (s.partition r.tenant) roots) s

/-- The slot's record holds an uncorrectable error: nothing of it is taken. DESIGN CHOICE: the launch completes with code 4
(notes/assumptions/63.md). -/
def State.badLaunch (s : State) (k : Nat) (seq : Byte) : State :=
  let s := (s.selfTest (s.badUnit (s.slotAt k) 0x14)).modLaunch k fun _ => { Launch.idle with accepted := seq }
  s.completeLaunch k 4

/-- LAUNCH_PARSE (R404 to R406): of a launch that runs, the roots that are still to be enqueued. A SEQ byte that is not delivered starts
nothing (R18). -/
def execLaunchParse (k : Nat) (s : State) : Host.Outcome State Fault Refusal :=
  let seq := Memory.lookup s.mem (s.slotAt k + 0x7F)
  if decide (k ≥ 64) || s.island.recovery then .next s
  else if (s.launch k).running then .next (if (s.launch k).roots.isEmpty then s else State.enqueueRoots k (s.launch k).roots s)
  else if s.badAt (s.slotAt k + 0x7F) 1 then .next (s.selfTest (s.badUnit (s.slotAt k + 0x7F) 1))
  else if seq == (s.launch k).accepted then .next s
  else awaitHost (.launchParse k) s (.next (if s.badAt (s.slotAt k) 0x14 then s.badLaunch k seq else s.parseSlot k seq))

/-- The event is work of launch `k` on its way (R421). -/
def Instr.workOf (k : Nat) (e : Instr) : Bool :=
  match e with
  | .rupdApply r => r.launch == k
  | .rillAccept r => r.launch == k
  | _ => false

/-- Every agent is idle for launch `k` (R421). -/
def State.idleFor (s : State) (k : Nat) : Bool :=
  !s.threads.any (fun t => t.launch == k && !t.isSluice) && !s.queues.any (fun q => q.launch == k) && !s.gangs.any (fun g => g.launch == k) &&
    !s.cores.any (fun c => c.score.any fun e => e.launch == k) && !s.events.any (Instr.workOf k) && (s.launch k).roots.isEmpty

/-- The sum that the reduction tree returns for the counts of the agents (R421). -/
def sumOf (l : List (Nat × Nat)) : Nat := l.foldl (fun n x => n + x.2) 0

/-- LAUNCH_SWEEP: two successive sweeps that find every agent idle and the same equal sums end the launch, once no write to the host is on
its way (R421). -/
def execLaunchSweep (k : Nat) (s : State) : Host.Outcome State Fault Refusal :=
  let l := s.launch k
  if !l.running || (s.context? l.ctx).any (·.closing) then .next s
  else if s.idleFor k && sumOf l.sent == sumOf l.received then
    if l.sweep = some (sumOf l.sent) then
      if s.portA.posts.isEmpty && s.portB.posts.isEmpty then awaitHost (.launchSweep k) s (.next (s.completeLaunch k 0)) else .next s
    else .next (s.modLaunch k fun l => { l with sweep := some (sumOf l.sent) })
  else .next (s.modLaunch k fun l => { l with sweep := none })

/-! Admission (R416 to R419). -/

/-- The head entry of a queue. -/
def State.head (s : State) (c ten : Nat) : Option QEntry := first? (fun q => q.cluster == c && q.tenant == ten) s.queues

/-- The first entry of queue `(c, ten)` has gone: the deficit of a tenant whose queue is empty now is 0 (R417). -/
def State.emptyDeficit (s : State) (c ten : Nat) : State :=
  if s.queues.any fun x => x.cluster == c && x.tenant == ten then s else { s with deficits := assocSet (c, ten) 0 s.deficits }

/-- Cluster `c` takes the head entry off its queue, and receives the message that it is (R417, R418, R420). -/
def State.pop (s : State) (c : Nat) (q : QEntry) : State :=
  let mine (x : QEntry) : Bool := x.cluster == q.cluster && x.tenant == q.tenant
  let s := ({ s with queues := dropFirst mine s.queues, holds := s.holds.filter fun h => !h.isFor q } : State).emptyDeficit q.cluster q.tenant
  if q.resume.isNone then s.receives q.launch (queuesOf c) else s

/-- Owner of a queued task's work, at the die and cluster of its queue. -/
def QEntry.owner (q : QEntry) : Owner := { die := q.cluster / 64, near := q.cluster, agent := headgate, ctx := q.ctx, tenant := q.tenant, launch := q.launch }

/-- The record of a queued task, if the Headgate can read it. DESIGN CHOICE: a task whose record breaks R409 by now waits at the head of its
queue as one that cannot be read does (notes/assumptions/25.md). -/
def State.queuedRec (s : State) (q : QEntry) : Option TaskRec :=
  ((s.engineReach (q.cluster / 64) q.ctx q.task 64 true true).map s.taskRec).filter TaskRec.valid

/-- The level of a task: SHAPE.SUP acts only in a privileged context (R409, R414; notes/assumptions/42.md). -/
def State.taskSup (s : State) (q : QEntry) (r : TaskRec) : Bool := q.rootSup || (r.sup && (s.contextD q.ctx).priv)

/-- The members of a task's gang as they are launched (R60). -/
def launchSeats (q : QEntry) (r : TaskRec) (sup : Bool) (gang : Nat) : List Seat :=
  (upTo r.size).map fun rank =>
    { windows := [], fmt := none
      thread := { Thread.free 0 with
        state := .loading, sup := sup, ctx := q.ctx, tenant := q.tenant, task := q.task, graphno := r.graphno,
        launch := q.launch, gang := gang, rank := BitVec.ofNat 11 rank, size := BitVec.ofNat 11 r.size, nregs := r.nregs,
        nvregs := r.nvregs, pc := r.entry, savearea := r.save, homeCoh := true, g := (Thread.free 0).g.set 1 r.arg } }

/-- A thread just loaded as a member of its gang. -/
def memberOf (t : Thread) : Member :=
  { rank := t.rank.toNat, slot := t.id, live := true, save := t.savearea, monctl := 0, relScope := none, seen := [], heard := [],
    flow := [], flumeFlow := [] }

/-- The gang a task starts, with the threads just loaded. -/
def gangOf (q : QEntry) (r : TaskRec) (sup : Bool) (id : Nat) (cs : List Nat) (ts : List Thread) : Gang :=
  { id := id, launch := q.launch, ctx := q.ctx, tenant := q.tenant, sup := sup, task := q.task, graphno := r.graphno,
    size := r.size, nregs := r.nregs, nvregs := r.nvregs, pin := r.pin, save := r.save, home := cs.headD 0, clusters := cs, state := .running
    members := ts.map memberOf, faulters := [], counted := 0, completer := none, accrued := 0 }

/-- Admit the head entry `q` at cluster `c`, its own or a thief's, if it fits (R416, R418). -/
def State.admitTask (s : State) (c : Nat) (q : QEntry) : Option State :=
  match q.resume with
  | some id =>
    match s.gang? id with
    | none => some (s.pop c q)
    | some g => (s.restoreGang g [c]).map fun s => s.pop c q
  | none =>
    match s.queuedRec q with
    | none => none
    | some r =>
      match (s.spanFrom q.tenant c (spanOf r.size)).filter (s.unreserved q) with
      | none => none
      | some cs =>
        match if q.reported then none else s.seatGang q.ctx cs (launchSeats q r (s.taskSup q r) s.nextGang) with
        | none => none
        | some s' =>
          let ts := s'.membersOf s.nextGang
          let s' := { s' with gangs := s'.gangs ++ [gangOf q r (s.taskSup q r) s.nextGang cs ts], nextGang := s.nextGang + 1
                              events := s'.events ++ ts.map fun (u : Thread) => Instr.threadLoadComplete u.id }
          let s' := ts.foldl (fun s t => s.dropUntracked t.die) s'
          some ((s'.poke (r.home + 0x38) 8 2).pop c q)

/-- The task of the entry belongs to a cancelled instance (R419). -/
def State.doomed (s : State) (q : QEntry) : Bool :=
  match q.resume, s.queuedRec q with
  | none, some r => s.cancelled q.tenant r.graphno
  | _, _ => false

/-- Drop a head task whose instance has been cancelled, as far as its successors find queue entries (R412, R419); none when it is
not, or when nothing more can be counted down now. -/
def State.dropHead (s : State) (q : QEntry) : Option State :=
  if !s.doomed q then none
  else
    match s.finishTask q.owner q.task true q.counted with
    | (none, s) => some ((s.pop q.cluster q).modLaunch q.launch fun l => { l with dropped := l.dropped + 1 })
    | (some n, s) =>
      if n = q.counted then none else some { s with queues := mapFirst (fun x => x == q) (fun x => { x with counted := n }) s.queues }

/-- Report a head task, or the gang of a resume entry, that can never fit in the partition (R416, R238): the gang waits for its ACTION as
a spilled gang, and its entry is gone. -/
def State.reportHead (s : State) (q : QEntry) : Option State :=
  match q.resume, s.queuedRec q with
  | some id, _ =>
    match s.gang? id with
    | some g =>
      match s.seatsOf g g.members with
      | some (m :: ms) => if s.neverFits g (m :: ms) then some ((s.pop q.cluster q).unplaced g m ms) else none
      | _ => none
    | none => none
  | none, some r =>
    let fits := (s.partition q.tenant).any fun c => (s.emptied.admitTask c { q with reported := false }).isSome
    if q.reported || fits then none
    else
      let t : Target := .task q.cluster q.tenant q.task.toNat
      let mine (x : QEntry) : Bool := x.cluster == q.cluster && x.tenant == q.tenant
      some (({ s with queues := mapFirst mine (fun x => { x with reported := true }) s.queues } : State).post
        (.notificationRecord (unplaceableNote q.ctx q.launch q.task r.entry r.save 0 r.nregs r.nvregs t)))
  | _, _ => none

/-- The first result among the heads. -/
def firstSome (f : QEntry → Option State) : List QEntry → Option State
  | [] => none
  | q :: qs => match f q with | some s => some s | none => firstSome f qs

/-- Deficit of a tenant at a cluster. -/
def State.deficit (s : State) (c ten : Nat) : Int := assocD 0 (c, ten) s.deficits

/-- The heads of a cluster's queues, in the order of the rotation: after the tenant last served (R417). -/
def State.heads (s : State) (c : Nat) : List QEntry :=
  let from_ := assocD 15 c s.served
  (upTo 16).flatMap fun j => match s.head c ((from_ + 1 + j) % 16) with | some q => [q] | none => []

/-- Add the quantum times the weight to the deficit of each head's tenant (R417). -/
def State.addQuanta (s : State) (c : Nat) (hs : List QEntry) : State :=
  { s with deficits := hs.foldl (fun d q => assocSet (c, q.tenant) (assocD 0 (c, q.tenant) d + (tenQuantum (s.tenant q.tenant) : Int)) d) s.deficits }

/-- The youngest running gang of a tenant that cluster `c` admitted. -/
def State.youngest (s : State) (c ten : Nat) : Option Nat :=
  (s.gangs.filter fun g => g.home == c && g.tenant == ten && g.state == .running).foldl
    (fun b g => match b with | none => some g.id | some i => some (max i g.id)) none

/-- Spill the youngest gang of a tenant that is overdrawn at cluster `c` while another tenant's head cannot fit (R417). -/
def State.overdraft (s : State) (c : Nat) : State :=
  let blocked (ten : Nat) : Bool := (s.heads c).any fun q => q.tenant != ten && (s.admitTask c q).isNone
  match first? (fun ten => decide (s.deficit c ten < -(tenQuantum (s.tenant ten) : Int)) && (s.youngest c ten).isSome && blocked ten) (upTo 16) with
  | some ten =>
    match s.youngest c ten with
    | some g => if s.events.any (isSpillOf g) then s else s.post (.gangSpill g .preempt)
    | none => s
  | none => s

/-- Cluster `c` admits nothing of what it has queued: every other cluster of its partition that is not reserved looks for work, one that is
idle by then steals (R418). -/
def State.callThief (s : State) (c : Nat) : State :=
  let ds := (upTo 384).filter fun d => d != c && s.partOf d == s.partOf c && !s.holds.any fun h => h.clusters.contains d
  ds.foldl (fun (s : State) d => if s.events.contains (.workSteal d) then s else s.post (.workSteal d)) s

/-- One round of a cluster (R416, R417, R419). -/
def State.admitRound (s : State) (c : Nat) : State :=
  match firstSome s.dropHead (s.heads c) with
  | some s' => s'
  | none =>
    let hs := (s.heads c).filter fun q => !s.doomed q
    match firstSome s.reportHead hs with
    | some s' => s'
    | none =>
      match hs.filter fun q => decide (s.deficit c q.tenant > 0) with
      | [] =>
        if hs.isEmpty then { s with deficits := s.deficits.filter fun d => d.1.1 != c }
        else s.addQuanta c hs
      | q :: qs =>
        match firstSome (fun q => (s.admitTask c q).map fun s => { s with served := assocSet c q.tenant s.served }) (q :: qs) with
        | some s' => s'
        | none => (s.overdraft c).callThief c

/-- Errors met in the records of the head tasks of cluster `c` lead to self-tests (R478). -/
def State.headErrs (s : State) (c : Nat) : State :=
  (s.heads c).foldl (fun s q => if q.resume.isNone then s.engineErr (c / 64) q.ctx q.task 64 true true else s) s

/-- TASK_ADMIT (R416, R417, R419). -/
def execTaskAdmit (c : Nat) (s : State) : Host.Outcome State Fault Refusal :=
  awaitHost (.taskAdmit c) s (.next ((s.headErrs c).admitRound c))

/-- DEFICIT_CHARGE (R417). -/
def execDeficitCharge (gang : Nat) (s : State) : Host.Outcome State Fault Refusal :=
  match s.gang? gang with
  | some g => .next ((s.charge g).overdraft g.home)
  | none => .next s

/-- How many clusters the gang of a queue entry needs (R70, R236). -/
def State.clustersFor (s : State) (q : QEntry) : Nat :=
  match q.resume.bind s.gang?, s.queuedRec q with
  | some g, _ => (indicesOf (spanOf g.size) ((g.members.filter fun m => m.live).map fun (m : Member) => m.rank)).length
  | none, some r => spanOf r.size
  | none, none => 1

/-- The cycle count of the core that has run longest: the time by which the waits of queued tasks are counted, since no core's
clock relates to another's (R17, R418). -/
def State.now (s : State) : Nat := s.cores.foldl (fun n c => max n c.cycle) 0

/-- The entry has waited 2^16 cycles at the head of its queue, and no reservation is for it (R418). -/
def State.overdue (s : State) (q : QEntry) : Bool :=
  !q.reported && !(s.holds.any fun h => h.isFor q) && match q.since with | some n => decide (s.now ≥ n + 65536) | none => false

/-- A reservation among the others, in the order in which the waits reached 2^16 cycles (R418). -/
def insertHold (h : Hold) : List Hold → List Hold
  | [] => [h]
  | x :: xs => if h.since < x.since then h :: x :: xs else x :: insertHold h xs

/-- RESERVATION_START: the head task of a queue has waited 2^16 cycles without fitting (R418). DESIGN CHOICE: where the clusters that it
needs do not exist from its own on, it reserves its own alone (notes/assumptions/71.md). -/
def execReservationStart (c ten : Nat) (s : State) : Host.Outcome State Fault Refusal :=
  match s.head c ten with
  | none => .next s
  | some q =>
    if !s.overdue q || (s.admitTask c q).isSome then .next s
    else
      .next { s with holds := insertHold { cluster := c, tenant := ten, clusters := (s.spanFrom ten c (s.clustersFor q)).getD [c],
                                           since := q.since.getD 0 + 65536, launch := q.launch, task := q.task, resume := q.resume } s.holds }

/-- The least prime at or above ⌈P/3⌉ that does not divide P (R418). -/
def stealStep (p : Nat) : Nat :=
  let prime (n : Nat) : Bool := decide (n ≥ 2) && (upTo n).all fun d => decide (d < 2) || n % d != 0
  (first? (fun n => prime n && p % n != 0) ((upTo 400).map (· + (p + 2) / 3))).getD 1

/-- The clusters that cluster `c` tries in turn, among those of its own partition (R418). -/
def State.victims (s : State) (c : Nat) : List Nat :=
  let p := (upTo 384).filter fun d => s.partOf d == s.partOf c
  let i := (p.filter fun d => decide (d < c)).length
  (upTo (p.length - 1)).map fun k => p.getD ((i + (k + 1) * stealStep p.length) % p.length) c

/-- The head tasks that cluster `c` may steal, in the order in which it tries them: none that a reservation is for, and none that is
to be dropped (R418, R419). -/
def State.stealable (s : State) (c : Nat) : List QEntry :=
  ((s.victims c).flatMap fun v =>
    ((upTo 16).filter fun ten => tenPart (s.tenant ten) == s.partOf c).flatMap fun ten =>
      match s.head v ten with | some q => [q] | none => []).filter fun q => !s.holds.any (fun h => h.isFor q) && !s.doomed q

/-- WORK_STEAL: an idle cluster takes the first head task it can admit from its victims' queues (R418). -/
def execWorkSteal (c : Nat) (s : State) : Host.Outcome State Fault Refusal :=
  if s.holds.any (fun h => h.clusters.contains c) || (s.heads c).any (fun q => (s.admitTask c q).isSome) then .next s
  else
    match firstSome (s.admitTask c) (s.stealable c) with
    | some s' => awaitHost (.workSteal c) s (.next s')
    | none => .next s

/-- CORE_CONTEXT_SCRUB (R422). -/
def execCoreContextScrub (core ctx : Nat) (s : State) : Host.Outcome State Fault Refusal :=
  if (s.core core).ctx = some ctx || !s.coreEmpty core || (s.context? ctx).isNone || decide (core ≥ 3072) then .next s
  else .next (s.scrubCore core ctx)

/-! END_DRAIN_COMPLETE (R92, R93). -/

/-- Where step 1 of a drain stands (R92). -/
inductive BatchDrain where
  /-- A batch is unfinished, or the open one cannot be sealed yet (R318). -/
  | wait
  /-- The open batch has been sealed. -/
  | sealed (b : Batch)
  /-- The failure of batch `k` is reported: the batch state without it, the cause and TRAPVAL (R319). -/
  | report (b : Batch) (cause : BitVec 8) (val : Word) (k : Nat)
  | complete
deriving DecidableEq, Repr

/-- Step 1 of a drain (R92, R318, R319): the open batch is sealed, as CPSEAL seals it, unless the drain has done so (`sealedIt`), then
every batch finishes, then the oldest failure is reported. A drain that is no END (`reports` = false) reports nothing. DEDUCED: an open
batch without requests is sealed too (notes/assumptions/64.md). -/
def Batch.drainStep (b : Batch) (sealedIt reports : Bool) : BatchDrain :=
  let report (k : Nat) : BatchDrain := let (b', cause, val) := b.reportOf k; .report b' cause val k
  if !sealedIt then
    if decide (b.unfin ≥ 64) then .wait
    else if reports && batchFail (b.at b.sealedNo.toNat) != 0 then report (b.back 64)
    else .sealed b.sealOpen
  else if b.unfin != 0 then .wait
  else match if reports then b.failed 64 else none with
    | some k => report k
    | none => .complete

/-- The END of `t` traps with the failure: the thread has left Draining, and lives again (R319). -/
def State.reportDrain (s : State) (t : Thread) (b : Batch) (cause : BitVec 8) (val : Word) (k : Nat) : State :=
  let len := match t.held with | some i => i.len | none => 2
  let s1 := s.focus t.id
  let s1 := { s1 with
    cpu := { s1.cpu with batch := b, ended := false }
    gangs := s1.gangs.map fun g =>
      if g.id == t.gang && !t.isRill then
        { g with members := g.members.map fun m => if m.rank == t.rank.toNat then { m with live := true } else m
                 completer := if g.completer == some t.id then none else g.completer }
      else g }
  (takeTrap s1 cause val (BitVec.ofNat 32 k) len).focus s.cpu.id

/-- Steps 2 and 3 of a drain (R92, R329): the format context is free, and the reservation is dropped. -/
def State.drainHeld (s : State) (t : Thread) : State :=
  (if (s.core t.coreId).fmt.holder == some t.id then s.freeFmt t.coreId else s).dropResv fun r => r.holder == t.id

/-- Step 4 of a drain (R92): an access of the thread is not performed at device scope yet (R291), where writes to the host and to peers are
not waited for (R212); or a record of it is owed (R229), or a gather that waits has checked what it holds (R138). -/
def State.drainWaits (s : State) (t : Thread) : Bool := s.owesNote t || s.pinned t || s.updating t.id

/-- The work of a drain that ends its gang's task (R93, R412): none once it is done, or how many successors have been counted
down. -/
def State.completeGang (s : State) (t : Thread) : Option Nat × State :=
  match if t.isRill then none else s.gang? t.gang with
  | none => (none, s)
  | some g =>
    if g.completer != some t.id then (none, s)
    else match (s.charge g).finishTask t.owner g.task false t.counted with
      | (some n, s) => (some n, s)
      | (none, s) => (none, s.modLaunch g.launch fun l => { l with tasks := l.tasks + 1 })

/-- The last part of a drain: the task's completion, and then the slot is Free (R93); or the successors counted down so far, while the
drain waits for a queue entry. -/
def State.endDrain (s : State) (t : Thread) : State :=
  match s.completeGang t with
  | (some n, s') => (s'.putThread { t with counted := n }).post (.endDrainComplete t.id)
  | (none, s') => let s' := s'.release t; if t.isRill then s' else s'.dropGang t.gang

/-- END_DRAIN_COMPLETE: the drain comes back until each of its steps is over, in order (R92, R93). -/
def execEndDrainComplete (slot : Nat) (s : State) : Host.Outcome State Fault Refusal :=
  match s.thread? slot with
  | none => .next s
  | some t =>
    if t.state != .draining then .next s
    else
      match t.batch.drainStep t.lastSealed t.held.isSome with
      | .wait => .next (s.post (.endDrainComplete slot))
      | .sealed b => .next ((s.putThread { t with batch := b, lastSealed := true }).post (.endDrainComplete slot))
      | .report b cause val k => .next (s.reportDrain t b cause val k)
      | .complete =>
        if (s.core t.coreId).fmt.holder == some t.id && !(s.core t.coreId).fmt.pending.isEmpty then .next (s.post (.endDrainComplete slot))
        else
          let s := s.drainHeld t
          if s.drainWaits t then .next (s.post (.endDrainComplete slot))
          else awaitHost (.endDrainComplete slot) s (.next (s.endDrain t))

end Sys2Proof.Machine
end

