-- ==== Sys2Proof/Machine/Notices.lean ====
section
/-!
DEFINITION. The context supervisor (R225 to R232): the events NOTIFICATION_RECORD, SUPERVISOR_ACTION and FUTURE_COMPLETE.
-/
namespace Sys2Proof.Machine

/-! NOTIFICATION_RECORD. -/

/-- Doubleword 0 and doublewords 1 to 4 and 6 of a record (R227), with its offset each. -/
def noteParts (n : Note) : List (Nat × Nat) :=
  [(0x08, n.taskid.toNat), (0x10, n.trappc.toNat), (0x18, n.trapval.toNat), (0x20, n.aux.toNat + n.len.toNat * 2 ^ 40),
   (0x30, n.savearea.toNat)] ++ (if n.cause = Cause.trapnest then [(0x38, n.newpc.toNat)] else []) ++
  [(0x00, n.kind.toNat + n.cause.toNat * 2 ^ 8 + n.rank.toNat * 2 ^ 16)]

/-- The thread that a record is about has an update on its way, which comes before the record (R225, R291). A record of kind 4 waits for
none. -/
def State.noteWaits (s : State) (n : Note) : Bool :=
  n.kind != 4 && match n.target with
    | .slot id => s.updating id
    | .member g r => s.threads.any fun t => t.gang == g && t.rank.toNat == r && !t.isRill && !t.isSluice && s.updating t.id
    | _ => false

/-- NOTIFICATION_RECORD: it waits for the thread's accesses (R225), while the ring is full, and while HEAD or TAIL is not delivered (R18;
notes/assumptions/63.md); else the record is written, then HEAD (R227, R229), in the supervisor block in which the writing has begun
(R491). Records of kinds 1, 3 and 5 await an ACTION (R228); those of kinds 1 and 3 count in ESCAL (R403). -/
def execNotificationRecord (n : Note) (s : State) : Host.Outcome State Fault Refusal :=
  match s.context? n.ctx with
  | none => .next s
  | some c =>
    let b := n.block.getD c.supBlock
    if b + 65536 > Config.deviceBytes then .fault (.noMemory b)
    else if s.noteWaits n then .next (s.post (.notificationRecord n))
    else if s.badAt b 16 then .next ((s.selfTest (s.badUnit b 16)).post (.notificationRecord n))
    else
      let head := s.peek b 8
      if (BitVec.ofNat 64 head - BitVec.ofNat 64 (s.peek (b + 8) 8)).toNat ≥ 256 then .next (s.post (.notificationRecord n))
      else
        let a := b + 0x4000 + 64 * (head % 256)
        let s' := (noteParts n).foldl (fun (s : State) x => s.poke (a + x.1) 8 x.2) s
        let s' := s'.poke b 8 ((head + 1) % 2 ^ 64)
        let s' := if n.kind = 1 || n.kind = 3 then s'.modLaunch n.launch fun l => { l with escal := l.escal + 1 } else s'
        awaitHost (.notificationRecord { n with block := some b }) s
          (.next (if n.kind = 1 || n.kind = 3 || n.kind = 5 then { s' with records := s'.records ++ [{ ctx := n.ctx, k := head, block := b, note := n }] } else s'))

/-! SUPERVISOR_ACTION (R228). -/

/-- Thread `t` goes on at `pc`, whose bit 0 the PC does not hold (R26; notes/assumptions/43.md); HND is cleared when the record's
cause is TRAPNEST. -/
def Thread.resume (t : Thread) (cause : BitVec 8) (pc : Word) : Thread :=
  if cause = Cause.trapnest then t.returnTo (evenPc pc) else t.goTo (evenPc pc)

/-- Remove thread `t`: it performs the drain of END (R92, R93, R228). The sluice slot restarts the standard program instead
(R54). -/
def State.removeThread (s : State) (t : Thread) : State :=
  if t.isSluice then
    s.putThread { t.goTo (BitVec.ofNat 64 Config.sluiceCode) with g := Vector.replicate 128 0, p := 1, flow := [] }
  else (State.startDrain none (s.focus t.id)).focus s.cpu.id

/-- Act on halted thread `t` (R228, R54). -/
def State.actOn (s : State) (t : Thread) (n : Note) (action newpc : Word) : State :=
  if action = 1 then s.putThread (t.resume n.cause n.trappc)
  else if action = 2 then s.putThread (t.resume n.cause (n.trappc + n.len.setWidth 64))
  else if action = 3 then
    if newpc.getLsbD 0 then again Cause.align
    else if decide (newpc.toNat ≥ Config.vaEnd) then again Cause.prot
    else s.putThread (t.resume n.cause newpc)
  else s.removeThread t
where
  /-- A NEWPC that breaks R37: a new record of kind 1. -/
  again (cause : BitVec 8) : State :=
    s.post (.notificationRecord { n with kind := 1, cause := cause, trapval := newpc, aux := 0, newpc := 0, block := none })

/-- The halted thread that a record concerns. -/
def State.haltedThread (s : State) (tgt : Target) : Option Thread :=
  match tgt with
  | .slot id => (s.thread? id).filter fun t => t.state == .halted
  | .member g r => first? (fun t => t.gang == g && t.rank.toNat == r && !t.isRill && !t.isSluice && t.state == .halted) s.threads
  | _ => none

/-- The member's gang is spilled or being restored: an ACTION for it waits (R235). -/
def State.memberAway (s : State) (tgt : Target) : Bool :=
  match tgt with
  | .member g _ => (match s.gang? g with | some g => g.state != .running | none => false)
  | _ => false

/-- Remove a spilled gang: its task completes (R228), unless a successor finds every queue full: whether it is over. -/
def State.removeGang (s : State) (g : Gang) : Bool × State :=
  let o : Owner := { die := g.home / 64, near := g.home, agent := headgate, ctx := g.ctx, tenant := g.tenant, launch := g.launch }
  match (s.charge g).finishTask o g.task false g.counted with
  | (some n, s) => (false, { s with gangs := mapFirst (fun x => x.id == g.id) (fun x => { x with counted := n }) s.gangs })
  | (none, s) =>
    let s := s.leaveFutures g false
    (true, ({ s with gangs := s.gangs.filter fun x => x.id != g.id } : State).modLaunch g.launch fun l => { l with tasks := l.tasks + 1 })

/-- Answer a record of kind 3 (R228, R416): retry the placement, or remove. Whether the action is over: it is not while a successor
finds every queue full. -/
def State.actOnPlacement (s : State) (tgt : Target) (action : Word) : Bool × State :=
  let retry := decide (1 ≤ action.toNat) && decide (action.toNat ≤ 3)
  match tgt with
  | .gang id =>
    match s.gang? id with
    | none => (true, s)
    | some g =>
      if retry then (true, (s.putGang { g with state := .restore }).post (.gangRestore id)) else s.removeGang g
  | .task c ten va =>
    match first? (fun q => q.cluster == c && q.tenant == ten && q.task.toNat == va && q.reported) s.queues with
    | none => (true, s)
    | some q =>
      if retry then (true, { s with queues := mapFirst (fun x => x == q) (fun x => { x with reported := false }) s.queues })
      else match s.finishTask q.owner q.task false q.counted with
        | (none, s) => (true, s.pop q.cluster q)
        | (some n, s) => (false, { s with queues := mapFirst (fun x => x == q) (fun x => { x with counted := n }) s.queues })
  | _ => (true, s)

/-- Address of the ring entry of a record (R226, R491). -/
def OutRec.at (r : OutRec) : Nat := r.block + 0x4000 + 64 * (r.k % 256)

/-- The record's action has been taken: it is answered (R228). -/
def State.closeRecord (s : State) (r : OutRec) : State :=
  { s with records := s.records.filter fun x => !(x.ctx == r.ctx && x.k == r.k && x.block == r.block) }

/-- The record of number `k` of the context that awaits an ACTION: of several, which stand in different supervisor blocks (R491), the
one that has been answered. -/
def State.awaiting (s : State) (ctx k : Nat) : Option OutRec :=
  let mine := s.records.filter fun r => r.ctx == ctx && r.k == k
  (first? (fun r => s.peek (r.at + 0x28) 8 != 0) mine).orElse fun _ => mine.head?

/-- SUPERVISOR_ACTION: the line monitor has seen a write of ACTION of record `k` (R228). DESIGN CHOICE: an ACTION, or the NEWPC that it
needs, that is not delivered is not taken (R18; notes/assumptions/63.md). -/
def execSupervisorAction (ctx k : Nat) (s : State) : Host.Outcome State Fault Refusal :=
  match s.context? ctx, s.awaiting ctx k with
  | some _, some r =>
    let a := r.at
    let action := BitVec.ofNat 64 (s.peek (a + 0x28) 8)
    if s.badAt (a + 0x28) 8 then .next (s.selfTest (s.badUnit (a + 0x28) 8))
    else if action = 0 then .next s
    else
      if r.note.kind = 3 then
        match s.actOnPlacement r.note.target action with
        | (true, s') => awaitHost (.supervisorAction ctx k) s (.next (s'.closeRecord r))
        | (false, s') => awaitHost (.supervisorAction ctx k) s (.next (s'.post (.supervisorAction ctx k)))
      else if s.memberAway r.note.target then .next (s.post (.supervisorAction ctx k))
      else
        match s.haltedThread r.note.target with
        | some t =>
          if action = 3 && s.badAt (a + 0x38) 8 then .next (s.selfTest (s.badUnit (a + 0x38) 8))
          else .next ((s.closeRecord r).actOn t r.note action (BitVec.ofNat 64 (s.peek (a + 0x38) 8)))
        | none => .next (s.closeRecord r)
  | _, _ => .next s

/-! FUTURE_COMPLETE (R231, R232). -/

/-- A thread of the context that waits in its slot for entry `i`, or for any (R54, R232, R285, R303). -/
def Thread.waitsFor (t : Thread) (ctx i : Nat) : Bool := t.ctx == ctx && (t.future == some i || t.future == some 1024)

/-- The wait of a thread in its slot ends: with state 2 its access is tried again, with state 3 NOMAP is taken; after a wait
for any entry it is always tried again. -/
def Thread.futureDone (t : Thread) (mapped : Bool) : Thread :=
  let refused := !mapped && t.future != some 1024
  { t with future := none, nomap := if refused then t.nomap else none, state := if t.state = .parked then .ready else t.state }

/-- The gang waits for entry `i` of the context, or for any. -/
def Gang.waitsFor (g : Gang) (ctx i : Nat) : Bool := g.ctx == ctx && (g.state == .future i || g.state == .anyFuture)

/-- What is known of a member that faulted, once entry `i` has completed: nothing when its page is mapped, and its refusal when it
is not (R231). -/
def faultAfter (i : Nat) (mapped : Bool) (f : Nat × Word × Nat) : Option (Nat × Word × Nat) :=
  if f.2.2 = i then (if mapped then none else some (f.1, f.2.1, 1025)) else some f

/-- A gang that waits for the entry, or for any, is to be restored; it waits for nothing else (R231, R232). -/
def State.wakeGang (s : State) (g : Gang) : State :=
  let s := s.leaveFutures g true
  ({ s with gangs := mapFirst (fun x => x.id == g.id) (fun x => { x with state := .restore }) s.gangs } : State).post (.gangRestore g.id)

/-- A spill that entry `i` of the context was the reason for has no page to wait for any more (R231, R232). -/
def State.spillNow (s : State) (ctx i : Nat) (e : Instr) : Instr :=
  match e with
  | .gangSpill id why =>
    if (why == .future i || why == .anyFuture) && (match s.gang? id with | some g => g.ctx == ctx | none => false) then .gangSpill id .ready else e
  | e => e

/-- The waiters of entry `idx`, with state 2 or 3 (R231, R232): each gang is queued for restore and each thread in its slot goes on;
dw1 counts nobody, and STATE becomes 0. -/
def State.completeFuture (s : State) (c : Context) (idx : Nat) (mapped : Bool) : State :=
  let away (g : Gang) (e : Instr) : Bool := match e with | .gangSpill id .anyFuture => id == g.id | _ => false
  let s1 : State := { s with
    gangs := s.gangs.map fun (g : Gang) => if g.ctx == c.num then
        { g with faulters := (g.faulters.filterMap (faultAfter idx mapped)).filter fun f => !(f.2.2 == 1024 && s.events.any (away g)) }
      else g
    events := s.events.map (s.spillNow c.num idx) }
  let s2 := (s1.gangs.filter fun g => g.waitsFor c.num idx).foldl State.wakeGang s1
  let s3 := s2.mapThreads (fun t => t.waitsFor c.num idx) (Thread.futureDone · mapped)
  (s3.poke (c.futureAt idx + 8) 8 0).poke (c.futureAt idx) 8 (s.peek (c.futureAt idx) 8 / 4 * 4)

/-- FUTURE_COMPLETE (R231, R232): an entry that is not delivered completes nothing (R18; notes/assumptions/40.md). -/
def execFutureComplete (ctx idx : Nat) (s : State) : Host.Outcome State Fault Refusal :=
  match s.context? ctx with
  | none => .next s
  | some c =>
    let d := s.peek (c.futureAt idx) 8
    if s.badAt (c.futureAt idx) 8 then .next (s.selfTest (s.badUnit (c.futureAt idx) 8))
    else if d % 4 < 2 then .next s
    else awaitHost (.futureComplete ctx idx) s (.next (s.completeFuture c idx (d % 4 == 2)))

end Sys2Proof.Machine
end

