-- ==== Sys2Proof/Machine/Links.lean ====
section
/-!
DEFINITION. The host links and Zynlek peers (spec/22_links_and_peers.md): MCST, MCWAIT, FFENCE, and the events of the
host, of the ports and of peers.
-/
namespace Sys2Proof.Machine

/-! MCST, MCWAIT, FFENCE (R443 to R448). -/

/-- Group `g`, bound to context `ctx`: the VA of its bitmap (R443). -/
def State.groupBitmap (s : State) (ctx g : Nat) : Option Word :=
  match first? (fun e => e.num == g) s.groups with
  | some e => if e.dw0.getLsbD 0 && field e.dw1 0 12 == ctx then some (BitVec.ofNat 64 (field e.dw0 9 49 * 512)) else none
  | none => none

/-- The peers a group's bitmap names (R443, R446): read as an acquire at device scope; PROT unless it lies in a plain page
homed on the device. -/
def readBitmap (va : Word) : Exec (List Nat) := do
  acquire .device
  let s ← get
  match reachAs { s.cpu.walker with sup := true } va true false s with
  | .error (.trap _ _ _) => trap Cause.prot va
  | .error st => throw st
  | .ok (x, s') => do
    set s'
    trapIf (!x.plainDevice) Cause.prot va
    scoreCheck [{ va := va, key := x.key, n := 512, src := .page x, off := none }] false
    let bs ← deliver x.key 512 va
    let n := leNat bs
    return (upTo 4096).filter fun p => n.testBit p

/-- The 256 bytes that MCST sends: four vector registers, the first one's lowest (R446). -/
def mcLine (a : VReg) : Exec (List Byte) := do
  let v0 ← readV a
  let v1 ← readV (a + 1)
  let v2 ← readV (a + 2)
  let v3 ← readV (a + 3)
  return vecBytes v0 ++ vecBytes v1 ++ vecBytes v2 ++ vecBytes v3

/-- Each target that grants the write performs it, and the switch collects the answers (R438, R446). -/
def sendMulticast (pa : Nat) (line : List Byte) (targets : List Nat) : Exec Unit := modify fun s =>
  let ok := targets.filter fun p => s.peerGrants s.cpu.ctx p pa 256 false true
  let no := targets.filter fun p => !s.peerGrants s.cpu.ctx p pa 256 false true
  let s := ok.foldl (fun s p => s.homeWrite (peerKey p pa) line) s
  ({ s with cpu := { s.cpu with mcOwed := s.cpu.mcOwed + 1 } } : State).post (.mcstAnswer s.cpu.id ok no)

/-- MCST (R446): its writes come after the stores to the same bytes that are on their way (R200). -/
def execMcst (c : Chain) (a : VReg) (b : Reg) (k : RegC) (off : Word) (rel : Bool) (s : State) : Host.Outcome State Fault Refusal :=
  runChain c (.mcst c a b k off rel) (do
    gate (.mcst c a b k off rel) false .any
    checkOperands [.rd b, .rd (wide k)] [a, a + 1, a + 2, a + 3]
    let base ← readG b
    let g ← readG (wide k)
    let ea := base + off
    checkAlign ea 256
    let x ← reach ea false true
    if x.entry.kind != 0 then trapRegion ea x.entry else pure ()
    trapIf (x.home != 3) Cause.prot ea
    let s ← get
    scoreCheck [{ va := ea, key := x.key, n := 256, src := .page x, off := none }] true
    match if g.toNat < 1024 then s.groupBitmap s.cpu.ctx g.toNat else none with
    | none => trap Cause.prot g
    | some va => do
      if decide (s.cpu.mcOwed ≥ 16) then stall else pure ()
      if rel then releaseWait .fabric else releaseMode MemMode.none
      let line ← mcLine a
      let ps ← readBitmap va
      let targets := ps.filter fun p => p != s.selfNum.toNat
      let s ← get
      if targets.any fun p => s.owedAt (peerKey p x.pa) 256 then stall else pure ()
      if targets.isEmpty then pure () else sendMulticast x.pa line targets
      touchStreams ea
      done (.mcst c a b k off rel)) s

/-- MCWAIT (R447): the aggregate is written and cleared. -/
def execMcwait (c : Chain) (a : Reg) (s : State) : Host.Outcome State Fault Refusal :=
  runChain c (.mcwait c a) (do
    gate (.mcwait c a) false .any
    checkUses [.wr a]
    let s ← get
    if s.cpu.mcOwed != 0 || s.owesNote s.cpu then stall else pure ()
    writeG a s.cpu.mcWord
    modCpu fun t => { t with mcPos := 0, mcNeg := 0, mcLow := 0 }
    done (.mcwait c a)) s

/-- FFENCE (R448): its flag is a store like any other of its home. -/
def execFfence (c : Chain) (a b : Reg) (off : Word) (s : State) : Host.Outcome State Fault Refusal :=
  runChain c (.ffence c a b off) (do
    gate (.ffence c a b off) false .any
    checkUses [.rd a, .rd b]
    let (v, base) ← readG2 a b
    let ea := base + off
    checkAlign ea 8
    let x ← reach ea false true
    if x.entry.kind != 0 then trapRegion ea x.entry else pure ()
    scoreCheck [rmwPlace x ea 8] true
    let s ← get
    if s.cpu.batch.unfin != 0 then stall else pure ()
    releaseWait .fabric x.hostVa
    homeStore x (leBytes 8 v.toNat)
    touchStreams ea
    done (.ffence c a b off)) s

/-- MCST_ANSWER: the aggregated answers of one MCST are counted (R444, R447). -/
def execMcstAnswer (slot : Nat) (pos neg : List Nat) (s : State) : Host.Outcome State Fault Refusal :=
  match s.thread? slot with
  | none => .next s
  | some t =>
    let lows := if t.mcNeg = 0 then neg else t.mcLow.toNat :: neg
    .next (s.putThread { t with
      mcPos := t.mcPos + BitVec.ofNat 16 pos.length
      mcNeg := t.mcNeg + BitVec.ofNat 16 neg.length
      mcLow := match least lows with | some p => BitVec.ofNat 12 p | none => t.mcLow
      mcOwed := t.mcOwed - 1 })

/-! The host (R430 to R432). -/

/-- Record an answer to the host or to a peer. -/
def State.answer (s : State) (a : Option (BitVec 128)) : State := { s with answers := a :: s.answers }

/-- The locator block of port `p` (R430). -/
def State.locator (s : State) (p : Port) : List Byte :=
  leBytes 8 1 ++ leBytes 8 s.island.lwin ++ leBytes 8 s.island.mbox ++ leBytes 8 s.island.ctrl ++
    leBytes 8 (if (s.port p).pcie then 0 else (s.port p).hdmBase) ++ List.replicate 24 0

/-- Where an access of the host falls in the model's memory; none where the port presents nothing there (R430). -/
def State.hostPlace (s : State) (r : HostOp) : Option Nat :=
  let a := match r.space with
    | .hdm => if (s.port r.port).pcie then none else some ((s.port r.port).hdmBase + r.addr)
    | .bar2 =>
      if !(s.port r.port).pcie then none
      else if r.addr + r.width ≤ 0x2000 then some (s.island.lwin + r.addr)
      else if 0x2000 ≤ r.addr && r.addr + r.width ≤ 0x3000 then some (s.island.mbox + (r.addr - 0x2000))
      else if 0x3000 ≤ r.addr && r.addr + r.width ≤ 0x4000 then some (s.island.ctrl + (r.addr - 0x3000))
      else none
    | _ => none
  a.filter fun a => decide (a + r.width ≤ Config.deviceBytes)

/-- The entry of a grain that another agent has read: an owner in state M becomes an O one, and one in state E shares it (R170, R171). -/
def DirEntry.readBy (d : DirEntry) : DirEntry :=
  match d.state with
  | .modified => { d with state := .owned }
  | .exclusive => { d with state := .shared, owner := none }
  | _ => d

/-- The host may now hold a copy of the line of device address `a` that it read through port `p` (R432): the entries of its grains
say so, or one of the line, and the copies on the device share it. -/
def State.hostCaches (s : State) (p : Port) (a : Nat) : State :=
  let mark (d : DirEntry) : DirEntry :=
    let d := (s.upgraded d).readBy
    match p with | .a => { d with hostA := true } | .b => { d with hostB := true }
  let s := s.demote (lineOf a) 512
  let holds (d : DirEntry) : Bool := overlaps (lineOf a) 512 d.grain d.size
  if s.dirs.any fun d => decide (d.grain ≤ a) && decide (a < d.grain + d.size) then { s with dirs := s.dirs.map fun d => if holds d then mark d else d }
  else
    let s := s.fitDir (lineOf a) 512
    s.putDir (mark (s.dirEntry (lineOf a) 512))

/-- A write of the host, or its compare-and-swap, in one step at the home (R432, R451). -/
def State.hostStore (s : State) (a : Nat) (r : HostOp) : State :=
  match r.expect with
  | none => s.poke a r.width r.data.toNat
  | some e =>
    let old := s.peek a r.width
    let s := s.answer (some (BitVec.ofNat 128 old))
    if old = e.toNat % 2 ^ (8 * r.width) then s.poke a r.width r.data.toNat else s

/-- HOST_ACCESS (R196, R430, R432): performed at the home slice. Whether the host keeps a copy of what it reads is a free
choice. In recovery the device answers none (R472). -/
def execHostAccess (r : HostOp) (s : State) : Host.Outcome State Fault Refusal :=
  if !(s.port r.port).up then .next s
  else if s.island.recovery && r.space != .own then .next (if r.write then s else s.answer none)
  else match r.space with
  | .bar0 =>
    if r.write then .next s
    else .next (s.answer (some (BitVec.ofNat 128 (leNat (((s.locator r.port).drop r.addr).take r.width)))))
  | .own =>
    if r.write then .next (s.hostStore (hostKey r.addr) r)
    else .next (s.answer (some (BitVec.ofNat 128 (s.peek (hostKey r.addr) r.width))))
  | _ =>
    match s.hostPlace r with
    | none => .next (if r.write then s else s.answer none)
    | some a =>
      if (r.expect.isSome || !r.write) && s.badAt a r.width then .next ((s.selfTest (s.badUnit a r.width)).answer none)
      else if r.write then .next (s.hostStore a r)
      else
        let keeps := Config.freeBit s.free && !(s.port r.port).pcie
        let s := ({ s with free := s.free + 1 } : State).answer (some (BitVec.ofNat 128 (s.peek a r.width)))
        .next (if keeps then s.hostCaches r.port a else s)

/-- HOST_SNOOP of a line of home 1 (R431): every copy of it on the device is invalidated, and then the snoop is acknowledged. -/
def execHostSnoop (_port : Port) (grain : Nat) (s : State) : Host.Outcome State Fault Refusal :=
  .next ((s.withdraw (lineOf (hostKey grain)) 512).answer (some 0))

/-- BACK_INVALIDATION_ANSWER: the host holds no copy any more, and the write that waits is performed (R432). -/
def execBackInvalidationAnswer (port : Port) (grain : Nat) (s : State) : Host.Outcome State Fault Refusal :=
  .next { s with dirs := s.dirs.map fun d =>
    if d.grain = grain then (match port with | .a => { d with hostA := false } | .b => { d with hostB := false }) else d }

/-! The ports (R434, R435). -/

namespace Reply
/-- The outstanding request is answered with `a`. -/
def answered (r a : Reply) : Reply :=
  match r with
  | .waiting => a
  | .ending f => if a == .done then .ended f else .endFailed f
  | r => r
end Reply

/-- The outstanding request of the thread in `slot` is answered. -/
def State.replied (s : State) (slot : Nat) (a : Reply) : State :=
  match s.thread? slot with
  | some t => s.putThread { t with reply := t.reply.answered a }
  | none => s

/-- A store that is on its way to a peer is performed there (R437). -/
def State.performOwed (s : State) (o : OwedStore) : State :=
  match o.what with
  | .bytes k bs => s.homeWrite k bs
  | .update r => rupdAt r s

/-- The peer drops a store, which is reported as one of its thread (R438); a dropped update is a message that has been received (R420;
notes/assumptions/5.md). -/
def State.dropOwed (s : State) (o : OwedStore) : State :=
  let s := s.post (.notificationRecord o.note)
  match o.what with
  | .bytes _ _ => s
  | .update r => s.receives r.launch (updateUnit r.addr)

/-- The oldest store of the thread in `slot` to a peer is acknowledged, and has been performed; with a negative answer it is dropped, and
reported (R437, R438). -/
def State.storeAnswered (s : State) (slot : Nat) (ok : Bool) : State :=
  match first? (fun o => o.slot == slot) s.owedStores with
  | some o =>
    let s : State := { s with owedStores := dropFirst (fun o => o.slot == slot) s.owedStores }
    if ok then s.performOwed o else s.dropOwed o
  | none => s

/-- The slot by which ACCESS_REPLY names the read with which the Headgate ends a launch (R421; notes/assumptions/27.md). -/
abbrev headgateSlot : Nat := 2 ^ 19

/-- ACCESS_REPLY: the completion of a request arrives (R434, R435, R437): it passes no posted write that was sent before it (R433). For
a thread that waits for none, it acknowledges the oldest of its stores to peers. -/
def execAccessReply (slot : Nat) (a : Answer) (s : State) : Host.Outcome State Fault Refusal :=
  match s.thread? slot with
  | some t =>
    if t.reply.out then
      let s := if a == .ok && t.awaits.isNone then (s.drainPosts .a).drainPosts .b else s
      .next (s.replied slot (match a with | .ok => .done | .unsupported => .unsupported | .error => .failed))
    else .next (s.storeAnswered slot (a == .ok))
  | none =>
    if slot = headgateSlot then .next (if a == .ok then (s.drainPosts .a).drainPosts .b else s)
    else .next (s.storeAnswered slot (a == .ok))

/-- COMPLETION_TIMEOUT (R435): the waiting access traps REMOTE when it is tried again. -/
def execCompletionTimeout (slot : Nat) (s : State) : Host.Outcome State Fault Refusal := .next (s.replied slot .failed)

/-- Each posted write that is on its way when the link goes down has arrived, or is lost and counted: a free choice (R435). -/
def losePosts (p : Port) : List (Nat × List Byte) → State → State
  | [], s => s.modPort p fun q => { q with posts := [] }
  | w :: ws, s =>
    let s' : State := { s with free := s.free + 1 }
    losePosts p ws (if Config.freeBit s.free then s'.modPort p fun q => { q with errlog := q.errlog + 1 } else s'.homeWrite w.1 w.2)

/-- LINK_DOWN (R435): accesses on the port, those that wait among them, trap REMOTE. -/
def execLinkDown (port : Port) (s : State) : Host.Outcome State Fault Refusal :=
  .next ((losePosts port (s.port port).posts s).modPort port fun p => { p with up := false })

/-- HOST_LINK_UP (R435). -/
def execHostLinkUp (port : Port) (s : State) : Host.Outcome State Fault Refusal := .next (s.modPort port fun p => { p with up := true })

/-! Peers (R436 to R441). -/

/-- Width, and whether it reads and writes, of an access of a peer. -/
def peerShape (r : PeerReq) : Nat × Bool × Bool :=
  match r.what with
  | .load w => (w, true, false)
  | .store w _ => (w, false, true)
  | .rmw op _ _ => (rmwWidth op, true, true)
  | .rupd fn _ => (rupdWidth fn, true, true)

/-- The export entry that allows an access of a peer (R438). -/
def State.exportFor (s : State) (r : PeerReq) : Option Export :=
  let (w, rd, wr) := peerShape r
  first? (fun e => e.peer == r.src && e.inc == r.srcInc && e.ctx == r.ctx && decide (e.lo ≤ r.addr) && decide (r.addr + w ≤ e.hi) &&
    (!rd || e.rd) && (!wr || e.wr)) s.exports

/-- Where an access of a peer goes: an export entry allows it, and the tables of the exporting context that the entry names give a plain
page homed on the device (R438). -/
def State.exported (s : State) (r : PeerReq) : Option (Export × Xlat) :=
  let (_, rd, wr) := peerShape r
  match s.exportFor r with
  | none => none
  | some e =>
    match reachAs (Walker.engine 0 e.tables) (BitVec.ofNat 64 r.addr) rd wr s with
    | .ok (x, _) => if x.plainDevice then some (e, x) else none
    | .error _ => none

/-- An access of a peer that is allowed, at the translated home (R438). -/
def State.peerAt (s : State) (r : PeerReq) (e : Export) (x : Xlat) : State :=
  match r.what with
  | .load w => if s.badAt x.pa w then (s.selfTest (s.badUnit x.pa w)).answer none else s.answer (some (BitVec.ofNat 128 (s.peek x.pa w)))
  | .store w d => (s.poke x.pa w d.toNat).answer (some 0)
  | .rmw op v c =>
    if op == .lr || op == .sc then s.answer none
    else if s.badAt x.pa (rmwWidth op) then (s.selfTest (s.badUnit x.pa (rmwWidth op))).answer none
    else
      let (old, _, s') := rmwAt { op := op, holder := 2 ^ 19, addr := x.pa, x := v, e := c } (s.recallOwned x.pa (rmwWidth op))
      s'.answer (some old)
  | .rupd fn v =>
    if fn == 0 then s.answer none
    else
      (rupdAt { fn := fn, addr := x.pa, x := v, q := 0, ovf := some (regionAt (s.contextD e.tables) x.entry.regionIdx), launch := 64,
                slot := 2 ^ 19 } s).answer (some 0)

/-- PEER_REQUEST (R436 to R439): a message of another incarnation is dropped; an access that is not allowed is refused, as each is in
recovery (R472); any other is performed at its home. -/
def execPeerRequest (r : PeerReq) (s : State) : Host.Outcome State Fault Refusal :=
  if (s.peer r.src).inc != r.srcInc || r.dstInc != s.selfInc then .next s
  else if s.island.recovery then .next (s.answer none)
  else match s.exported r with
  | none => .next (s.answer none)
  | some (e, x) => awaitHost (.peerRequest r) s (.next (s.peerAt r e x))

/-- PEER_STORE_REFUSED (R438): a record of kind 4 with cause 0x12, the VA and the peer. -/
def execPeerStoreRefused (slot : Nat) (va : Word) (peer : BitVec 12) (s : State) : Host.Outcome State Fault Refusal :=
  match s.thread? slot with
  | none => .next s
  | some t => .next (s.post (.notificationRecord (refusedNote t va peer)))

/-- An answer that peer `p` still owes counts as negative (R441). -/
def lost (p : Nat) (e : Instr) : Instr :=
  match e with
  | .mcstAnswer slot pos neg => if pos.contains p then .mcstAnswer slot (pos.filter fun q => q != p) (p :: neg) else e
  | e => e

/-- The answers that are to come for `slot`, in order, each by the peer that sends it (none: the host): to the request of its thread, and
to its stores to peers. -/
def State.dueReplies (s : State) (slot : Nat) : List (Option Nat) :=
  (match s.thread? slot with | some t => if t.reply.out then [t.awaits] else [] | none => []) ++
    (s.owedStores.filter fun o => o.slot == slot).map fun o => some o.peer

/-- The events without the answers on their way that the old incarnation of peer `p` has sent (R441); `seen` counts the answers before
them by slot. -/
def State.liveReplies (s : State) (p : Nat) : List (Nat × Nat) → List Instr → List Instr
  | _, [] => []
  | seen, e :: es =>
    match e with
    | .accessReply slot _ =>
      let k := assocD 0 slot seen
      let rest := s.liveReplies p (assocSet slot (k + 1) seen) es
      if (s.dueReplies slot)[k]? == some (some p) then rest else e :: rest
    | e => e :: s.liveReplies p seen es

/-- The old incarnation of peer `p` answers nothing any more (R441): a load or read-modify-write that waits for it fails, a store that
waits for its acknowledgement is reported, a multicast answer that it owes is negative, and its answers on their way are dropped. -/
def State.losePeer (s : State) (p : Nat) : State :=
  let s := { s with events := (s.liveReplies p [] s.events).map (lost p) }
  let s := s.mapThreads (fun t => t.awaits == some p) fun t => { t with reply := t.reply.answered .failed }
  (s.owedStores.filter fun o => o.peer == p).foldl State.dropOwed { s with owedStores := s.owedStores.filter fun o => o.peer != p }

/-- PEER_TABLE_UPDATE (R436, R441). -/
def execPeerTableUpdate (peer : BitVec 12) (inc : BitVec 8) (up : Bool) (s : State) : Host.Outcome State Fault Refusal :=
  let old := s.peer peer
  let rest := s.peers.filter fun e => e.num != peer
  let s := { s with peers := if inc == 0 && !up then rest else { old with inc := inc, up := up } :: rest }
  .next (if old.inc != inc || !up then s.losePeer peer.toNat else s)

end Sys2Proof.Machine
end

