-- ==== Sys2Proof/Machine/Directory.lean ====
section
/-!
DEFINITION. Walks and the directories (R148, R155, R170 to R177): the events TLB_WALK_COMPLETE, HOME_REQUEST,
RETRY_TIMER_EXPIRE, FILL_ARRIVE, INVALIDATION_ARRIVE and INVALIDATION_ACK. The transactions of an instruction of the model begin
and end in its step (Machine/Caches.lean); these events are transactions whose messages take time, and change no value that an agent
reads (R178; notes/assumptions/16.md).
-/
namespace Sys2Proof.Machine

/-- TLB_WALK_COMPLETE: a walk under the registers with which it began has found a leaf, which is cached (R155, R491). One that finds none
caches nothing: the thread that stalls for it meets the same entry when it is tried again, in this step, and takes the page fault or
trap of its access, fetch or copy (R148, R488). -/
def execTlbWalkComplete (slot : Nat) (va : Word) (s : State) : Host.Outcome State Fault Refusal :=
  match s.thread? slot with
  | none => .next s
  | some t =>
    match walk s (s.contextOf t.walker) t.die va.toNat with
    | .leaf e => .next (s.cacheLeaf t.walker e)
    | .outside pa => .fault (.noMemory pa)
    | .absent | .malformed | .error _ _ => .next s

/-! The directory. -/

/-- The name under which a request of core `k` that no thread waits on is refused. -/
def coreRequest (k : Nat) : Nat := 2 ^ 20 + k

/-- Grant a request (R170 to R173): a write invalidates every sharer, and a read leaves every other copy sharing the grain; each message
raises the line sequence number. -/
def State.grant (s : State) (core grain size : Nat) (write : Bool) : State :=
  let s := (s.fitDir grain size).keepLine grain size ((s.core core).ctx.getD 0) write
  let d := s.upgraded (s.dirEntry grain size)
  let s := if write then s else s.demote grain size
  let die := grain / 2 ^ 37
  let targets := if write then sharersOf d else []
  let n := targets.length
  let invs := (upTo n).map fun j => ({ cluster := 64 * die + targets.getD j 0, grain := grain, seq := d.seq + BitVec.ofNat 16 (j + 1) } : Inval)
  let seq := d.seq + BitVec.ofNat 16 (n + 1)
  let s := (s.served' (coreRequest core) (.grain grain write)).putDir { d.granted core write with seq := seq, busy := true }
  { s with
    fills := s.fills ++ [{ core := core, grain := grain, size := size, seq := seq, write := write }]
    invals := s.invals ++ invs
    events := s.events ++ invs.map (fun i => Instr.invalidationArrive i.cluster grain) ++ [.fillArrive core grain] }

/-- HOME_REQUEST (R175 to R177): granted, or refused while a transaction of the grain is in flight or another request for it holds an
earlier ticket; a write waits for the answer of a host that holds a copy (R432). -/
def execHomeRequest (core : Nat) (grain : GrainRef) (write : Bool) (s : State) : Host.Outcome State Fault Refusal :=
  let w := Want.grain grain.addr write
  match if write then s.hostHolds grain.addr grain.size else none with
  | some d => .next ((s.leave (.snoop (if d.hostA then .a else .b) d.grain)).post (.homeRequest core grain write))
  | none =>
    .next (if !(s.dirEntry grain.addr grain.size).busy && s.mayServe (coreRequest core) w then s.grant core grain.addr grain.size write
      else (s.refuse (coreRequest core) w).post (.retryTimerExpire core grain))

/-- RETRY_TIMER_EXPIRE: the refused request is sent again (R177). -/
def execRetryTimerExpire (core : Nat) (grain : GrainRef) (s : State) : Host.Outcome State Fault Refusal :=
  match first? (fun r => r.slot == coreRequest core && r.want.same (.grain grain.addr false)) s.refused with
  | some r => .next (s.post (.homeRequest core grain (match r.want with | .grain _ w => w | _ => false)))
  | none => .next s

/-- The grain's transaction is over once no fill, invalidation or acknowledgement of it is on its way (R176). -/
def State.settleDir (s : State) (grain : Nat) : State :=
  let acks := s.events.any fun e => match e with | .invalidationAck _ g => g == grain | _ => false
  if acks || s.fills.any (fun f => f.grain == grain) || s.invals.any (fun i => i.grain == grain) then s
  else { s with dirs := s.dirs.map fun d => if d.grain == grain then { d with busy := false } else d }

/-- Sequence number `f` is above `i` (R173). -/
def seqAbove (f i : BitVec 16) : Bool := decide (1 ≤ (f - i).toNat) && decide ((f - i).toNat ≤ 32767)

/-- The state in which a fill is installed (R170, R171). -/
def PendFill.state (f : PendFill) (d : DirEntry) : Moesi :=
  if f.write then .modified else if d.state == .exclusive && d.owner == some f.core then .exclusive else .shared

/-- FILL_ARRIVE: the fill is installed, where its set has room, unless the last invalidation its cluster received for the grain is not
older (R174). -/
def execFillArrive (core grain : Nat) (s : State) : Host.Outcome State Fault Refusal :=
  match first? (fun f => f.core == core && f.grain == grain) s.fills with
  | none => .next s
  | some f =>
    let install := match first? (fun i => i.cluster == core / 8 && i.grain == grain) s.lastInval with
      | some i => seqAbove f.seq i.seq
      | none => true
    let d := s.dirEntry grain f.size
    let s := { s with
      fills := dropFirst (fun x => x == f) s.fills
      tracked := s.tracked.filter fun h => !(h.core == core && h.grain == grain && h.size == f.size) }
    let s := match if install then s.fitL1 core grain else none with
      | some s => s.holdGrain { core := core, grain := grain, size := f.size, state := f.state d }
      | none => s
    .next (s.settleDir grain)

/-- Bytes of the grain at `grain` that a transaction is about (R170). -/
def State.sizeInFlight (s : State) (grain : Nat) : Nat :=
  match first? (fun d => d.grain == grain && d.busy) s.dirs with | some d => d.size | none => 512

/-- INVALIDATION_ARRIVE: the caches and cisterns of the cluster drop the grain and acknowledge at once (R171, R174, R184); a
WAITR of the cluster whose granule it overlaps may wake (R277). -/
def execInvalidationArrive (cluster grain : Nat) (s : State) : Host.Outcome State Fault Refusal :=
  match first? (fun i => i.cluster == cluster && i.grain == grain) s.invals with
  | none => .next s
  | some i =>
    let n := s.sizeInFlight grain
    let here (k : Nat) : Bool := k / 8 == cluster
    let s := { s with
      invals := dropFirst (fun x => x == i) s.invals
      lastInval := i :: s.lastInval.filter fun x => !(x.cluster == cluster && x.grain == grain)
      tracked := s.tracked.filter fun h => !(here h.core && overlaps grain n h.grain h.size)
      copies := s.copies.filter fun c => !(here c.holder && c.trackedAged && overlaps grain n c.home c.size)
      cores := s.cores.map fun (c : Core) => if here c.id then c.dropFills grain n else c }
    let s := s.spuriousWake (fun t => t.clusterId == cluster && !t.isRill) grain n
    .next (s.post (.invalidationAck cluster grain))

/-- INVALIDATION_ACK (R171, R176). -/
def execInvalidationAck (_cluster grain : Nat) (s : State) : Host.Outcome State Fault Refusal :=
  .next (s.settleDir grain)

end Sys2Proof.Machine
end

