-- ==== Sys2Proof/Machine/Integer.lean ====
section
/-!
DEFINITION. Integer arithmetic, logic, moves, compares, PRD, PWR and SEXT (R78 to R83), UDF and NOP (R45, R46).
-/
namespace Sys2Proof.Machine

/-- Signed quotient rounded toward zero (R79): all ones for y = 0, and -2^63 for -2^63 / -1. -/
def divSigned (x y : Word) : Word := if y == 0 then BitVec.allOnes 64 else BitVec.ofInt 64 (x.toInt.tdiv y.toInt)
/-- Unsigned quotient (R79). -/
def divUnsigned (x y : Word) : Word := if y == 0 then BitVec.allOnes 64 else x / y
/-- Signed remainder with the sign of the dividend (R79). -/
def remSigned (x y : Word) : Word := if y == 0 then x else BitVec.ofInt 64 (x.toInt.tmod y.toInt)
/-- Unsigned remainder (R79). -/
def remUnsigned (x y : Word) : Word := if y == 0 then x else x % y
/-- Bits [127:64] of the signed product (R78). -/
def mulHighSigned (x y : Word) : Word := BitVec.ofInt 64 (x.toInt * y.toInt / 2 ^ 64)
/-- Bits [127:64] of the unsigned product (R78). -/
def mulHighUnsigned (x y : Word) : Word := BitVec.ofNat 64 (x.toNat * y.toNat / 2 ^ 64)
/-- Number of leading zero bits, 0 to 64 (R78). -/
def leadingZeros (y : Word) : Nat := if y == 0 then 64 else 63 - Nat.log2 y.toNat
/-- Number of one bits in the lowest `n` bits. -/
def onesIn : Nat → Nat → Nat
  | 0, _ => 0
  | n + 1, v => v % 2 + onesIn n (v / 2)
/-- Signed minimum and maximum (R78). -/
def minSigned (x y : Word) : Word := if x.slt y then x else y
def maxSigned (x y : Word) : Word := if x.slt y then y else x
/-- The low `w` bits sign-extended (R83). -/
def sext (w : Nat) (y : Word) : Word := (y.setWidth w).signExtend 64

/-- ADD: ga := x + y (R78). -/
def execAdd (c : Chain) (a b : Reg) (k : RegC) (s : State) : Host.Outcome State Fault Refusal :=
  binary (.add c a b k) c a b k (fun x y => x + y) s
/-- SUB: ga := x - y (R78). -/
def execSub (c : Chain) (a b : Reg) (k : RegC) (s : State) : Host.Outcome State Fault Refusal :=
  binary (.sub c a b k) c a b k (fun x y => x - y) s
/-- MUL: ga := the low 64 bits of x × y (R78). -/
def execMul (c : Chain) (a b : Reg) (k : RegC) (s : State) : Host.Outcome State Fault Refusal :=
  binary (.mul c a b k) c a b k (fun x y => x * y) s
/-- MULH: ga := bits [127:64] of the signed product (R78). -/
def execMulh (c : Chain) (a b : Reg) (k : RegC) (s : State) : Host.Outcome State Fault Refusal :=
  binary (.mulh c a b k) c a b k (mulHighSigned) s
/-- MULHU: ga := bits [127:64] of the unsigned product (R78). -/
def execMulhu (c : Chain) (a b : Reg) (k : RegC) (s : State) : Host.Outcome State Fault Refusal :=
  binary (.mulhu c a b k) c a b k (mulHighUnsigned) s
/-- AND: ga := x AND y (R78). -/
def execAnd (c : Chain) (a b : Reg) (k : RegC) (s : State) : Host.Outcome State Fault Refusal :=
  binary (.and c a b k) c a b k (fun x y => x &&& y) s
/-- OR: ga := x OR y (R78). -/
def execOr (c : Chain) (a b : Reg) (k : RegC) (s : State) : Host.Outcome State Fault Refusal :=
  binary (.or c a b k) c a b k (fun x y => x ||| y) s
/-- XOR: ga := x XOR y (R78). -/
def execXor (c : Chain) (a b : Reg) (k : RegC) (s : State) : Host.Outcome State Fault Refusal :=
  binary (.xor c a b k) c a b k (fun x y => x ^^^ y) s
/-- MIN: ga := signed minimum (R78). -/
def execMin (c : Chain) (a b : Reg) (k : RegC) (s : State) : Host.Outcome State Fault Refusal :=
  binary (.min c a b k) c a b k (minSigned) s
/-- MAX: ga := signed maximum (R78). -/
def execMax (c : Chain) (a b : Reg) (k : RegC) (s : State) : Host.Outcome State Fault Refusal :=
  binary (.max c a b k) c a b k (maxSigned) s
/-- DIV: signed quotient (R79). -/
def execDiv (c : Chain) (a b : Reg) (k : RegC) (s : State) : Host.Outcome State Fault Refusal :=
  binary (.div c a b k) c a b k divSigned s
/-- DIVU: unsigned quotient (R79). -/
def execDivu (c : Chain) (a b : Reg) (k : RegC) (s : State) : Host.Outcome State Fault Refusal :=
  binary (.divu c a b k) c a b k divUnsigned s
/-- REM: signed remainder (R79). -/
def execRem (c : Chain) (a b : Reg) (k : RegC) (s : State) : Host.Outcome State Fault Refusal :=
  binary (.rem c a b k) c a b k remSigned s
/-- REMU: unsigned remainder (R79). -/
def execRemu (c : Chain) (a b : Reg) (k : RegC) (s : State) : Host.Outcome State Fault Refusal :=
  binary (.remu c a b k) c a b k remUnsigned s
/-- SHL: ga := x << y[5:0] (R80). -/
def execShl (c : Chain) (a b : Reg) (k : RegC) (s : State) : Host.Outcome State Fault Refusal :=
  binary (.shl c a b k) c a b k (fun x y => x <<< (y.toNat % 64)) s
/-- SHR: ga := x >> y[5:0], zeros shifted in (R80). -/
def execShr (c : Chain) (a b : Reg) (k : RegC) (s : State) : Host.Outcome State Fault Refusal :=
  binary (.shr c a b k) c a b k (fun x y => x >>> (y.toNat % 64)) s
/-- SAR: ga := x >> y[5:0], copies of x[63] shifted in (R80). -/
def execSar (c : Chain) (a b : Reg) (k : RegC) (s : State) : Host.Outcome State Fault Refusal :=
  binary (.sar c a b k) c a b k (fun x y => x.sshiftRight (y.toNat % 64)) s
/-- MOV: ga := gb (R78). -/
def execMov (c : Chain) (a b : Reg) (s : State) : Host.Outcome State Fault Refusal :=
  unary (.mov c a b) c a b (fun y => y) s
/-- CLZ: ga := number of leading zero bits of gb (R78). -/
def execClz (c : Chain) (a b : Reg) (s : State) : Host.Outcome State Fault Refusal :=
  unary (.clz c a b) c a b (fun y => BitVec.ofNat 64 (leadingZeros y)) s
/-- POPC: ga := number of one bits of gb (R78). -/
def execPopc (c : Chain) (a b : Reg) (s : State) : Host.Outcome State Fault Refusal :=
  unary (.popc c a b) c a b (fun y => BitVec.ofNat 64 (onesIn 64 y.toNat)) s
/-- SEXT.b: ga := the low 8 bits of gb, sign-extended (R83). -/
def execSextB (c : Chain) (a b : Reg) (s : State) : Host.Outcome State Fault Refusal :=
  unary (.sextB c a b) c a b (sext 8) s
/-- SEXT.h: ga := the low 16 bits of gb, sign-extended (R83). -/
def execSextH (c : Chain) (a b : Reg) (s : State) : Host.Outcome State Fault Refusal :=
  unary (.sextH c a b) c a b (sext 16) s
/-- SEXT.w: ga := the low 32 bits of gb, sign-extended (R83). -/
def execSextW (c : Chain) (a b : Reg) (s : State) : Host.Outcome State Fault Refusal :=
  unary (.sextW c a b) c a b (sext 32) s
/-- MOVI: ga := imm (R78). It only writes ga. -/
def execMovi (c : Chain) (a : Reg) (imm : Word) (s : State) : Host.Outcome State Fault Refusal :=
  runChain c (.movi c a imm) (do
    gate (.movi c a imm) true .any
    checkUses [.wr a]
    writeG a imm
    done (.movi c a imm)) s
/-- ADDI: ga := ga + imm (R78). -/
def execAddi (c : Chain) (a : Reg) (imm : Word) (s : State) : Host.Outcome State Fault Refusal :=
  immediate (.addi c a imm) c a (fun x => x + imm) s
/-- MULI: ga := the low 64 bits of ga × imm (R78). -/
def execMuli (c : Chain) (a : Reg) (imm : Word) (s : State) : Host.Outcome State Fault Refusal :=
  immediate (.muli c a imm) c a (fun x => x * imm) s
/-- ANDI: ga := ga AND imm (R78). -/
def execAndi (c : Chain) (a : Reg) (imm : Word) (s : State) : Host.Outcome State Fault Refusal :=
  immediate (.andi c a imm) c a (fun x => x &&& imm) s
/-- ORI: ga := ga OR imm (R78). -/
def execOri (c : Chain) (a : Reg) (imm : Word) (s : State) : Host.Outcome State Fault Refusal :=
  immediate (.ori c a imm) c a (fun x => x ||| imm) s
/-- XORI: ga := ga XOR imm (R78). -/
def execXori (c : Chain) (a : Reg) (imm : Word) (s : State) : Host.Outcome State Fault Refusal :=
  immediate (.xori c a imm) c a (fun x => x ^^^ imm) s
/-- SHLI: ga := ga << imm (R78). -/
def execShli (c : Chain) (a : Reg) (imm : Word) (s : State) : Host.Outcome State Fault Refusal :=
  immediate (.shli c a imm) c a (fun x => x <<< imm.toNat) s
/-- SHRI: ga := ga >> imm, zeros shifted in (R78). -/
def execShri (c : Chain) (a : Reg) (imm : Word) (s : State) : Host.Outcome State Fault Refusal :=
  immediate (.shri c a imm) c a (fun x => x >>> imm.toNat) s
/-- SARI: ga := ga >> imm, copies of bit 63 shifted in (R78). -/
def execSari (c : Chain) (a : Reg) (imm : Word) (s : State) : Host.Outcome State Fault Refusal :=
  immediate (.sari c a imm) c a (fun x => x.sshiftRight imm.toNat) s
/-- CEQ: x = y (R81). -/
def execCeq (c : Chain) (a b : Reg) (d : PredDest) (s : State) : Host.Outcome State Fault Refusal :=
  compare (.ceq c a b d) c a b d (fun x y => x == y) s
/-- CNE: x ≠ y (R81). -/
def execCne (c : Chain) (a b : Reg) (d : PredDest) (s : State) : Host.Outcome State Fault Refusal :=
  compare (.cne c a b d) c a b d (fun x y => x != y) s
/-- CLT: x < y, signed (R81). -/
def execClt (c : Chain) (a b : Reg) (d : PredDest) (s : State) : Host.Outcome State Fault Refusal :=
  compare (.clt c a b d) c a b d (fun x y => x.slt y) s
/-- CLE: x ≤ y, signed (R81). -/
def execCle (c : Chain) (a b : Reg) (d : PredDest) (s : State) : Host.Outcome State Fault Refusal :=
  compare (.cle c a b d) c a b d (fun x y => x.sle y) s
/-- CLTU: x < y, unsigned (R81). -/
def execCltu (c : Chain) (a b : Reg) (d : PredDest) (s : State) : Host.Outcome State Fault Refusal :=
  compare (.cltu c a b d) c a b d (fun x y => x.ult y) s
/-- CLEU: x ≤ y, unsigned (R81). -/
def execCleu (c : Chain) (a b : Reg) (d : PredDest) (s : State) : Host.Outcome State Fault Refusal :=
  compare (.cleu c a b d) c a b d (fun x y => x.ule y) s
/-- CEQI: x = imm (R81). -/
def execCeqi (c : Chain) (a : Reg) (imm : Word) (d : PredDest) (s : State) : Host.Outcome State Fault Refusal :=
  runChain c (.ceqi c a imm d) (do
    gate (.ceqi c a imm d) true .any
    checkUses [.rd a]
    let x ← readG a
    writePred d (x == imm)
    done (.ceqi c a imm d)) s
/-- PRD: ga := the predicate word, bit 0 always 1 (R82). -/
def execPrd (c : Chain) (a : Reg) (s : State) : Host.Outcome State Fault Refusal :=
  runChain c (.prd c a) (do
    gate (.prd c a) true .any
    checkUses [.wr a]
    writeG a ((fixP (← getCpu).p).setWidth 64)
    done (.prd c a)) s
/-- PWR: p1 to p15 := ga[15:1] (R82). -/
def execPwr (c : Chain) (a : Reg) (s : State) : Host.Outcome State Fault Refusal :=
  runChain c (.pwr c a) (do
    gate (.pwr c a) true .any
    checkUses [.rd a]
    let x ← readG a
    modCpu fun t => { t with p := fixP (x.setWidth 16) }
    done (.pwr c a)) s
/-- UDF traps ILLEGAL whatever its guard; TRAPVAL holds its halfword and its position (R40, R45). -/
def execUdf (c : Chain) (n : BitVec 10) (xr : BitVec 10) (m : BitVec 5) (xis : List (BitVec 10)) (s : State) :
    Host.Outcome State Fault Refusal :=
  let i : Instr := .udf c n xr m xis
  .next (takeTrap s Cause.illegal ((BitVec.ofNat 64 (i.len / 2 - 1) <<< 16) ||| i.baseWord.setWidth 64) 0 i.len)
/-- NOP does nothing for one turn (R46). -/
def execNop (c : Chain) (s : State) : Host.Outcome State Fault Refusal := runChain c (.nop c) (done (.nop c)) s

end Sys2Proof.Machine
end

