-- ==== Sys2Proof/Machine/Fetch.lean ====
section
/-!
DEFINITION. Fetching a chain (steps 1 and 2 of R39, R486) and the order in which agents move: which thread issues next
on a core (R48, R52, R281).
-/
namespace Sys2Proof.Machine

/-- The halfword at key `k` is delivered; an uncorrectable error reports the chain's address (R220). -/
def deliverHalf (pc : Word) (k : Nat) : Exec Half := do
  let s ← get
  if s.testing k 2 || s.owedAt k 2 then stall else pure ()
  memErrIf (s.badAt k 2) (s.badUnit k 2) pc
  return halfOfBytes (Memory.lookup s.mem k) (Memory.lookup s.mem (k + 1))

/-- The number of the instruction cache of core, or slice core, `k` (notes/assumptions/36.md). -/
def icacheUnit (k : Nat) : Nat := if k < 4096 then 4096 + k else 8192 + k

/-- Room for the line of key `a` in the instruction cache, of 16 sets of 4 ways, of core `k` or slice core `k` (R169, R282); none when
every way of its set is retired. -/
def State.fitInstr (s : State) (k a : Nat) : Option State :=
  let set := a / 512 % 16
  let lines := (s.core k).icache.filter fun l => l.key / 512 % 16 == set
  let ways := s.waysLeft (icacheUnit k) set 0 4
  if ways = 0 then none
  else if lines.length < ways then some s
  else
    let (j, s) := s.pickFree lines.length
    let old := (lines.map (·.key)).getD j 0
    some (s.putCore { s.core k with icache := (s.core k).icache.filter fun l => l.key != old })

/-- A way of the set of key `a` in the instruction cache of `k` runs a self-test (R478). -/
def State.instrTested (s : State) (k a : Nat) : Bool :=
  s.events.any fun e => match e with | .selfTestVerdict (.way x i _) _ => x == icacheUnit k && i == a / 512 % 16 | _ => false

/-- A line of an instruction cache as a line. -/
def ILine.lineData (l : ILine) : LineData := { data := l.data, valid := l.valid, bad := l.bad }

/-- The current agent's instruction cache is filled with the sector of `x.key`, or with its whole line (a free choice), as they are at
their home (R169, R219); a line homed on another die comes through the die's remote partition, which takes all of it (R179). -/
def fillInstr (x : Xlat) : Exec Unit := do
  let s ← get
  let line := lineOf x.key
  if x.remoteDie s.cpu.die then modify fun s => s.putCopy (4096 + s.cpu.die) line (s.homeLine line) else pure ()
  let k := s.cpu.agent
  let old := match (s.core k).iline? x.key with | some l => l.lineData | none => LineData.empty
  let l ← fillFrom old (s.homeLine line) x.key
  modify fun s =>
    let s := s.putCore { s.core k with icache := (s.core k).icache.filter fun l => l.key != line }
    match s.fitInstr k x.key with
    | some s => s.putCore { s.core k with icache := (s.core k).icache ++ [{ key := line, data := l.data, valid := l.valid, bad := l.bad }] }
    | none => s

/-- The halfword of a page, through the instruction cache of the core, or of a rill's slice core (R43, R169, R282): a sector held is
used, unless it has been displaced (a free choice, which shows only when the sector is not what its home has now); one not held is
filled. Pages of homes 2 and 3 use no cache. -/
def fetchCached (pc : Word) (x : Xlat) : Exec Half := do
  if decide (x.home ≥ 2) then deliverHalf pc x.key
  else do
    let s ← get
    let k := s.cpu.agent
    if s.instrTested k x.key then stall else pure ()
    match (s.core k).iline? x.key with
    | some l => do
      let o := x.key - lineOf x.key
      let h := halfOfBytes (l.data.getD o 0) (l.data.getD (o + 1) 0)
      let bad := l.bad.contains (x.key / 32)
      let same := h == halfOfBytes (Memory.lookup s.mem x.key) (Memory.lookup s.mem (x.key + 1)) && bad == s.badAt x.key 2
      let kept ← if same then pure true else choose
      if l.lineData.has x.key && kept then do
        memErrIf bad (some (s.wayAt (icacheUnit k) (x.key / 512 % 16) 0 4)) pc
        return h
      else fill
    | none => fill
where
  fill : Exec Half := do
    let h ← deliverHalf pc x.key
    fillInstr x
    return h

/-- A walk error names the chain's address (R488). -/
def reportChain {α : Type} (pc : Word) (m : Exec α) : Exec α := fun s =>
  match m s with
  | .error (.memerr unit _ aux) => .error (.memerr unit pc aux)
  | r => r

/-- Step 1 of R39 for the halfword at `va` of the chain at `pc`. -/
def fetchHalf (pc va : Word) : Exec Half := do
  let t ← getCpu
  trapIf (decide (va.toNat ≥ Config.vaEnd)) Cause.prot va
  if t.isSluice && decide (Config.sluiceCode ≤ va.toNat) && decide (va.toNat < Config.sluiceCodeEnd) then
    deliverHalf pc (sluiceKey t.die (va.toNat - Config.sluiceCode))
  else do
    trapIf (inAperture va) Cause.prot va
    let x ← reportChain pc (translateFor { t.walker with fetch := true } va)
    trapIf (!(x.entry.exec && (t.walker.sup || x.entry.user))) Cause.prot va
    if x.entry.invalid then trapRegion va x.entry else pure ()
    remoteReady x va 2 true false
    fetchCached pc x

/-- What fetching and decoding a chain gives. -/
inductive Fetched where
  | ok (i : Instr) (s : State)
  | illegal (e : Reject) (s : State)
  /-- Step 1 stopped, with the chain's length up to the halfword that failed (R221). -/
  | stopped (st : Stop) (len : Nat)

/-- Fetch from halfword `p.count` of the chain at `pc` on, at most `n` more. -/
def fetchFrom (pc : Word) : Nat → Pre → State → Fetched
  | 0, p, s => .illegal ⟨p.count, 0, 2 * p.count⟩ s
  | n + 1, p, s =>
    match fetchHalf pc (pc + BitVec.ofNat 64 (2 * p.count)) s with
    | .error st => .stopped st (2 * (p.count + 1))
    | .ok (h, s') =>
      match pushHalf p h with
      | .more p' => fetchFrom pc n p' s'
      | .bad e => .illegal e s'
      | .done r =>
        match decodeRaw r with
        | .ok i => .ok i s'
        | .error e => .illegal e s'

/-- Fetch and decode the current thread's chain. A chain has at most five halfwords (R33). -/
def fetch (s : State) : Fetched := fetchFrom s.cpu.pc 6 {} s

/-- TRAPVAL of ILLEGAL (R40). -/
def illegalVal (e : Reject) : Word := (BitVec.ofNat 64 e.pos <<< 16) ||| e.half.setWidth 64

/-- What a fetch that does not give an instruction does, with the state `s` before it. -/
def fetchStop (s : State) (st : Stop) (len : Nat) : Host.Outcome State Fault Refusal :=
  match st with
  | .trap cause val aux => .next (takeTrap s cause val aux len)
  | .memerr unit val aux => .next (takeTrap (s.selfTest unit) Cause.memerr val aux len)
  | .wait parked rec walks => .next (s.hold none parked rec walks)
  | .page va => pageOutcome none s va
  | .copyPage va _ _ => pageOutcome none s va
  | .report _ _ cause val aux => .next (takeTrap s cause val aux len)
  | .fault f => .fault f

/-- The chain whose page future was refused traps NOMAP at its next issue (R231), with the length its fetch gives. A fetch that waits
leaves it to trap when it is tried again. -/
def nomapTrap (s : State) (va : Word) : Host.Outcome State Fault Refusal :=
  let s0 : State := { s with cpu := { s.cpu with nomap := none } }
  match fetch s0 with
  | .ok i s' => .next (takeTrap s' Cause.nomap va 0 i.len)
  | .illegal e s' => .next (takeTrap s' Cause.illegal (illegalVal e) 0 e.len)
  | .stopped (.page _) len => .next (takeTrap s0 Cause.nomap va 0 len)
  | .stopped (.wait parked rec walks) _ => .next (s.hold none parked rec walks)
  | .stopped st len => fetchStop s0 st len

/-! Which agent moves next. -/

/-- The thread can issue. -/
def Thread.ready (t : Thread) : Bool := t.state == .ready

/-- The slot number in the rotation. -/
def Thread.slotNo (t : Thread) : Nat := t.id % 64

/-- Cycles from `cycle` to the next turn of `t`'s slot (R48, R281). -/
def Thread.turnIn (t : Thread) (cycle : Nat) : Nat := (t.slotNo % t.period + t.period - cycle % t.period) % t.period

/-- Of the ready threads of the agent, the one whose turn comes first. -/
def soonest (cycle : Nat) : List Thread → Option Thread
  | [] => none
  | t :: ts =>
    match soonest cycle ts with
    | none => some t
    | some u => if t.turnIn cycle ≤ u.turnIn cycle then some t else some u

/-- The cycle count of an agent: a core's, or a slice core's. -/
def State.agentCycle (s : State) (k : Nat) : Nat :=
  if k ≥ 4096 then assocD 0 (k - 4096) s.sliceCycles else (s.core k).cycle

/-- Set it. -/
def State.setAgentCycle (s : State) (k c : Nat) : State :=
  if k ≥ 4096 then { s with sliceCycles := assocSet (k - 4096) c s.sliceCycles }
  else s.putCore { s.core k with cycle := c }

/-- The core of `t`, or a row or vector entry of its allotment, is the unit. -/
def Thread.uses (t : Thread) (u : TestUnit) : Bool :=
  !t.isRill && match u with
    | .core k => k == t.coreId
    | .row k j => k == t.coreId && !t.isSluice && decide (t.rbase ≤ j) && decide (j < t.rbase + t.nregs / 8)
    | .vec k j => k == t.coreId && decide (t.vbase ≤ j) && decide (j < t.vbase + t.nvregs)
    | _ => false

/-- A unit that the thread needs to issue runs a self-test and refuses work (R478). -/
def State.underTest (s : State) (t : Thread) : Bool := s.events.any fun e => match e with | .selfTestVerdict u _ => t.uses u | _ => false

/-- The thread that issues next on agent `k`. -/
def State.nextThread (s : State) (k : Nat) : Option Thread :=
  soonest (s.agentCycle k) (s.threads.filter fun t => t.ready && t.agent == k && !s.underTest t)

/-- `n` cycles of agent `k` pass. Each thread that holds a slot of a core charges them to its gang (R417). -/
def State.passCycles (s : State) (k n : Nat) : State :=
  let s := s.setAgentCycle k (s.agentCycle k + n)
  if k ≥ 4096 then s
  else { s with gangs := s.gangs.map fun g =>
          { g with accrued := g.accrued + n * s.threads.countP fun t => t.gang == g.id && t.coreId == k && !t.isRill && !t.isSluice } }

/-- An issue cycle of rill `t` is charged to its task, or to its launch alone once the task has completed (R284, R417). -/
def State.chargeRill (s : State) (t : Thread) : State :=
  if s.gangs.any fun g => g.launch == t.launch && g.task == t.task then
    { s with gangs := mapFirst (fun g => g.launch == t.launch && g.task == t.task) (fun g => { g with accrued := g.accrued + 1 }) s.gangs }
  else s.modLaunch t.launch fun l => { l with thrcyc := l.thrcyc + 1 }

/-- The state in which that thread issues: it is the current one, and the cycle count is that of its turn (R53). -/
def State.turnOf (s : State) (k : Nat) (t : Thread) : State :=
  let s := s.passCycles k (t.turnIn (s.agentCycle k))
  (if t.isRill then s.chargeRill t else s).focus t.id

/-- A turn ends: the next cycle begins. -/
def State.endTurn (s : State) (k : Nat) : State := s.passCycles k 1

/-- Put the current thread among the others and give its place to `t`. -/
def State.seat (s : State) (t : Thread) : State :=
  let rest := s.others.filter fun u => u.id != t.id
  { s with cpu := t
           others := if s.cpu.state = .free || s.cpu.id = t.id then rest else State.insertThread s.cpu rest }

end Sys2Proof.Machine
end

