-- ==== Sys2Proof/Machine/Trust.lean ====
section
/-!
DEFINITION. Trust, upkeep and bring-up (spec/25_trust_and_upkeep.md): the events COLD_RESET, MEASUREMENT_EXTEND,
ATTESTATION_REQUEST, AUDIT_APPEND, SELF_TEST_VERDICT, CONTEXT_CREATE, CONTEXT_RELEASE, SCRUB_COMPLETE, FREQUENCY_CHANGE and
MANAGEMENT_REGISTER_WRITE.
-/
namespace Sys2Proof.Machine

/-! The audit log (R475). -/

/-- Bytes of a 64-byte island value, byte 0 lowest. -/
def islandBytes (x : BitVec 512) : List Byte := leBytes 64 x.toNat

/-- Append an entry: its SEQ, the head, the sequence number, and the ring that firmware designated, whose entry of SEQ k is
number (k - 1) mod its size (notes/assumptions/14.md). -/
def State.append (s : State) (kind source ctx : Nat) (payload : List Byte) : State :=
  let seq := s.island.seq + 1
  let e := leBytes 8 seq.toNat ++ leBytes 2 kind ++ leBytes 2 source ++ leBytes 4 ctx ++ (payload ++ List.replicate 48 0).take 48
  let s := { s with island := { s.island with seq := seq, head := Config.sha512 (islandBytes s.island.head ++ e) } }
  if s.island.ringSize = 0 then s
  else s.homeWrite (s.island.ringBase + 64 * ((seq - 1).toNat % s.island.ringSize)) e

/-- AUDIT_APPEND by firmware: kind 7 only; any other is discarded, and the discard is appended (R475). -/
def execAuditAppend (kind : Nat) (payload : BitVec 384) (s : State) : Host.Outcome State Fault Refusal :=
  awaitHost (.auditAppend kind payload) s (.next (s.append 7 0xFFFF 0 (if kind = 7 then leBytes 48 payload.toNat else [])))

/-! Measurement and attestation (R471 to R474). -/

/-- Register `reg` of die `die` is extended with the digest `d`, and the extend is appended to the log (R471, R475). -/
def State.extend (s : State) (die reg : Nat) (d : BitVec 512) : State :=
  if h : die < 6 ∧ reg < 8 then
    let i := 8 * die + reg
    let mr := s.island.mr.set i (Config.sha512 (islandBytes (s.island.mr[i]'(by omega)) ++ islandBytes d)) (by omega)
    ({ s with island := { s.island with mr := mr } } : State).append 6 0xFFFF 0 (leBytes 8 i ++ (islandBytes d).take 32)
  else s

/-- MEASUREMENT_EXTEND (R471, R472). -/
def execMeasurementExtend (die reg : Nat) (digest : BitVec 512) (s : State) : Host.Outcome State Fault Refusal :=
  awaitHost (.measurementExtend die reg digest) s (.next (s.extend die reg digest))

/-- The retirement summary (R480). -/
def State.retireSummary (s : State) : Nat :=
  let count (p : TestUnit → Bool) : Nat := min 1023 (s.retired.countP p)
  count (fun u => match u with | .row _ _ => true | _ => false) + 2 ^ 10 * count (fun u => match u with | .vec _ _ => true | _ => false) +
  2 ^ 20 * count (fun u => match u with | .way _ _ _ => true | _ => false) + 2 ^ 30 * count (fun u => match u with | .line _ _ => true | _ => false) +
  2 ^ 40 * count (fun u => match u with | .bank _ _ => true | _ => false) + 2 ^ 50 * count (fun u => match u with | .core _ => true | _ => false)

/-- Bytes 0x000 to 0xCAF of a report (R474). -/
def State.reportBody (s : State) (nonce : BitVec 512) : List Byte :=
  leBytes 8 1 ++ [0x41, 0x4D, 0x59, 0x2D, 0x36] ++ List.replicate 11 0 ++ leBytes 4 0x00010000 ++ List.replicate 4 0 ++
    islandBytes nonce ++ s.island.mr.toList.flatMap islandBytes ++ islandBytes s.island.head ++ leBytes 8 s.island.seq.toNat ++
    leBytes 8 s.retireSummary

/-- A report with its signature (R474). -/
def State.reportBytes (s : State) (nonce : BitVec 512) : List Byte :=
  let body := s.reportBody nonce
  let sig := Config.signature (Config.sha512 body)
  let big (x : BitVec 528) : List Byte := (leBytes 66 x.toNat).reverse
  body ++ big sig.1 ++ big sig.2

/-- The report is made, goes to the management path and, once firmware has placed it, to the mailbox (notes/assumptions/45.md), and the
key-use entry is appended after it (R474). -/
def State.attest (s : State) (nonce : BitVec 512) : State :=
  let r := s.reportBytes nonce
  let s' : State := { s with island := { s.island with report := r } }
  let s' := if s.island.booted then s'.homeWrite s.island.mbox r else s'
  s'.append 4 0xFFFF 0 ((islandBytes (Config.sha512 (r.take 0xCB0))).take 32)

/-- ATTESTATION_REQUEST (R474). A request whose nonce was not delivered is not served, and the error leads to a self-test (R18, R478;
notes/assumptions/63.md). -/
def execAttestationRequest (nonce : Option (BitVec 512)) (s : State) : Host.Outcome State Fault Refusal :=
  match nonce with
  | some x => awaitHost (.attestationRequest nonce) s (.next (s.attest x))
  | none => .next (s.selfTest (s.badUnit (s.island.mbox + 0xF80) 64))

/-! Reset (R472, R484). -/

/-- The standard sluice program (R486). -/
def standardProgram : List Half :=
  [0xF802, 0x6500, 0xF802, 0x690D, 0xF802, 0x6D8D, 0xF020, 0x4560, 0x7D60, 0xFC40, 0xAC00, 0x9FF5]

/-- Measure boot image `n` of die `die` into register `reg`; the device is in recovery once one fails (R472). -/
def State.bootImage (s : State) (die reg n : Nat) : State :=
  let s := s.extend die reg (Config.imageDigest n)
  if Config.imageVerifies n then s else { s with island := { s.island with recovery := true } }

/-- The ROMs load their images: each die's island and base-die firmware, then die 0's others; the sluice program is copied to
every die (R472, R486). -/
def State.boot (s : State) : State :=
  let s := (upTo 6).foldl (fun s d => (s.bootImage d 0 (8 * d)).bootImage d 1 (8 * d + 1)) s
  let s := s.bootImage 0 2 2
  let s := s.bootImage 0 3 3
  let s := if Config.imageVerifies 3 then
      { s with mem := (upTo 6).foldl (fun m d => Memory.writes m (sluiceKey d 0) (standardProgram.flatMap fun (h : Half) => leBytes 2 h.toNat)) s.mem }
    else s
  s.bootImage 0 4 4

/-- An event of the world outside, which a reset of the device does not undo. -/
def fromOutside (e : Instr) : Bool :=
  match e with
  | .hostSnoop _ _ | .hostAccess _ | .linkDown _ | .hostLinkUp _ | .peerRequest _ | .peerTableUpdate _ _ _ | .coldReset
  | .measurementExtend _ _ _ | .attestationRequest _ | .auditAppend _ _ | .selfTestVerdict _ _ | .frequencyChange _ _
  | .managementRegisterWrite _ => true
  | _ => false

/-- COLD_RESET: the state of R484, with the retirements kept, those of units that have failed and spare rows among them, and the memories
that are not the device's (the host's and the peers'); then the boot of R472. Firmware ends it with MgmtWrite.bootDone. -/
def execColdReset (s : State) : Host.Outcome State Fault Refusal :=
  .next ({ State.reset with
    retired := addUnits s.retired s.failing
    mem := s.mem.filter fun x => (decide (2 ^ 52 ≤ x.1) && decide (x.1 < 2 ^ 53)) || decide (2 ^ 56 ≤ x.1)
    bad := s.bad.filter fun k => (decide (2 ^ 52 ≤ 32 * k) && decide (32 * k < 2 ^ 53)) || decide (2 ^ 56 ≤ 32 * k)
    grants := s.grants
    events := s.events.filter fromOutside
    island := { Island.fresh with spares := s.island.spares, reported := s.island.reported }
    picks := s.picks
    free := s.free
    answers := s.answers } : State).boot

/-! Self-test (R478, R479). -/

/-- A unit as a kind-5 entry names it: a structure and a unit number (notes/assumptions/14.md). -/
def unitCode (u : TestUnit) : Nat × Nat :=
  match u with
  | .row c r => (0, 256 * c + r)
  | .vec c e => (1, 256 * c + e)
  | .way x i w => (2, (x * 256 + i) * 16 + w)
  | .line c l => (3, 256 * c + l)
  | .bank d b => (4, 2 ^ 16 * d + b)
  | .lane l n => (5, 2 ^ 16 * l + n)
  | .core c => (6, c)
  | .matrix c => (7, c)

/-- The spill engine meets an error that it knows of in what it would save of `t` (R477, R479). -/
def State.unreadable (s : State) (t : Thread) : Bool :=
  !t.badG.isEmpty || !t.badV.isEmpty || ((s.core t.coreId).fmt.holder == some t.id && !(s.core t.coreId).fmt.badTiles.isEmpty)

/-- Thread `t` of a core that has failed: it is halted and its gang is spilled, unless the spill engine cannot read it without error, which
is a free choice where the model knows of none; then, and in the sluice slot, it is halted or removed with a record of cause MEMERR (R479). -/
def State.failThread (s : State) (t : Thread) : State :=
  let n := trapNote t Cause.memerr t.pc 0 0 0 0
  let stops := t.state == .ready || t.state == .parked
  let s := if stops then { s with weir := s.weir.filter fun w => w.slot != t.id } else s
  if t.isSluice then (s.putThread { t.unwait with state := .halted }).post (.notificationRecord n)
  else
    let s := { s with free := s.free + 1 }
    if Config.freeBit (s.free - 1) && !s.unreadable t then
      let s := s.putThread (if stops then { t.unwait with state := .spilling } else t)
      if s.events.any (isSpillOf t.gang) then s else s.post (.gangSpill t.gang .preempt)
    else (s.removeThread t).post (.notificationRecord n)

/-- A core that has failed halts its threads (R479): a Stalled instruction is completed first (R50), as is a load, and a drain goes on. -/
def State.haltFailed (s : State) : State :=
  let late (id : Nat) : Bool := (s.thread? id).any fun t => t.state == .stalled || t.state == .loading
  s.halting.foldl (fun (s : State) id =>
    match s.thread? id with
    | some t => if t.state == .ready || t.state == .parked || t.state == .halted then s.failThread t else s
    | none => s) { s with halting := s.halting.filter late }

/-- The source that an entry about a unit names: die × 64 + cluster, or 0xFFFF for a unit of no cluster (R475). -/
def unitSource (u : TestUnit) : Nat :=
  match u with
  | .row c _ | .vec c _ | .line c _ | .core c => c / 8
  | .matrix c => c
  | .way x _ _ => if x < 8192 then x % 4096 / 8 else if x < 12288 then x - 8192 else x - 12288
  | .bank _ _ | .lane _ _ => 0xFFFF

/-- Set `set` of the instruction cache of core `k` holds no line. -/
def State.emptyISet (s : State) (k set : Nat) : State :=
  s.putCore { s.core k with icache := (s.core k).icache.filter fun l => l.key / 512 % 16 != set }

/-- A way holds no line any more (R478): the lines of its set leave the cache, an L1 with what R172 says of them; of an L2 slice, those of
the partition that the way belongs to (R14). -/
def State.emptySet (s : State) (x set way : Nat) : State :=
  if x < 4096 then (s.l1Lines x set).foldl (fun (s : State) a => s.dropL1 x a) s
  else if x < 8192 then s.emptyISet (x - 4096) set
  else if x < 12288 then
    let slice := x - 8192
    if way < 14 then { s with l2 := s.l2.filter fun l => !(sliceOf l.line == slice && l2Set l.line == set) }
    else
      let there (holder a : Nat) : Bool := holder == 4096 + slice / 64 && sliceOf a % 64 == slice % 64 && l2Set a == set
      { s with
        copies := s.copies.filter fun c => !there c.holder c.home
        tracked := s.tracked.filter fun h => !there h.core h.grain }
  else s.emptyISet (x - 8192) set

/-- A lasting fault of a unit (R478): a row of an HBM bank is replaced by a spare one while the bank has any, and then the bank is
retired and its frames are reported to firmware; every other unit is retired when its user releases it (R479). A core has its threads
to halt (`State.haltFailed`). A unit that has failed already is counted once (R480). -/
def State.fail (s : State) (u : TestUnit) : State :=
  if (s.retired ++ s.failing).contains u then s
  else match u with
  | .bank d b =>
    let used := assocD 0 (d, b) s.island.spares
    if used ≤ Config.furtherSpareRows (64 * d + b) then { s with island := { s.island with spares := assocSet (d, b) (used + 1) s.island.spares } }
    else { s with failing := s.failing ++ [u], island := { s.island with reported := s.island.reported ++ [(d, b)] } }
  | .way x set way => ({ s with failing := s.failing ++ [u] } : State).emptySet x set way
  | .core k =>
    { s with failing := s.failing ++ [u]
             halting := s.halting ++ (s.threads.filter fun (t : Thread) => !t.isRill && t.coreId == k).map fun (t : Thread) => t.id }
  | _ => { s with failing := s.failing ++ [u] }

/-- The verdict of a self-test (R478, R479): it is logged, and the error was transient or the unit has a lasting fault. -/
def State.verdict (s : State) (u : TestUnit) (pass : Bool) : State :=
  let (k, n) := unitCode u
  let s := s.append 5 (unitSource u) 0 (leBytes 8 k ++ leBytes 8 n ++ leBytes 8 (if pass then 0 else 1))
  if pass then { s with island := { s.island with transients := assocSet u (assocD 0 u s.island.transients + 1) s.island.transients } }
  else (s.fail u).retireIdle

/-- SELF_TEST_VERDICT (R478, R479). -/
def execSelfTestVerdict (u : TestUnit) (pass : Bool) (s : State) : Host.Outcome State Fault Refusal :=
  awaitHost (.selfTestVerdict u pass) s (.next (s.verdict u pass))

/-! Contexts (R482, R483). -/

/-- Address of control-page slot `k`. -/
def State.ctrlAt (s : State) (k : Nat) : Nat := s.island.ctrl + 128 * k

/-- The slot's SEQ byte. -/
def State.ctrlSeq (s : State) (k : Nat) : Byte := Memory.lookup s.mem (s.ctrlAt k + 0x7F)

/-- A doubleword of a control-page request. -/
def State.request (s : State) (k o : Nat) : Word := BitVec.ofNat 64 (s.peek (s.ctrlAt k + o) 8)

/-- The accepted sequence of slot `k`. -/
def State.accepted (s : State) (k : Nat) : Byte := if h : k < 32 then s.island.ctrlAcc[k] else 0
/-- Accept the sequence of slot `k`. -/
def State.accept (s : State) (k : Nat) (b : Byte) : State :=
  if h : k < 32 then { s with island := { s.island with ctrlAcc := s.island.ctrlAcc.set k b } } else s

/-- Answer the request in slot `k`: STATUS, RESULT, then DONESEQ. The request of a SEQ byte that has changed meanwhile is waiting
already. -/
def State.answerRequest (s : State) (k status result : Nat) : State :=
  let a := s.ctrlAt k
  let s := s.poke (a + 0x40) 8 status
  let s := s.poke (a + 0x48) 8 result
  s.poke (a + 0x7E) 1 (s.accepted k).toNat

/-- A register value of a create request names device memory aligned to `n` bytes (R150, R226). -/
def deviceAligned (x : Word) (n : Nat) : Bool := x.toNat % n == 0 && decide (x.toNat + n ≤ Config.deviceBytes)

/-- A create request is well formed (R483). -/
def State.createOk (s : State) (k : Nat) : Bool :=
  s.request k 8 &&& ~~~0x10F == 0 && s.request k 0x28 &&& ~~~0xDFFFFF == 0 && deviceAligned (s.request k 0x10) (2 ^ 14) &&
    deviceAligned (s.request k 0x18) 2048 && deviceAligned (s.request k 0x20) 65536

/-- The request of slot `k` is to be served now: it is new, firmware has started, and it serves no other (R482). A SEQ byte that is not
delivered starts nothing (R18). -/
inductive Serve where
  | ignore | later | now
deriving DecidableEq, Repr

/-- See `Serve`. -/
def State.serve (s : State) (k : Nat) : Serve :=
  if s.island.recovery || decide (k ≥ 32) || s.badAt (s.ctrlAt k + 0x7F) 1 || s.ctrlSeq k == s.accepted k then .ignore
  else if !s.island.booted || s.contexts.any (·.closing) then .later
  else .now

/-- An error that firmware has met in what it reads of slot `k` leads to a self-test (R478). -/
def State.ctrlErr (s : State) (k o n : Nat) : State :=
  if s.badAt (s.ctrlAt k + o) n then s.selfTest (s.badUnit (s.ctrlAt k + o) n) else s

/-- The request of slot `k` is not delivered. DESIGN CHOICE: it is answered as a malformed one is (R18; notes/assumptions/63.md). -/
def State.badRequest (s : State) (k : Nat) : State := (s.ctrlErr k 0 0x40).answerRequest k 1 0

/-- Create what slot `k` asks for (R483). -/
def State.createContext (s : State) (k : Nat) : State :=
  let s := s.accept k (s.ctrlSeq k)
  if s.badAt (s.ctrlAt k) 0x40 then s.badRequest k
  else if s.request k 0 != 1 || !s.createOk k then s.answerRequest k 1 0
  else match first? (fun n => (s.context? n).isNone) (upTo 4096) with
    | none => s.answerRequest k 2 0
    | some n =>
      let arg := s.request k 8
      let c : Context :=
        { num := n, tenant := field arg 0 4, priv := arg.getLsbD 8, pageroot := s.request k 0x10, regiontab := s.request k 0x18
          supvec := s.request k 0x20, hctx := s.request k 0x28, closing := false, scrubbing := false, releaser := 0, frames := 0, nframes := 0 }
      let s : State := { s with contexts := s.contexts ++ [c] }
      let s := s.append 1 0xFFFF n (leBytes 8 c.tenant ++ leBytes 8 c.priv.toNat ++ leBytes 8 c.pageroot.toNat)
      s.answerRequest k 0 n

/-- CONTEXT_CREATE (R482, R483): a request in slot `k` that is not a release. -/
def execContextCreate (k : Nat) (s : State) : Host.Outcome State Fault Refusal :=
  match s.serve k with
  | .ignore => .next (s.ctrlErr k 0x7F 1)
  | .later => .next (s.postAgain (.contextCreate k))
  | .now =>
    if s.request k 0 = 2 then .next (s.postAgain (.contextRelease k))
    else awaitHost (.contextCreate k) s (.next (s.createContext k))

/-- The event belongs to a thread in one of the slots `ids`: an access of it that is on its way, or an answer to one. -/
def eventOfSlot (ids : List Nat) (e : Instr) : Bool :=
  match e with
  | .rupdApply r => ids.contains r.slot
  | .rmwAtHome r => ids.contains r.holder
  | .threadLoadComplete n | .accessReply n _ | .endDrainComplete n | .tlbWalkComplete n _ | .weirlimExpire n | .waitrTimeout n | .rillMigrate n _
  | .completionTimeout n | .peerStoreRefused n _ _ | .mcstAnswer n _ _ | .lossNotice n _ => ids.contains n
  | _ => false

/-- The event belongs to context `n` and ends with it. -/
def eventOfContext (n : Nat) (e : Instr) : Bool :=
  match e with
  | .notificationRecord r => r.ctx == n
  | .supervisorAction c _ => c == n
  | .futureComplete c _ => c == n
  | .rillAccept r => r.ctx == n
  | _ => false

/-- A rill that waits for a slot of a slice core goes with its context, and what refused it (R177, R285). -/
def State.dropSeeds (s : State) (n : Nat) : State :=
  let gone := s.events.filterMap fun e => match e with | .rillAccept r => if r.ctx == n then some (2 ^ 20 + 4096 + r.spawner) else none | _ => none
  { s with refused := s.refused.filter fun r => !gone.contains r.slot }

/-- What threads of context `n` in the slots `ids`, which hold no thread any more, and those before them have on its way is discarded
(R483): it is as if it had never come to its home. -/
def State.discard (s : State) (n : Nat) (ids : List Nat) : State :=
  let ids := ids ++ (s.owedStores.filter fun o => o.note.ctx == n).map fun (o : OwedStore) => o.slot
  { s with
    weir := s.weir.filter fun w => !ids.contains w.slot
    owedStores := s.owedStores.filter fun o => o.note.ctx != n
    events := s.events.filter fun e => !eventOfSlot ids e }

/-- Remove a thread of a released context without completing its task: its windows are written back and what it holds is
freed, as END frees it (R92, R483). DESIGN CHOICE: an instruction of it that waits has none of its effects (R50;
notes/assumptions/56.md). -/
def State.expelThread (s : State) (t : Thread) : State :=
  let s := if t.isRill then s.dropResv fun r => r.holder == t.id else s.dropHoldings t
  let c := s.core t.coreId
  let s := if t.isRill then s
    else s.putCore { c with rows := c.rows.map fun r => if r.owner == some t.id then { r with owner := none, batch := t.batch, save := none, entry := none } else r }
  s.vacate t

/-- The future entries of context `c` are freed (R483). -/
def State.freeFutures (s : State) (c : Context) : State :=
  if c.supBlock + 65536 ≤ Config.deviceBytes then
    (upTo 1024).foldl (fun s i => let d := s.peek (c.futureAt i) 8; if d % 4 = 0 || s.badAt (c.futureAt i) 8 then s else s.poke (c.futureAt i) 8 (d / 4 * 4)) s
  else s

/-- The running launches of context `n`. -/
def State.launchesOf (s : State) (n : Nat) : List Nat := (upTo 64).filter fun k => (s.launch k).running && (s.launch k).ctx == n

/-- Step 2 of a release (R483), up to the completion of its launches, which waits for the copies under way. -/
def State.endContext (s : State) (c : Context) : State :=
  let n := c.num
  let gone := s.queues.filter fun q => q.ctx == n
  let mine := (s.threads.filter fun t => t.ctx == n && !t.isSluice).map fun (t : Thread) => t.id
  let s := (s.gangs.filter fun g => g.ctx == n).foldl State.charge (s.dropSeeds n)
  let s := (s.threads.filter fun t => t.ctx == n && !t.isSluice).foldl State.expelThread s
  let queues := s.queues.filter fun q => q.ctx != n
  let s := { s with
    gangs := s.gangs.filter fun g => g.ctx != n
    queues := queues
    holds := s.holds.filter fun h => queues.any h.isFor
    sweeps := s.sweeps.filter fun w => w.ctx != n
    records := s.records.filter fun r => r.ctx != n
    events := s.events.filter fun e => !eventOfContext n e
    cores := s.cores.map fun (k : Core) => if k.ctx = some n then { k with mailbox := [], score := k.score.filter (·.taken) } else k }
  let s := (gone.foldl (fun (s : State) q => s.emptyDeficit q.cluster q.tenant) (s.discard n mine)).freeFutures c
  (s.launchesOf n).foldl (fun s k => s.modLaunch k fun l => { l with roots := [] }) s

/-- Bytes `a` to `a + len - 1` of device memory are zeroed, and no cache or window holds them. -/
def State.zeroBytes (s : State) (a len : Nat) : State :=
  let out (x : Nat) : Bool := decide (x < a) || decide (a + len ≤ x) || decide (Config.deviceBytes ≤ x)
  let s := (s.withdraw a len).dropResv fun r => overlaps a len r.granule 64
  { s with
    mem := s.mem.filter fun x => out x.1
    bad := s.bad.filter fun k => out (32 * k)
    copies := s.copies.filter fun c => out c.home
    l2 := s.l2.filter fun l => out l.line
    cores := s.cores.map fun (k : Core) => { k with icache := k.icache.filter fun l => out l.key } }

/-- A frame that firmware names is zeroed, with its stamps' INIT bits cleared (R242, R476). -/
def State.scrubFrames (s : State) (a len : Nat) : State :=
  let s := s.zeroBytes a len
  { s with stamps := s.stamps.filter fun x => decide (x.1 < a) || decide (a + len ≤ x.1) }

/-- The frame runs of a list of `nfr` at `list`. DESIGN CHOICE: one that is not delivered names no frame (R18;
notes/assumptions/63.md). -/
def State.frameRuns (s : State) (list nfr : Nat) : List (Nat × Nat) :=
  ((upTo nfr).filter fun j => !s.badAt (list + 16 * j) 16).map fun j => (s.peek (list + 16 * j) 8, s.peek (list + 16 * j + 8) 8)

/-- Step 3 of a release (R158, R476): the frames, the translations, the L2's copies, and the cores that ran the context,
which scrub when another context joins them (R422). The sluice slots of those cores are released. The kind-3 entries are appended by
SCRUB_COMPLETE. Posted writes that are on their way arrive before it, and then the launches of the context complete with code 6. -/
def State.scrubContext (s : State) (n list nfr : Nat) : State :=
  let s := (s.drainPosts .a).drainPosts .b
  let s := (s.launchesOf n).foldl (fun s k => s.completeLaunch k 6) s
  let s := s.append 2 0xFFFF n (leBytes 8 list ++ leBytes 8 nfr)
  let s := if s.badAt list (16 * nfr) then s.selfTest (s.badUnit list (16 * nfr)) else s
  let s := (s.frameRuns list nfr).foldl (fun s r => s.scrubFrames r.1 (r.2 * 16384)) s
  let sluices := s.threads.filter fun t => t.isSluice && t.ctx == n
  let s := (sluices.foldl State.release s).discard n (sluices.map fun (t : Thread) => t.id)
  let s := { s with
    tlb := s.tlb.filter fun e => e.ctx != n
    copies := s.copies.filter fun c => decide (c.holder < 4096)
    tracked := s.tracked.filter fun h => decide (h.core < 4096)
    l2 := s.l2.filter fun l => l.ctx != n
    cores := s.cores.map fun (k : Core) =>
      let k := { k with micro := k.micro.filter fun e => e.ctx != n, microI := k.microI.filter fun e => e.ctx != n }
      if k.ctx = some n then { k with ctx := none, mailbox := [], score := [], rows := [] } else k }
  ((s.post (.scrubComplete n scopeL2 0)).post (.scrubComplete n scopeTranslation 0)).post (.scrubComplete n scopeMemory 0)

/-- A scrub of the context is not logged yet. -/
def State.scrubPending (s : State) (n : Nat) : Bool :=
  s.events.any fun e => match e with | .scrubComplete c _ _ => c == n | _ => false

/-- A sluice slot still runs a copy of the context (R483). -/
def State.copying (s : State) (n : Nat) : Bool := s.cores.any fun k => k.ctx == some n && k.score.any (·.taken)

/-- A release request is well formed (R483). -/
def State.releaseOk (s : State) (k : Nat) : Bool :=
  let nfr := (s.request k 0x38).toNat
  s.request k 8 &&& ~~~0xFFF == 0 && decide (nfr ≤ 65536) && decide ((s.request k 0x30).toNat + 16 * nfr ≤ Config.deviceBytes)

/-- The context whose release slot `k` has asked for, once it has begun. -/
def State.releasing (s : State) (k : Nat) : Option Context := first? (fun c => c.closing && c.releaser == k) s.contexts

/-- The event of the next step of the release that slot `k` has asked for (model): the slots of the control page are 0 to 31. -/
def nextStep (k : Nat) : Instr := .contextRelease (k + 32)

/-- The next step of the release of context `c` that slot `k` has asked for (R483), each once the one before it is complete. -/
def State.releaseStep (s : State) (k : Nat) (c : Context) : State :=
  if !c.scrubbing then
    if s.copying c.num then s.post (nextStep k)
    else ((s.scrubContext c.num c.frames c.nframes).putContext { c with scrubbing := true }).post (nextStep k)
  else if s.scrubPending c.num then s.post (nextStep k)
  else ({ s with contexts := s.contexts.filter fun d => d.num != c.num } : State).answerRequest k 0 0

/-- A release that slot `k` asks for is accepted: it is refused, or begins with its first two steps (R483). -/
def State.acceptRelease (s : State) (k : Nat) : State :=
  let s := s.accept k (s.ctrlSeq k)
  if s.badAt (s.ctrlAt k) 0x40 then s.badRequest k
  else if !s.releaseOk k then s.answerRequest k 1 0
  else match s.context? (field (s.request k 8) 0 12) with
    | none => s.answerRequest k 3 0
    | some c =>
      let c := { c with closing := true, releaser := k, frames := (s.request k 0x30).toNat, nframes := (s.request k 0x38).toNat }
      ((s.putContext c).endContext c).post (nextStep k)

/-- What CONTEXT_RELEASE does for slot `k` (R482, R483), or for the release of slot `k - 32`. -/
def State.releaseContext (s : State) (k : Nat) : State :=
  if 32 ≤ k then
    match s.releasing (k - 32) with
    | some c => s.releaseStep (k - 32) c
    | none => s
  else
    match s.serve k with
    | .ignore => s.ctrlErr k 0x7F 1
    | .later => s.postAgain (.contextRelease k)
    | .now => if s.request k 0 != 2 then s.postAgain (.contextCreate k) else s.acceptRelease k

/-- CONTEXT_RELEASE (R482, R483). -/
def execContextRelease (k : Nat) (s : State) : Host.Outcome State Fault Refusal := awaitHost (.contextRelease k) s (.next (s.releaseContext k))

/-- SCRUB_COMPLETE: a kind-3 entry with the scope and the unit (R475, R476). -/
def execScrubComplete (ctx scope num : Nat) (s : State) : Host.Outcome State Fault Refusal :=
  awaitHost (.scrubComplete ctx scope num) s <| .next (s.append 3 (if scope = scopeCore then num / 8 else if scope = scopeSlot then num / 512 % 512 else 0xFFFF) ctx (leBytes 8 scope ++ leBytes 8 num))

/-! Clocks and the management path (R401, R485). -/

/-- FREQUENCY_CHANGE (R485): it changes no count of cycles and no value. -/
def execFrequencyChange (die mhz : Nat) (s : State) : Host.Outcome State Fault Refusal :=
  .next (if h : die < 6 then { s with island := { s.island with freq := s.island.freq.set die mhz } } else s)

/-- The export entry names this peer, incarnation apart, and context. -/
def Export.names (e : Export) (peer : BitVec 12) (ctx : Nat) : Bool := e.peer == peer && e.ctx == ctx

/-- The bits of TENCFG and of a group entry that are not reserved (R3, R401, R443). -/
abbrev tencfgBits : Word := 0x1FFFF
abbrev groupBits0 : Word := 0x03FFFFFFFFFFFE01
abbrev groupBits1 : Word := 0xFFF

/-- The launch window, the mailbox and the control page may lie there: aligned, on die 0 (R402, R430). -/
def placeOk (l m c : Nat) : Bool :=
  l % 0x2000 == 0 && m % 0x1000 == 0 && c % 0x1000 == 0 &&
    decide (l + 0x2000 ≤ 2 ^ 37) && decide (m + 0x1000 ≤ 2 ^ 37) && decide (c + 0x1000 ≤ 2 ^ 37)

/-- Completions on a port begin to arrive at once, or no more (model). -/
def State.portAnswers (s : State) (p : Port) (on : Bool) : State :=
  (if on then s.drainPosts p else s).modPort p fun x => { x with answers := on }

/-- Answers of a peer begin to arrive at once, those that it owes among them in their order, or no more (model). -/
def State.peerAnswers (s : State) (p : BitVec 12) (on : Bool) : State :=
  let s := { s with peers := mapFirst (fun e => e.num == p) (fun e => { e with answers := on }) s.peers }
  if on then
    (s.owedStores.filter fun o => o.peer == p.toNat).foldl State.performOwed { s with owedStores := s.owedStores.filter fun o => o.peer != p.toNat }
  else s

/-- Firmware has started the device, unless it is in recovery (R472, R484): the launch slots that wait are parsed. -/
def State.bootDone (s : State) : State :=
  if s.island.recovery then { s with island := { s.island with booted := false } }
  else
    let s := { s with island := { s.island with booted := true } }
    ((upTo 64).filter fun k => Memory.lookup s.mem (s.island.lwin + 128 * k + 0x7F) != (s.launch k).accepted).foldl (fun (s : State) k => s.post (.launchParse k)) s

/-- MANAGEMENT_REGISTER_WRITE: what firmware sets. A port's mode and the places of the three areas are set at bring-up and kept (R402,
R428). -/
def execManagementRegisterWrite (w : MgmtWrite) (s : State) : Host.Outcome State Fault Refusal :=
  match w with
  | .clupart c p => .next (if h : c < 384 then { s with clupart := s.clupart.set c p } else s)
  | .tencfg t v => .next (if h : t < 16 then { s with tencfg := s.tencfg.set t (v &&& tencfgBits) } else s)
  | .group n x y =>
    let a := x &&& groupBits0
    let b := y &&& groupBits1
    let rest := s.groups.filter fun e => e.num != n
    .next { s with groups := if a == 0 && b == 0 then rest else { num := n, dw0 := a, dw1 := b } :: rest }
  | .portMode p m => .next (if s.island.booted then s else s.modPort p fun x => { x with pcie := m })
  | .atomicEnable p on => .next (s.modPort p fun x => { x with atomics := on })
  | .self n i => .next { s with selfNum := n, selfInc := i }
  | .exportAdd p i c tables lo hi rd wr =>
    .next { s with exports := s.exports ++ [{ peer := p, inc := i, ctx := c, tables := tables, lo := lo, hi := hi, rd := rd, wr := wr }] }
  | .exportRemove p c => .next { s with exports := s.exports.filter fun e => !e.names p c }
  | .grant p c lo hi rd wr => .next { s with grants := s.grants ++ [{ peer := p, inc := (s.peer p).inc, ctx := c, tables := 0, lo := lo, hi := hi, rd := rd, wr := wr }] }
  | .revoke p c => .next { s with grants := s.grants.filter fun e => !e.names p c }
  | .place l m c a b =>
    if s.island.booted || !placeOk l m c then .next s
    else
    let s := ((s.zeroBytes l 0x2000).zeroBytes m 0x1000).zeroBytes c 0x1000
    .next { s with island := { s.island with lwin := l, mbox := m, ctrl := c }, portA := { s.portA with hdmBase := a }, portB := { s.portB with hdmBase := b } }
  | .auditRing b n => .next { s with island := { s.island with ringBase := b, ringSize := n } }
  | .portAnswers p on => .next (s.portAnswers p on)
  | .peerAnswers p on => .next (s.peerAnswers p on)
  | .certificate => .next { s with island := { s.island with certificate := Config.certificate } }
  | .errorLog p => .next (s.answer (some (BitVec.ofNat 128 (s.port p).errlog)))
  | .bootDone => .next s.bootDone

end Sys2Proof.Machine
end

