-- ==== Sys2Proof/Machine/Schedule.lean ====
section
/-!
DEFINITION. What is between the steps of instructions: which agent the model moves next, the idle cycles of an agent,
and the monitors that turn a condition of the state into an event (model; notes/assumptions/3.md).
-/
namespace Sys2Proof.Machine

/-- What the picked agent does. -/
inductive Move where
  | event (e : Instr)
  | core (k : Nat)

/-- Remove element `n` of a list. -/
def removeAt {α : Type} : Nat → List α → List α
  | _, [] => []
  | 0, _ :: xs => xs
  | n + 1, x :: xs => x :: removeAt n xs

/-- Agents with a thread that can issue or that waits with a limit. -/
def State.agents (s : State) : List Nat := (s.threads.filter fun t => t.ready || t.waiting).map Thread.agent

/-- The agent served after number `last`: the next higher one, or the lowest. -/
def State.agentAfter (s : State) (last : Nat) : Option Nat :=
  match least (s.agents.filter fun k => decide (last < k)) with
  | some k => some k
  | none => least s.agents

/-- Without a pick, events and agents alternate; `turn` is twice the last agent, plus 1 after an event. -/
def State.defaultMove (s : State) : Option (Move × State) :=
  match s.events, s.agentAfter (s.turn / 2), s.turn % 2 with
  | [], none, _ => none
  | [], some k, _ => some (.core k, { s with turn := 2 * k })
  | e :: es, none, _ => some (.event e, { s with events := es })
  | e :: es, some _, 0 => some (.event e, { s with events := es, turn := s.turn + 1 })
  | _ :: _, some k, _ => some (.core k, { s with turn := 2 * k })

/-- Number of the event that is served when event `n` is picked: the earliest of its queue, where the order of arrival counts. -/
def State.earliest (s : State) (n : Nat) : Nat :=
  match s.events[n]? with
  | some e => (first? (fun j => match s.events[j]? with | some d => sameQueue e d | none => false) (upTo n)).getD n
  | none => n

/-- The event may access memory behind banks and caches, so it waits while one of them is under test (R478; notes/assumptions/37.md).
Appends to the audit log, whose verdicts end the tests, wait for none. -/
def needsMemory (e : Instr) : Bool :=
  match e with
  | .notificationRecord _ | .supervisorAction _ _ | .futureComplete _ _ | .gangSpill _ _ | .gangRestore _ | .threadLoadComplete _
  | .endDrainComplete _ | .tlbWalkComplete _ _ | .homeRequest _ _ _ | .fillArrive _ _ | .stampedStoreHome _ | .rmwAtHome _
  | .rupdApply _ | .rillMigrate _ _ | .launchParse _ | .launchSweep _ | .taskAdmit _ | .reservationStart _ _
  | .coreContextScrub _ _ | .hostAccess _ | .peerRequest _ | .attestationRequest _ | .contextCreate _ | .contextRelease _ => true
  | _ => false

/-- The agent that moves next: the first pick, if it names one that can move. -/
def State.nextMove (s : State) : Option (Move × State) :=
  match s.picks with
  | .event n :: ps =>
    match s.events[s.earliest n]? with
    | some e => some (.event e, { s with picks := ps, events := removeAt (s.earliest n) s.events })
    | none => ({ s with picks := ps } : State).defaultMove
  | .core k :: ps => some (.core k, { s with picks := ps })
  | [] => s.defaultMove

/-- Nothing issues on agent `k` for a turn of every slot: its cycles pass (R47). -/
def State.idle (s : State) (k : Nat) : State := s.passCycles k (if k ≥ 4096 then 16 else 64)

/-- Insert a thread into a list in the order of the rotations' next turns (R278). -/
def insertTurn (s : State) (t : Thread) : List Thread → List Thread
  | [] => [t]
  | u :: us =>
    if t.turnIn (s.agentCycle t.agent) ≤ u.turnIn (s.agentCycle u.agent) then t :: u :: us else u :: insertTurn s t us

/-- Waiting threads that are tried again, those not waiting for a page, in the order of their next turns (R278). -/
def State.retryable (s : State) : List Nat :=
  ((s.threads.filter fun t => t.waiting && t.future.isNone).foldr (insertTurn s) []).map (·.id)

/-- The limit of the waiting instruction of `t`, in cycles from its issue: WEIRLIM of an aged load, the timeout of a WAITR
(R251, R293); none while nothing limits it or its limit has been reached. -/
def Thread.limitEvent (t : Thread) : Option (Nat × Instr) :=
  if t.state != .parked || t.wake != .none then none
  else match t.held with
    | some (.ldaw _ _ _ _ _ _) | some (.vlda _ _ _ _ _ _) =>
      if t.weirlim == 0 then none else some (t.weirlim.toNat, .weirlimExpire t.id)
    | some (.waitr _ a) => if t.reg a.toNat == 0 then none else some ((t.reg a.toNat).toNat, .waitrTimeout t.id)
    | _ => none

/-- The events of waits whose limit has passed. -/
def State.limitEvents (s : State) : List Instr :=
  s.threads.filterMap fun t => match t.limitEvent with
    | some (n, e) => if decide (s.cycleOf t ≥ t.since + n) then some e else none
    | none => none

/-- Clusters at which a queue holds an entry. -/
def State.busyClusters (s : State) : List Nat := s.queues.foldl (fun l q => if l.contains q.cluster then l else l ++ [q.cluster]) []

/-- Clusters whose queues are empty and whose deficits are not 0 yet (R417). -/
def State.spentClusters (s : State) : List Nat :=
  nub ((s.deficits.filter fun d => decide (d.2 ≠ 0) && !s.queues.any fun q => q.cluster == d.1.1).map fun (d : (Nat × Nat) × Int) => d.1.1)

/-- The Headgate's own events: a round of admission at a cluster with queued entries or a deficit to clear (R416, R417), a sweep of a running launch that
looks idle (R421), and the charge of a gang each 65,536 cycles (R417). -/
def State.headgateEvents (s : State) : List Instr :=
  (s.busyClusters ++ s.spentClusters).map .taskAdmit ++
  ((upTo 64).filter fun k => (s.launch k).running && s.idleFor k).map .launchSweep ++
  (s.gangs.filter fun g => decide (0 < s.threads.countP fun t => t.gang == g.id && !t.isRill && !t.isSluice) &&
      decide (g.accrued ≥ 65536 * s.threads.countP fun t => t.gang == g.id && !t.isRill && !t.isSluice)).map fun (g : Gang) => .deficitCharge g.id

/-- The entry is at the head of its queue. -/
def State.isHead (s : State) (q : QEntry) : Bool := s.head q.cluster q.tenant == some q

/-- The wait of an entry counts from when it is seen at the head of its queue, for as long as it stays there (R418). -/
def State.markHeads (s : State) : State :=
  { s with queues := s.queues.map fun q => { q with since := if s.isHead q then some (q.since.getD s.now) else none } }

/-- Reservations that are due: a head that has waited 2^16 cycles (R418). -/
def State.dueHolds (s : State) : List Instr :=
  (s.queues.filter fun q => s.isHead q && s.overdue q).map fun (q : QEntry) => .reservationStart q.cluster q.tenant

/-- A refused request ends with the wait of its slot (R177). -/
def State.dropRefusals (s : State) : State :=
  { s with refused := s.refused.filter fun r => decide (r.slot ≥ 2 ^ 20) || s.threads.any fun t => t.id == r.slot && t.waiting }

/-- What the monitors do after a step: a core that has failed halts its threads (R479), and each event that is due and not pending
already is posted. -/
def State.monitor (s : State) : State :=
  let s := s.haltFailed.markHeads.dropRefusals
  (s.limitEvents ++ s.headgateEvents ++ s.dueHolds).foldl (fun (s : State) e => if s.events.contains e then s else s.post e) s

end Sys2Proof.Machine
end

