-- ==== Sys2Proof/Machine/Dispatch.lean ====
section
/-!
DEFINITION. Dispatch: one arm per constructor of Instr, each one direct call of its meaning.
-/
namespace Sys2Proof.Machine

/-- The meaning of an instruction or event. -/
def exec (i : Instr) (s : State) : Host.Outcome State Fault Refusal :=
  match i with
  | .udf c n xr m xis => Sys2Proof.Machine.execUdf c n xr m xis s
  | .nop c => Sys2Proof.Machine.execNop c s
  | .mov c a b => Sys2Proof.Machine.execMov c a b s
  | .movi c a imm => Sys2Proof.Machine.execMovi c a imm s
  | .add c a b k => Sys2Proof.Machine.execAdd c a b k s
  | .sub c a b k => Sys2Proof.Machine.execSub c a b k s
  | .addi c a imm => Sys2Proof.Machine.execAddi c a imm s
  | .mul c a b k => Sys2Proof.Machine.execMul c a b k s
  | .mulh c a b k => Sys2Proof.Machine.execMulh c a b k s
  | .mulhu c a b k => Sys2Proof.Machine.execMulhu c a b k s
  | .div c a b k => Sys2Proof.Machine.execDiv c a b k s
  | .divu c a b k => Sys2Proof.Machine.execDivu c a b k s
  | .rem c a b k => Sys2Proof.Machine.execRem c a b k s
  | .remu c a b k => Sys2Proof.Machine.execRemu c a b k s
  | .and c a b k => Sys2Proof.Machine.execAnd c a b k s
  | .or c a b k => Sys2Proof.Machine.execOr c a b k s
  | .xor c a b k => Sys2Proof.Machine.execXor c a b k s
  | .andi c a imm => Sys2Proof.Machine.execAndi c a imm s
  | .ori c a imm => Sys2Proof.Machine.execOri c a imm s
  | .xori c a imm => Sys2Proof.Machine.execXori c a imm s
  | .shl c a b k => Sys2Proof.Machine.execShl c a b k s
  | .shr c a b k => Sys2Proof.Machine.execShr c a b k s
  | .sar c a b k => Sys2Proof.Machine.execSar c a b k s
  | .shli c a imm => Sys2Proof.Machine.execShli c a imm s
  | .shri c a imm => Sys2Proof.Machine.execShri c a imm s
  | .sari c a imm => Sys2Proof.Machine.execSari c a imm s
  | .clz c a b => Sys2Proof.Machine.execClz c a b s
  | .popc c a b => Sys2Proof.Machine.execPopc c a b s
  | .min c a b k => Sys2Proof.Machine.execMin c a b k s
  | .max c a b k => Sys2Proof.Machine.execMax c a b k s
  | .ceq c a b d => Sys2Proof.Machine.execCeq c a b d s
  | .cne c a b d => Sys2Proof.Machine.execCne c a b d s
  | .clt c a b d => Sys2Proof.Machine.execClt c a b d s
  | .cle c a b d => Sys2Proof.Machine.execCle c a b d s
  | .cltu c a b d => Sys2Proof.Machine.execCltu c a b d s
  | .cleu c a b d => Sys2Proof.Machine.execCleu c a b d s
  | .ceqi c a imm d => Sys2Proof.Machine.execCeqi c a imm d s
  | .prd c a => Sys2Proof.Machine.execPrd c a s
  | .pwr c a => Sys2Proof.Machine.execPwr c a s
  | .br c off => Sys2Proof.Machine.execBr c off s
  | .bl c a off => Sys2Proof.Machine.execBl c a off s
  | .jr c a b => Sys2Proof.Machine.execJr c a b s
  | .loop c a off => Sys2Proof.Machine.execLoop c a off s
  | .endThread c => Sys2Proof.Machine.execEndThread c s
  | .ldb c a b off mm => Sys2Proof.Machine.execLdb c a b off mm s
  | .ldh c a b off mm => Sys2Proof.Machine.execLdh c a b off mm s
  | .ldw c a b off mm => Sys2Proof.Machine.execLdw c a b off mm s
  | .ldd c a b off mm => Sys2Proof.Machine.execLdd c a b off mm s
  | .sextB c a b => Sys2Proof.Machine.execSextB c a b s
  | .sextH c a b => Sys2Proof.Machine.execSextH c a b s
  | .sextW c a b => Sys2Proof.Machine.execSextW c a b s
  | .stb c a b off mm => Sys2Proof.Machine.execStb c a b off mm s
  | .sth c a b off mm => Sys2Proof.Machine.execSth c a b off mm s
  | .stw c a b off mm => Sys2Proof.Machine.execStw c a b off mm s
  | .std c a b off mm => Sys2Proof.Machine.execStd c a b off mm s
  | .mfs c a sr => Sys2Proof.Machine.execMfs c a sr s
  | .mts c a sr => Sys2Proof.Machine.execMts c a sr s
  | .trap c n => Sys2Proof.Machine.execTrap c n s
  | .fenceFull c sc => Sys2Proof.Machine.execFenceFull c sc s
  | .fenceAcq c sc => Sys2Proof.Machine.execFenceAcq c sc s
  | .fenceRel c sc => Sys2Proof.Machine.execFenceRel c sc s
  | .fenceIfetch c sc => Sys2Proof.Machine.execFenceIfetch c sc s
  | .waitr c a => Sys2Proof.Machine.execWaitr c a s
  | .muli c a imm => Sys2Proof.Machine.execMuli c a imm s
  | .gbar c => Sys2Proof.Machine.execGbar c s
  | .fadd c a b k => Sys2Proof.Machine.execFadd c a b k s
  | .fsub c a b k => Sys2Proof.Machine.execFsub c a b k s
  | .fmul c a b k => Sys2Proof.Machine.execFmul c a b k s
  | .ffma c a b k => Sys2Proof.Machine.execFfma c a b k s
  | .fdiv c a b k => Sys2Proof.Machine.execFdiv c a b k s
  | .fsqrt c a b => Sys2Proof.Machine.execFsqrt c a b s
  | .fmin c a b k => Sys2Proof.Machine.execFmin c a b k s
  | .fmax c a b k => Sys2Proof.Machine.execFmax c a b k s
  | .fceq c a b d => Sys2Proof.Machine.execFceq c a b d s
  | .fclt c a b d => Sys2Proof.Machine.execFclt c a b d s
  | .fcle c a b d => Sys2Proof.Machine.execFcle c a b d s
  | .fcvti c a b => Sys2Proof.Machine.execFcvti c a b s
  | .fcvtiRz c a b => Sys2Proof.Machine.execFcvtiRz c a b s
  | .icvtf c a b => Sys2Proof.Machine.execIcvtf c a b s
  | .icvtfU c a b => Sys2Proof.Machine.execIcvtfU c a b s
  | .vadd c a b k => Sys2Proof.Machine.execVadd c a b k s
  | .vsub c a b k => Sys2Proof.Machine.execVsub c a b k s
  | .vmul c a b k => Sys2Proof.Machine.execVmul c a b k s
  | .vfma c a b k => Sys2Proof.Machine.execVfma c a b k s
  | .vmax c a b k => Sys2Proof.Machine.execVmax c a b k s
  | .vmin c a b k => Sys2Proof.Machine.execVmin c a b k s
  | .viadd c a b k => Sys2Proof.Machine.execViadd c a b k s
  | .vbcast c a b => Sys2Proof.Machine.execVbcast c a b s
  | .vextr c a b lane => Sys2Proof.Machine.execVextr c a b lane s
  | .vins c a b lane => Sys2Proof.Machine.execVins c a b lane s
  | .vsum c a b => Sys2Proof.Machine.execVsum c a b s
  | .vmaxr c a b => Sys2Proof.Machine.execVmaxr c a b s
  | .vld c a b off mm => Sys2Proof.Machine.execVld c a b off mm s
  | .vst c a b off mm => Sys2Proof.Machine.execVst c a b off mm s
  | .vldx c a b k mm => Sys2Proof.Machine.execVldx c a b k mm s
  | .vstx c a b k mm => Sys2Proof.Machine.execVstx c a b k mm s
  | .vcvtBf16Fp32 c a b => Sys2Proof.Machine.execVcvtBf16Fp32 c a b s
  | .vcvtFp32Bf16 c a b => Sys2Proof.Machine.execVcvtFp32Bf16 c a b s
  | .vcvtDl8Fp32 c a b => Sys2Proof.Machine.execVcvtDl8Fp32 c a b s
  | .vcvtFp32Dl8 c a b => Sys2Proof.Machine.execVcvtFp32Dl8 c a b s
  | .vsel c a b k => Sys2Proof.Machine.execVsel c a b k s
  | .ldaw c a b k off lag => Sys2Proof.Machine.execLdaw c a b k off lag s
  | .ldat c a b k off lag => Sys2Proof.Machine.execLdat c a b k off lag s
  | .sta c a b off => Sys2Proof.Machine.execSta c a b off s
  | .vlda c a b k off lag => Sys2Proof.Machine.execVlda c a b k off lag s
  | .vsta c a b off => Sys2Proof.Machine.execVsta c a b off s
  | .itadv c n => Sys2Proof.Machine.execItadv c n s
  | .dmode c n => Sys2Proof.Machine.execDmode c n s
  | .adjrd c a b off mm => Sys2Proof.Machine.execAdjrd c a b off mm s
  | .adjwr c a b off mm => Sys2Proof.Machine.execAdjwr c a b off mm s
  | .lr c a b off mm => Sys2Proof.Machine.execLr c a b off mm s
  | .sc c a b k off mm => Sys2Proof.Machine.execSc c a b k off mm s
  | .aadd c a b k off mm => Sys2Proof.Machine.execAadd c a b k off mm s
  | .aand c a b k off mm => Sys2Proof.Machine.execAand c a b k off mm s
  | .aor c a b k off mm => Sys2Proof.Machine.execAor c a b k off mm s
  | .axor c a b k off mm => Sys2Proof.Machine.execAxor c a b k off mm s
  | .amin c a b k off mm => Sys2Proof.Machine.execAmin c a b k off mm s
  | .amax c a b k off mm => Sys2Proof.Machine.execAmax c a b k off mm s
  | .aswp c a b k off mm => Sys2Proof.Machine.execAswp c a b k off mm s
  | .cas c a b k off mm => Sys2Proof.Machine.execCas c a b k off mm s
  | .casx c a b k off mm => Sys2Proof.Machine.execCasx c a b k off mm s
  | .rupdAdjoint c a b off mm => Sys2Proof.Machine.execRupdAdjoint c a b off mm s
  | .rupdQ64Add c a b off mm => Sys2Proof.Machine.execRupdQ64Add c a b off mm s
  | .rupdFp32Add c a b off mm => Sys2Proof.Machine.execRupdFp32Add c a b off mm s
  | .rupdIntAdd c a b off mm => Sys2Proof.Machine.execRupdIntAdd c a b off mm s
  | .rupdMin c a b off mm => Sys2Proof.Machine.execRupdMin c a b off mm s
  | .rupdMax c a b off mm => Sys2Proof.Machine.execRupdMax c a b off mm s
  | .rupdOr c a b off mm => Sys2Proof.Machine.execRupdOr c a b off mm s
  | .rupdAnd c a b off mm => Sys2Proof.Machine.execRupdAnd c a b off mm s
  | .spawn c a b k => Sys2Proof.Machine.execSpawn c a b k s
  | .cpreq c a => Sys2Proof.Machine.execCpreq c a s
  | .cpseal c => Sys2Proof.Machine.execCpseal c s
  | .cpwait c n => Sys2Proof.Machine.execCpwait c n s
  | .mbget c a => Sys2Proof.Machine.execMbget c a s
  | .mbgetNw c a => Sys2Proof.Machine.execMbgetNw c a s
  | .xfer c a b => Sys2Proof.Machine.execXfer c a b s
  | .mbpost c a b => Sys2Proof.Machine.execMbpost c a b s
  | .xpush c a q d => Sys2Proof.Machine.execXpush c a q d s
  | .pfs c a stream cis => Sys2Proof.Machine.execPfs c a stream cis s
  | .pfx c b off cis => Sys2Proof.Machine.execPfx c b off cis s
  | .cwait c h n => Sys2Proof.Machine.execCwait c h n s
  | .cfree c h n => Sys2Proof.Machine.execCfree c h n s
  | .cadv c h n => Sys2Proof.Machine.execCadv c h n s
  | .cpost c h n => Sys2Proof.Machine.execCpost c h n s
  | .smap c a b w => Sys2Proof.Machine.execSmap c a b w s
  | .sunmap c w => Sys2Proof.Machine.execSunmap c w s
  | .sflush c w => Sys2Proof.Machine.execSflush c w s
  | .hcfg c h b => Sys2Proof.Machine.execHcfg c h b s
  | .fmtset c cfg => Sys2Proof.Machine.execFmtset c cfg s
  | .fmtsetRelease c => Sys2Proof.Machine.execFmtsetRelease c s
  | .fmtrd c a => Sys2Proof.Machine.execFmtrd c a s
  | .mma c d n => Sys2Proof.Machine.execMma c d n s
  | .mmat c d t n s0 => Sys2Proof.Machine.execMmat c d t n s0 s
  | .mmasp c d n => Sys2Proof.Machine.execMmasp c d n s
  | .tzero c t => Sys2Proof.Machine.execTzero c t s
  | .trd c a t piece => Sys2Proof.Machine.execTrd c a t piece s
  | .twr c a t piece => Sys2Proof.Machine.execTwr c a t piece s
  | .tld c t b off f => Sys2Proof.Machine.execTld c t b off f s
  | .tst c t b off f => Sys2Proof.Machine.execTst c t b off f s
  | .tstt c t b off f => Sys2Proof.Machine.execTstt c t b off f s
  | .qblk c a t blk => Sys2Proof.Machine.execQblk c a t blk s
  | .vqnt c a b k q => Sys2Proof.Machine.execVqnt c a b k q s
  | .vdqnt c a b k q => Sys2Proof.Machine.execVdqnt c a b k q s
  | .scpush c a q => Sys2Proof.Machine.execScpush c a q s
  | .rgrow c w t b off => Sys2Proof.Machine.execRgrow c w t b off s
  | .msync c => Sys2Proof.Machine.execMsync c s
  | .tqadd c a => Sys2Proof.Machine.execTqadd c a s
  | .depadd c a b => Sys2Proof.Machine.execDepadd c a b s
  | .cancel c a => Sys2Proof.Machine.execCancel c a s
  | .cbpush c a b k => Sys2Proof.Machine.execCbpush c a b k s
  | .cbseal c => Sys2Proof.Machine.execCbseal c s
  | .cbnext c a => Sys2Proof.Machine.execCbnext c a s
  | .cbdone c a => Sys2Proof.Machine.execCbdone c a s
  | .mcst c a b k off rel => Sys2Proof.Machine.execMcst c a b k off rel s
  | .mcwait c a => Sys2Proof.Machine.execMcwait c a s
  | .ffence c a b off => Sys2Proof.Machine.execFfence c a b off s
  | .eret c => Sys2Proof.Machine.execEret c s
  | .eretNext c => Sys2Proof.Machine.execEretNext c s
  | .svc c n => Sys2Proof.Machine.execSvc c n s
  | .tlbinvVa c a => Sys2Proof.Machine.execTlbinvVa c a s
  | .tlbinvCtx c => Sys2Proof.Machine.execTlbinvCtx c s
  | .tlbinvReg c a => Sys2Proof.Machine.execTlbinvReg c a s
  | .notificationRecord n => Sys2Proof.Machine.execNotificationRecord n s
  | .supervisorAction ctx k => Sys2Proof.Machine.execSupervisorAction ctx k s
  | .futureComplete ctx idx => Sys2Proof.Machine.execFutureComplete ctx idx s
  | .gangSpill gang why => Sys2Proof.Machine.execGangSpill gang why s
  | .gangRestore gang => Sys2Proof.Machine.execGangRestore gang s
  | .threadLoadComplete slot => Sys2Proof.Machine.execThreadLoadComplete slot s
  | .accessReply slot a => Sys2Proof.Machine.execAccessReply slot a s
  | .endDrainComplete slot => Sys2Proof.Machine.execEndDrainComplete slot s
  | .tlbWalkComplete slot va => Sys2Proof.Machine.execTlbWalkComplete slot va s
  | .homeRequest core grain write => Sys2Proof.Machine.execHomeRequest core grain write s
  | .retryTimerExpire core grain => Sys2Proof.Machine.execRetryTimerExpire core grain s
  | .fillArrive core grain => Sys2Proof.Machine.execFillArrive core grain s
  | .invalidationArrive cluster grain => Sys2Proof.Machine.execInvalidationArrive cluster grain s
  | .invalidationAck cluster grain => Sys2Proof.Machine.execInvalidationAck cluster grain s
  | .stampedStoreHome r => Sys2Proof.Machine.execStampedStoreHome r s
  | .weirlimExpire slot => Sys2Proof.Machine.execWeirlimExpire slot s
  | .rmwAtHome r => Sys2Proof.Machine.execRmwAtHome r s
  | .rupdApply r => Sys2Proof.Machine.execRupdApply r s
  | .lossNotice holder rid => Sys2Proof.Machine.execLossNotice holder rid s
  | .waitrTimeout slot => Sys2Proof.Machine.execWaitrTimeout slot s
  | .rillAccept r => Sys2Proof.Machine.execRillAccept r s
  | .rillMigrate slot slice => Sys2Proof.Machine.execRillMigrate slot slice s
  | .copyComplete slot cause addr => Sys2Proof.Machine.execCopyComplete slot cause addr s
  | .mmaAccept core => Sys2Proof.Machine.execMmaAccept core s
  | .mmaTileWrite core => Sys2Proof.Machine.execMmaTileWrite core s
  | .launchParse k => Sys2Proof.Machine.execLaunchParse k s
  | .launchSweep k => Sys2Proof.Machine.execLaunchSweep k s
  | .taskAdmit cluster => Sys2Proof.Machine.execTaskAdmit cluster s
  | .deficitCharge gang => Sys2Proof.Machine.execDeficitCharge gang s
  | .reservationStart cluster tenant => Sys2Proof.Machine.execReservationStart cluster tenant s
  | .workSteal cluster => Sys2Proof.Machine.execWorkSteal cluster s
  | .coreContextScrub core ctx => Sys2Proof.Machine.execCoreContextScrub core ctx s
  | .hostSnoop port grain => Sys2Proof.Machine.execHostSnoop port grain s
  | .hostAccess r => Sys2Proof.Machine.execHostAccess r s
  | .backInvalidationAnswer port grain => Sys2Proof.Machine.execBackInvalidationAnswer port grain s
  | .completionTimeout slot => Sys2Proof.Machine.execCompletionTimeout slot s
  | .linkDown port => Sys2Proof.Machine.execLinkDown port s
  | .peerRequest r => Sys2Proof.Machine.execPeerRequest r s
  | .peerStoreRefused slot va peer => Sys2Proof.Machine.execPeerStoreRefused slot va peer s
  | .peerTableUpdate peer inc up => Sys2Proof.Machine.execPeerTableUpdate peer inc up s
  | .mcstAnswer slot pos neg => Sys2Proof.Machine.execMcstAnswer slot pos neg s
  | .coldReset => Sys2Proof.Machine.execColdReset s
  | .measurementExtend die reg digest => Sys2Proof.Machine.execMeasurementExtend die reg digest s
  | .attestationRequest nonce => Sys2Proof.Machine.execAttestationRequest nonce s
  | .auditAppend kind payload => Sys2Proof.Machine.execAuditAppend kind payload s
  | .selfTestVerdict u pass => Sys2Proof.Machine.execSelfTestVerdict u pass s
  | .contextCreate k => Sys2Proof.Machine.execContextCreate k s
  | .contextRelease k => Sys2Proof.Machine.execContextRelease k s
  | .scrubComplete ctx scope num => Sys2Proof.Machine.execScrubComplete ctx scope num s
  | .frequencyChange die mhz => Sys2Proof.Machine.execFrequencyChange die mhz s
  | .managementRegisterWrite w => Sys2Proof.Machine.execManagementRegisterWrite w s
  | .hostLinkUp port => Sys2Proof.Machine.execHostLinkUp port s

end Sys2Proof.Machine
end

