-- ==== Sys2Proof/Machine/Flow.lean ====
section
/-!
DEFINITION. The register data flow of a thread (R67, R201): which of the states that its aged loads have returned the value
of each register depends on. It binds only the addresses of later aged loads (R215; notes/assumptions/46.md).
-/
namespace Sys2Proof.Machine

/-! Fields of the flow: 0 to 127 are the general registers, and after them: -/

/-- A vector register. -/
def vecField (v : VReg) : Nat := 128 + v.toNat
/-- A predicate. -/
def predField (n : Nat) : Nat := 256 + n
/-- A special register. -/
def specialField (k : Nat) : Nat := 300 + k
/-- The rounding mode of FPCSR. -/
def roundField : Nat := specialField 10
/-- The flags of FPCSR. -/
def flagField : Nat := 332
/-- A tile of the matrix unit. -/
def tileField (t : Tile) : Nat := 340 + t.toNat

/-- The sources of a two-source form (R29). -/
def flow2 (c : Chain) (a b : Reg) (k : RegC) : List Nat := if c.hasXR then [b.toNat, k.toNat] else [a.toNat, b.toNat]

/-- The same of vector registers (R128). -/
def flowV (c : Chain) (a b k : VReg) : List Nat := if c.hasXR then [vecField b, vecField k] else [vecField a, vecField b]

/-- A result that may raise flags. -/
def flagged (d : Nat) (from' : List Nat) : List (Nat × List Nat) := [(d, from'), (flagField, flagField :: from')]

/-- A result that is rounded under FPCSR.RM and may raise flags. -/
def rounded (d : Nat) (from' : List Nat) : List (Nat × List Nat) := flagged d (roundField :: from')

/-- The predicate that a compare writes. -/
def predFlow (d : PredDest) (from' : List Nat) : Nat × List Nat :=
  (predField (predOf d), if d.getLsbD 4 then predField (predOf d) :: from' else from')

/-- Register c, unless it is g0, which holds nothing. -/
def flowC (k : RegC) (from' : List Nat) : List (Nat × List Nat) := if k == 0 then [] else [(k.toNat, from')]

/-- The fields that an instruction writes, each with the fields that its new value comes from. A value read from memory comes from the
fields of its address too. An instruction that is not named writes no field. -/
def flowOf (i : Instr) : List (Nat × List Nat) :=
  match i with
  | .add c a b k | .sub c a b k | .mul c a b k | .mulh c a b k | .mulhu c a b k | .div c a b k | .divu c a b k | .rem c a b k
  | .remu c a b k | .and c a b k | .or c a b k | .xor c a b k | .shl c a b k | .shr c a b k | .sar c a b k | .min c a b k
  | .max c a b k => [(a.toNat, flow2 c a b k)]
  | .addi _ a _ | .muli _ a _ | .andi _ a _ | .ori _ a _ | .xori _ a _ | .shli _ a _ | .shri _ a _ | .sari _ a _ | .loop _ a _ =>
    [(a.toNat, [a.toNat])]
  | .mov _ a b | .clz _ a b | .popc _ a b | .sextB _ a b | .sextH _ a b | .sextW _ a b => [(a.toNat, [b.toNat])]
  | .movi _ a _ | .bl _ a _ | .jr _ a _ | .waitr _ a | .fmtrd _ a | .mcwait _ a => [(a.toNat, [])]
  | .ceq _ a b d | .cne _ a b d | .clt _ a b d | .cle _ a b d | .cltu _ a b d | .cleu _ a b d => [predFlow d [a.toNat, b.toNat]]
  | .ceqi _ a _ d => [predFlow d [a.toNat]]
  | .fceq _ a b d | .fclt _ a b d | .fcle _ a b d => [predFlow d [a.toNat, b.toNat], (flagField, [flagField, a.toNat, b.toNat])]
  | .prd _ a => [(a.toNat, (upTo 16).map predField)]
  | .pwr _ a => (upTo 15).map fun n => (predField (n + 1), [a.toNat])
  | .fadd c a b k | .fsub c a b k | .fmul c a b k | .fdiv c a b k => rounded a.toNat (flow2 c a b k)
  | .fmin c a b k | .fmax c a b k => flagged a.toNat (flow2 c a b k)
  | .ffma _ a b k => rounded a.toNat [a.toNat, b.toNat, k.toNat]
  | .fsqrt _ a b | .fcvti _ a b | .icvtf _ a b | .icvtfU _ a b => rounded a.toNat [b.toNat]
  | .fcvtiRz _ a b => flagged a.toNat [b.toNat]
  | .vadd c a b k | .vsub c a b k | .vmul c a b k => rounded (vecField a) (flowV c a b k)
  | .vfma _ a b k => rounded (vecField a) [vecField a, vecField b, vecField k]
  | .vmax c a b k | .vmin c a b k => flagged (vecField a) (flowV c a b k)
  | .viadd c a b k => [(vecField a, flowV c a b k)]
  | .vbcast _ a b => [(vecField a, [b.toNat])]
  | .vextr _ a b _ => [(a.toNat, [vecField b])]
  | .vins _ a b _ => [(vecField a, [vecField a, b.toNat])]
  | .vsum _ a b => rounded a.toNat [vecField b]
  | .vmaxr _ a b => flagged a.toNat [vecField b]
  | .vsel _ a b k => [(vecField a, [vecField a, vecField b, k.toNat])]
  | .vcvtBf16Fp32 _ a b | .vcvtFp32Bf16 _ a b | .vcvtDl8Fp32 _ a b | .vcvtFp32Dl8 _ a b => flagged (vecField a) [vecField b]
  | .ldb _ a b _ _ | .ldh _ a b _ _ | .ldw _ a b _ _ | .ldd _ a b _ _ | .adjrd _ a b _ _ | .lr _ a b _ _ => [(a.toNat, [b.toNat])]
  | .vld _ a b _ _ => [(vecField a, [b.toNat])]
  | .vldx _ a b k _ => [(vecField a, [b.toNat, vecField k])]
  | .ldaw _ a b k _ _ | .ldat _ a b k _ _ => (a.toNat, [b.toNat]) :: flowC k [b.toNat]
  | .vlda _ a b k _ _ => (vecField a, [b.toNat]) :: flowC k [b.toNat]
  | .sc _ _ b k _ _ | .aadd _ _ b k _ _ | .aand _ _ b k _ _ | .aor _ _ b k _ _ | .axor _ _ b k _ _ | .amin _ _ b k _ _
  | .amax _ _ b k _ _ | .aswp _ _ b k _ _ | .cas _ _ b k _ _ => flowC k [b.toNat]
  | .casx _ _ b k _ _ => [(k.toNat, [b.toNat]), (k.toNat + 1, [b.toNat])]
  | .mfs _ a sr => [(a.toNat, specialField sr.toNat :: if sr == 10 then [flagField] else [])]
  | .mts _ a sr =>
    let old := if sr == 8 then [specialField 8] else []
    (specialField sr.toNat, a.toNat :: old) :: if sr == 10 then [(flagField, [a.toNat])] else []
  | .mbget _ a | .mbgetNw _ a => (upTo 5).map fun n => (a.toNat + n, [])
  | .cbnext _ a => [(a.toNat, []), (a.toNat + 1, [])]
  | .cbpush _ a _ k => [(a.toNat, [k.toNat, k.toNat + 1])]
  | .depadd _ a b => [(a.toNat, [b.toNat])]
  | .tzero _ t => [(tileField t, [])]
  | .trd _ a t _ => [(vecField a, [tileField t])]
  | .twr _ a t _ => [(tileField t, [vecField a, tileField t])]
  | .tld _ t b _ _ => flagged (tileField t) [b.toNat]
  | .mmat _ d t _ _ => [(tileField d, [tileField d, tileField t])]
  | .qblk _ a t _ => flagged a.toNat [tileField t]
  | .vqnt _ a b k _ => flagged (vecField a) [vecField a, vecField b, k.toNat]
  | .vdqnt _ a b k _ => flagged (vecField a) [vecField b, k.toNat]
  | .rgrow _ w t b _ =>
    let src := [tileField w, tileField t, b.toNat, specialField 17]
    [(tileField w, src), (tileField t, src)]
  | _ => []

/-- Dependencies joined: of the stores of one writer that one thread has read, the latest. -/
def joinDeps (ds es : List Dep) : List Dep :=
  es.foldl (fun ds e =>
    match first? (fun d => d.reader == e.reader && d.writer == e.writer) ds with
    | some d => if decide (d.wrote < e.wrote) then mapFirst (fun x => x == d) (fun _ => e) ds else ds
    | none => e :: ds) ds

/-- Field `d` depends on `ds`. -/
def Thread.setFlow (t : Thread) (d : Nat) (ds : List Dep) : Thread :=
  let t := t.dropFlow [d]
  if ds.isEmpty || d == 0 || d == 127 then t else { t with flow := (d, ds) :: t.flow }

/-- The stores whose states `t`, the thread as it was, hands to a field of the instruction under way: through the fields `src` of it,
with the `n` entries of the flume queue that the instruction takes, and `read`, which an aged load has returned. -/
def Thread.depsFrom (t : Thread) (n : Nat) (read : List (Nat × Nat)) (src : List Nat) : List Dep :=
  src.foldl (fun ds r => joinDeps ds (if r == 126 then (t.flumeFlow.take n).foldl joinDeps [] else t.depsOf r))
    (read.map fun x => ⟨t.writer, x.1, x.2⟩)

/-- The queue of `t`, in its slot in `s`, keeps one entry of dependencies for each of its own, the newest of them `ds`. -/
def State.pushedFlow (s s' : State) (id : Nat) (ds : List Dep) : State :=
  match s.thread? id, s'.thread? id with
  | some u, some u' => if u.flume.length < u'.flume.length then s'.putThread { u' with flumeFlow := u'.flumeFlow ++ [ds] } else s'
  | _, _ => s'

/-- The current thread has completed an instruction that has taken it from `s`: it has not trapped, and does not wait. -/
def State.completed (s s' : State) : Bool := s'.cpu.id == s.cpu.id && s'.cpu.state == .ready && !(s'.cpu.hnd && !s.cpu.hnd)

/-- `s'`, to which `i` has led from `s`, with the flow of the thread's registers after it (R67, R201). A rill has no aged load. -/
def State.flowed (i : Instr) (s s' : State) : State :=
  if s.cpu.isRill || !s.completed s' then s'
  else
    let t := s.cpu
    let n := t.flume.length - s'.cpu.flume.length
    let writes := if guardOn i.chain t.p then (flowOf i).map fun w => (w.1, t.depsFrom n s'.cpu.got w.2) else []
    let new := writes.foldl (fun (u : Thread) w => u.setFlow w.1 w.2) s'.cpu
    ({ s' with cpu := { new with got := [], flumeFlow := s'.cpu.flumeFlow.drop n } } : State)
      |> fun s' => s.pushedFlow s' t.downstream (assocD [] 127 writes)

end Sys2Proof.Machine
end

