-- ==== Sys2Proof/Machine/Step.lean ====
section
/-!
DEFINITION. One step of the machine: the agent that moves next issues one instruction or handles one event; then every
waiting instruction whose condition holds completes, and the monitors look at the state.
-/
namespace Sys2Proof.Machine

/-- The current thread runs the chain `i`, and the flow of its registers follows it (R201). -/
def execFlow (i : Instr) (s : State) : Host.Outcome State Fault Refusal :=
  match exec i s with
  | .next s' => .next (s.flowed i s')
  | r => r

/-- The current thread issues the chain at its pc (R39). -/
def issue (s : State) : Host.Outcome State Fault Refusal :=
  let s := s.anew
  match s.cpu.nomap with
  | some va => nomapTrap s va
  | none =>
    match fetch s with
    | .ok i s' => execFlow i s'.fetched
    | .illegal e s' => .next (takeTrap s'.fetched Cause.illegal (illegalVal e) 0 e.len)
    | .stopped st len => fetchStop s st len

/-- Try the thread `id` again if it still waits; the current thread stays current. One that another's retry has let go on
issues its next instruction at its own next turn (R50, R51). -/
def retry (id : Nat) (s : State) : Host.Outcome State Fault Refusal :=
  match s.thread? id with
  | none => .next s
  | some t =>
    if t.waiting && t.future.isNone then
      let s1 := s.focus id
      match (match s1.cpu.held with | some i => execFlow i s1.anew | none => issue s1) with
      | .next s2 => .next (s2.focus s.cpu.id)
      | r => r
    else .next s

/-- Try each of the waiting threads once. -/
def retryAll : List Nat → State → Host.Outcome State Fault Refusal
  | [], s => .next s
  | id :: ids, s => match retry id s with | .next s' => retryAll ids s' | r => r

/-- Try the waiting threads again for as long as one of them completes. -/
def settle : Nat → State → Host.Outcome State Fault Refusal
  | 0, s => .next s
  | n + 1, s =>
    match retryAll s.retryable s with
    | .next s' => if s'.retryable.length < s.retryable.length then settle n s' else .next s'
    | r => r

/-- What follows the move of an agent. -/
def afterMove (r : Host.Outcome State Fault Refusal) : Host.Outcome State Fault Refusal :=
  match r with
  | .next s => match settle s.retryable.length s with | .next s' => .next s'.monitor | r => r
  | r => r

/-- Agent `k` has its turn. -/
def turn (k : Nat) (s : State) : Host.Outcome State Fault Refusal :=
  match s.nextThread k with
  | none => .next (s.idle k)
  | some t => match issue (s.turnOf k t) with | .next s' => .next (s'.endTurn k) | r => r

/-- One step. -/
def step (s : State) : Host.Outcome State Fault Refusal :=
  match s.nextMove with
  | none => .next s
  | some (.event e, s') => afterMove (if needsMemory e && s'.memTested then .next (s'.postAgain e) else exec e s'.anew)
  | some (.core k, s') => afterMove (turn k s')

/-! Placing an instruction for the next step (notes/assumptions/10.md). -/

/-- `s` with an instruction's bytes at VA and PA 0x10000 and a supervisor thread of die 0, core 0, slot 0 about to issue it:
the page is in die 0's TLB as a plain page with every permission, core 0's micro-TLB holds no translation, its instruction cache holds
the sector of the instruction alone in its set, no unit is under test, and the next pick is core 0 at a cycle of slot 0. -/
def State.withFetchWord (s : State) (nbits w : Nat) : State :=
  let t : Thread :=
    { Thread.free 0 with
      state := .ready, sup := true, nregs := 128, nvregs := 16, pc := 0x10000, size := 1, gang := s.nextGang }
  let e : TlbEntry := { die := 0, ctx := 0, va := 0x10000, span := 0, pte := 0x1000003F, dw0 := 4, dw1 := 0, dw2 := 0 }
  let bytes := (tableHalves nbits w ++ [0, 0, 0]).flatMap fun (h : Half) => [h.extractLsb' 0 8, h.extractLsb' 8 8]
  let s := s.seat t
  let mem := Memory.writes s.mem 0x10000 bytes
  let line : ILine := { key := 0x10000, data := Memory.reads mem 0x10000 32 ++ List.replicate 480 0, valid := 1, bad := [] }
  let s := s.putCore { s.core 0 with microI := [], icache := line :: (s.core 0).icache.filter fun l => l.key / 512 % 16 != 0 }
  let s := s.setAgentCycle 0 ((s.agentCycle 0 + 63) / 64 * 64)
  { s with mem := mem
           bad := s.bad.filter fun k => k != 0x800
           tlb := e :: s.tlb.filter fun x => !(x.die == 0 && x.ctx == 0 && x.covers 0x10000)
           events := s.events.filter fun e => match e with | .selfTestVerdict _ _ => false | _ => true
           picks := .core 0 :: s.picks }

end Sys2Proof.Machine
end

