-- ==== Sys2Proof/Safety.lean ====
section
/-!
DEFINITION. The terms the claims use: what counts as a safe state, when the operands of an instruction are usable, what a
field reads and what a write of a field leaves, and when an address lies in a page that an access may use.
-/
namespace Sys2Proof.Machine

/-! Invariants. -/

/-- The memory is in its canonical form. -/
def State.memOk (s : State) : Prop := Memory.wf s.mem = true

/-- A thread's predicate word keeps p0 = 1 (R62). -/
def Thread.p0Ok (t : Thread) : Prop := t.p.getLsbD 0 = true

/-- Every thread's predicate word keeps p0 = 1 (R62). -/
def State.p0Ok (s : State) : Prop := s.cpu.p0Ok ∧ ∀ t ∈ s.others, t.p0Ok

/-! Register operands. -/

/-- What a read of field `r` gives: g0 reads zero (R57), g126 the oldest entry of the flume queue (R64). -/
def State.source (s : State) (r : Reg) : Word := if r == 126 then s.cpu.flume.headD 0 else s.cpu.reg r.toNat

/-- The state after a read of field `r`: a read of g126 has popped one entry (R64). -/
def State.popped (s : State) (r : Reg) : State :=
  if r == 126 then { s with cpu := { s.cpu with flume := s.cpu.flume.tail } } else s

/-- The two values that a form with two register sources reads: when both pop, their order is a free value (R4, R64;
notes/assumptions/7.md). -/
def State.sources (s : State) (a b : Reg) : Word × Word :=
  let x := s.source a
  let y := (s.popped a).source b
  if a == 126 && b == 126 && Config.popSwap s.cpu.pc then (y, x) else (x, y)

/-- The state after those two reads. -/
def State.popped2 (s : State) (a b : Reg) : State :=
  (s.popped a).popped b

/-- One entry pushed to the queue of the slot downstream (R64). -/
def State.pushed (s : State) (x : Word) : State :=
  match s.thread? s.cpu.downstream with
  | some d => s.putThread { d with flume := d.flume ++ [x] }
  | none => s

/-- The state after a write of field `r`: g0 discards (R57), g127 pushes (R64). -/
def State.written (s : State) (r : Reg) (x : Word) : State :=
  if r == 127 then s.pushed x else { s with cpu := s.cpu.setReg r.toNat x }

/-- A field that is read holds no uncorrectable error (R477). -/
def Use.good (t : Thread) (u : Use) : Bool := match u with | .rd r | .rw r => !t.badG.contains r.toNat | _ => true

/-- The operands can be used now: every register lies in the allotment and no port stands where it may not (R58, R65,
R119), the flume queue holds what is popped, and the partner downstream lives and has room for what is pushed (R64 to
R66); no field that is read holds an error (R477). -/
def State.usable (s : State) (us : List Use) (vs : List VReg) : Bool :=
  (firstFault s.cpu us).isNone && vs.all (fun v => decide (v.toNat < s.cpu.nvregs)) &&
    decide (us.countP Use.pops ≤ s.cpu.flume.length) &&
    (!us.any Use.pushes || s.partner s.cpu s.cpu.downstream &&
      match s.thread? s.cpu.downstream with | some d => decide (d.flume.length < 8) | none => true) &&
    us.all (Use.good s.cpu)

/-- Registers of a run that is read hold no error (R477). -/
def State.goodG (s : State) (rs : List Nat) : Bool := !rs.any fun i => s.cpu.badG.contains i

/-- Vector registers that are read hold no error (R477). -/
def State.goodV (s : State) (vs : List VReg) : Bool := vs.all fun a => !s.cpu.badV.contains a.toNat

/-- The state in which a register form that writes `x` to field `a`, after reading field `b`, has completed. -/
def State.result (s : State) (i : Instr) (a : Reg) (x : Word) : State := (s.written a x).advance i.len

/-- Register c written, unless c = 0, which names none (R260, R288). -/
def State.writtenC (s : State) (k : RegC) (x : Word) : State := if k == 0 then s else s.written (wide k) x

/-- The sticky flags `f` added to FPCSR[6:2] (R97). -/
def State.raised (s : State) (f : Flags) : State := { s with cpu := { s.cpu with fpcsr := s.cpu.fpcsr ||| (f ++ 0#2) } }

/-- Vector register `a` written, with a fresh check (R477). -/
def State.writtenV (s : State) (a : VReg) (x : Vec) : State :=
  { s with cpu := { s.cpu with v := s.cpu.v.set a.toNat x, badV := s.cpu.badV.filter fun j => j != a.toNat } }

/-- A finite FP32 value as a multiple of 2^-149 (R94). -/
def unitsF (x : F32) : Int := signedF x * 2 ^ (exF x + 149).toNat

/-! Rounding (R96, R97). -/

/-- `r` is num / den (den > 0) rounded in mode `rm` to a value of `rep`: the nearest, which is even (`ev`) where another is as near; or the
nearest of those toward zero, below or above (R96). -/
def roundsTo (rm : BitVec 2) (rep : Int → Prop) (ev : Prop) (r num den : Int) : Prop :=
  rep r ∧ ∀ z, rep z →
    if rm = 0 then (r * den - num).natAbs ≤ (z * den - num).natAbs ∧ ((r * den - num).natAbs = (z * den - num).natAbs → z ≠ r → ev)
    else if rm = 1 then 0 ≤ r * num ∧ (r * den).natAbs ≤ num.natAbs ∧ (0 ≤ z * num → (z * den).natAbs ≤ num.natAbs → z.natAbs ≤ r.natAbs)
    else if rm = 2 then r * den ≤ num ∧ (z * den ≤ num → z ≤ r)
    else num ≤ r * den ∧ (num ≤ z * den → r ≤ z)

/-- The magnitude of num / den, rounded in mode `rm` to a multiple of `q`, is at least `lim`, an even multiple of it. -/
def reaches (rm : BitVec 2) (num den lim q : Int) : Bool :=
  if rm = 0 then decide ((2 * lim - q) * den ≤ 2 * num.natAbs)
  else if (rm = 2 ∧ num < 0) ∨ (rm = 3 ∧ 0 < num) then decide ((lim - q) * den < num.natAbs)
  else decide (lim * den ≤ num.natAbs)

/-- `v` with the flags `f` is num / den, in units of 2^-149, rounded to FP32 with a significand of `p` bits (24, or 8 for BF16): overflow
goes to an infinity or to the largest finite value, a result is tiny below 2^-126, and a zero that is no exact one keeps the sign (R96, R97, R99). -/
def roundedTo (p : Nat) (rm : BitVec 2) (v : F32) (f : Flags) (num den : Int) : Prop :=
  let big := reaches rm num den (2 ^ 277) (2 ^ (277 - p))
  (num ≠ 0 → signF v = decide (num < 0)) ∧ isNaN v = false ∧
    (isInf v = true ↔ big = true ∧ (rm = 0 ∨ (rm = 2 ∧ num < 0) ∨ (rm = 3 ∧ 0 < num))) ∧
    (isInf v = false → roundsTo rm (fun z => ∃ x : F32, expF x ≠ 255 ∧ x.toNat % 2 ^ (24 - p) = 0 ∧ unitsF x = z)
      (v.getLsbD (24 - p) = false) (unitsF v) num den) ∧
    f = flagIf big flagOF ||| flagIf (isInf v || unitsF v * den != num) flagNX |||
      flagIf (unitsF v * den != num && !reaches rm (2 * num) den (2 ^ 24) (2 ^ (24 - p))) flagUF

/-- An FP32 result is num / den rounded. -/
def rounded32 (rm : BitVec 2) (r : FRes) (num den : Int) : Prop := roundedTo 24 rm r.1 r.2 num den

/-- The instructions that a rill may execute (R283). -/
def rillMay (i : Instr) : Bool :=
  match i with
  | .waitr _ _ | .gbar _ | .mts _ _ _ => false
  | .mfs _ _ k => k == 11 || k == 13 || k == 14 || k == 15 || k == 16
  | .lr _ _ _ _ _ | .sc _ _ _ _ _ _ | .aadd _ _ _ _ _ _ | .aand _ _ _ _ _ _ | .aor _ _ _ _ _ _ | .axor _ _ _ _ _ _
  | .amin _ _ _ _ _ _ | .amax _ _ _ _ _ _ | .aswp _ _ _ _ _ _ | .cas _ _ _ _ _ _ | .casx _ _ _ _ _ _
  | .rupdAdjoint _ _ _ _ _ | .rupdQ64Add _ _ _ _ _ | .rupdFp32Add _ _ _ _ _ | .rupdIntAdd _ _ _ _ _ | .rupdMin _ _ _ _ _
  | .rupdMax _ _ _ _ _ | .rupdOr _ _ _ _ _ | .rupdAnd _ _ _ _ _ => true
  | i => (rawOf i).page == 0

/-- A transfer may go to `t` (R37). -/
def legalTarget (t : Word) : Bool := !t.getLsbD 0 && decide (t.toNat < 2 ^ 58)

/-- The state in which the current thread has gone on at `t`. -/
def State.goneTo (s : State) (t : Word) : State := { s with cpu := s.cpu.goTo t }

/-- The current thread has gone on behind `i`. -/
def State.goesOn (s t : State) (i : Instr) : Prop := t.cpu.pc = s.cpu.pc + BitVec.ofNat 64 i.len ∧ t.cpu.state = .ready

/-! Pages. -/

/-- The current thread's translation of `va` is cached, or a walk for it need not wait: a walk slot of its die is free, and no bank or way
is under test (R157, R478). -/
def State.canWalk (s : State) (va : Word) : Bool :=
  (tlbFind s s.cpu.walker va.toNat).isSome || !s.walkWaits s.cpu.walker

/-- The page and the physical address at which the current thread reaches `va`, by a page that allows the access (steps 2
to 5 of R160); no window or aperture is looked at. -/
def State.pageAt (s : State) (va : Word) (rd wr : Bool) : Option Xlat :=
  if decide (va.toNat < Config.vaEnd) && !inAperture va && s.canWalk va then
    match lookup s s.cpu.walker va.toNat with
    | .leaf e =>
      if permitted s.cpu.walker e rd wr && !e.invalid then
        some { entry := e, va := va.toNat, pa := e.physical va.toNat
               pasid := if e.home = 1 || e.home = 2 then s.here.pasid else none }
      else none
    | _ => none
  else none

/-- The state once that translation has been cached (R155). -/
def State.cached (s : State) (x : Xlat) : State := s.cacheLeaf s.cpu.walker x.entry

/-- No window of the thread covers `va`: its accesses go to the page (R161, R182). -/
def State.unmapped (s : State) (va : Word) : Bool :=
  s.cpu.isRill || (s.myCore.windows.all fun w => !(w.owner == s.cpu.id && w.covers va.toNat))

/-- `x` is where an access of the current thread at `va` goes: a page of its context, with no window or aperture in
between. A rill is at the access's home slice already, if it has one (R282). -/
def State.goesTo (s : State) (va : Word) (rd wr : Bool) (x : Xlat) : Bool :=
  s.pageAt va rd wr == some x && s.unmapped va && (!s.cpu.isRill || x.home != 0 || sliceOf x.pa == s.cpu.clusterId)

/-- What the translation of `va` finds for the current thread, where an access goes to its page and need not wait for a walk. -/
def State.translated (s : State) (va : Word) : Option WalkRes :=
  if decide (va.toNat < Config.vaEnd) && !inAperture va && s.unmapped va && s.canWalk va then some (lookup s s.cpu.walker va.toNat)
  else none

/-- The page of entry `e` gives the current thread no permission for the access (R159). -/
def State.forbids (s : State) (e : TlbEntry) (rd wr : Bool) : Bool :=
  rd && !e.read || wr && !e.write || !(s.cpu.sup || s.cpu.isSluice || e.user)

/-- The trap of an access of `w` bytes at `va` to a page, and its AUX: the first check of R160 that fails decides. `accepts`: the
instruction takes a valid region entry (step 5). -/
def State.accessFails (s : State) (va : Word) (w : Nat) (rd wr : Bool) (accepts : TlbEntry → Bool) : Option (BitVec 8 × BitVec 32) :=
  if va.toNat % w != 0 then some (0x04, 0)
  else if decide (va.toNat ≥ 2 ^ 58) || decide (Config.sluiceCode ≤ va.toNat) && decide (va.toNat < Config.sluiceCodeEnd) && s.unmapped va then some (0x05, 0)
  else match s.translated va with
    | some .malformed => some (0x05, 0)
    | some (.leaf e) =>
      if s.forbids e rd wr then some (0x05, 0)
      else if e.invalid || !accepts e then some (0x07, BitVec.ofNat 32 e.regionIdx)
      else none
    | _ => none

/-- The address rule of an element of a differentiable page (R153). -/
def elementRule (e : TlbEntry) (va : Word) : Bool :=
  e.home == 0 && decide (e.origin ≤ va.toNat) && (va.toNat - e.origin) % e.elemWidth == 0

/-- A scalar access of `w` bytes at `va` takes the region (R163): plain, or differentiable of that element width. -/
def scalarTakes (va : Word) (w : Nat) (e : TlbEntry) : Bool := e.kind == 0 || e.kind == 2 && e.elemWidth == w && elementRule e va

/-- VLD and VST at `va` take it (R163). -/
def vectorTakes (va : Word) (e : TlbEntry) : Bool := e.kind == 0 || e.kind == 2 && elementRule e va

/-- The cistern aperture gives `va` no byte: a rill or the sluice slot names it, no member has the rank, the member has no such window,
or the window ends before it (R185). -/
def State.apertureShut (s : State) (va : Word) : Bool :=
  let o := va.toNat - Config.cisternAperture
  s.cpu.isRill || s.cpu.isSluice || !s.threads.any fun u => u.gang == s.cpu.gang && u.rank.toNat == o / 2 ^ 20 && !u.isRill && !u.isSluice &&
    (s.core u.coreId).windows.any fun w => w.num == o / 2 ^ 17 % 8 && w.owner == u.id && decide (o % 2 ^ 17 < 512 * w.n)

/-- The handle aperture gives `va` no byte: a rill names it, or handle 8 or above, or an unconfigured one, or a slot that is not filled,
or not free for the producer (R327). -/
def State.handleShut (s : State) (va : Word) : Bool :=
  let x := va.toNat - Config.handleAperture
  let h := (s.myCore.handles.toList.getD (x / 2 ^ 20) Handle.none)
  s.cpu.isRill || h.count == 0 || decide ((if x / 2 ^ 19 % 2 == 1 then h.count - h.filled else h.filled) ≤ x % 2 ^ 19 / h.size)

/-- The place that an access of `n` bytes at `va` uses in that page. -/
def Xlat.place (x : Xlat) (va : Word) (n : Nat) : Place := { va := va, key := x.key, n := n, src := .page x, off := none }

/-- No range in flight on the thread's core makes it wait (R309). -/
def State.rangesFree (s : State) (ps : List Place) (wr : Bool) : Bool :=
  s.cpu.isRill || s.cpu.isSluice || !s.myCore.score.any fun e => ps.any fun p => e.blocks s.cpu p wr

/-- The host holds no copy of the bytes `k` to `k + n - 1`, so a write of them need not wait (R432). -/
def State.hostFree (s : State) (k n : Nat) : Bool := (s.hostHolds k n).isNone

/-- The host holds no copy of a line of the device, so no engine's write waits for a snoop (R432). -/
def State.hostless (s : State) : Prop := ∀ d ∈ s.dirs, d.hostA = false ∧ d.hostB = false

/-- The gang of the current thread is to be spilled, with the chain as its pc, wherever a future can be written at once (R148, R230,
R232, R432, R478). -/
def State.spillsGang (s : State) (r : Host.Outcome State Fault Refusal) : Prop :=
  s.cpu.isRill = false → s.cpu.isSluice = false → (s.contextD s.cpu.ctx).supBlock + 65536 ≤ 768 * 2 ^ 30 → s.memTested = false → s.hostless →
    ∃ t, r = .next t ∧ t.cpu = { s.cpu with state := .spilling, held := none, walks := [], asked := none, nomap := none } ∧
      ∃ why, .gangSpill s.cpu.gang why ∈ t.events

/-- The home slice serves the current thread's request for the grain of `size` bytes at `g`: no transaction of it is in flight and no other
request for it holds a ticket (R176, R177). -/
def State.mayGrant (s : State) (g size : Nat) : Bool :=
  !(s.dirEntry g size).busy && s.refused.all fun r => !(r.ticket && r.want.same (.grain g false)) || r.slot == s.cpu.id

/-- No other thread waits in a gather or scatter that has checked window `num` (0 to 7) or handle `num - 8` of the core (R138). -/
def State.unpinned (s : State) (num : Nat) : Bool :=
  !s.threads.any fun t => t.id != s.cpu.id && t.waiting && t.pins.contains (s.cpu.coreId, num)

/-- No other thread waits in a gather or scatter that has checked a handle of core `k` whose ring lies on lines `f` to `f + n - 1` (R138). -/
def State.linesUnpinned (s : State) (k f n : Nat) : Bool :=
  !s.threads.any fun t => t.id != s.cpu.id && t.waiting &&
    (upTo 8).any fun j => ((s.core k).handles.toList.getD j Handle.none).meets f n && t.pins.contains (k, 8 + j)

/-- Window `num` of the current core may be mapped anew, or freed: no other thread holds it, and none waits for it or for a handle on its
lines (R138, R193). -/
def State.windowFree (s : State) (num : Nat) : Bool :=
  s.unpinned num && match s.window? s.cpu.coreId num with
    | some x => x.owner == s.cpu.id && s.linesUnpinned s.cpu.coreId x.f x.n
    | none => true

/-- In `t`, the directory has taken window `num` of core `k` out of the entries of its filled grains (R193): the cluster shares no grain
that nothing else of it holds, and the core owns none that nothing else of it owns. No other entry differs from `s`. -/
def State.leftDirs (s t : State) (k num : Nat) : Prop :=
  let of (d : DirEntry) : Prop := ∃ w, s.window? k num = some w ∧ ∃ f ∈ w.fills, f.home = d.grain
  (∀ d ∈ t.dirs, of d → (t.heldBy k d.grain = false → d.sharers.getLsbD (k / 8 % 64) = false) ∧
    (t.ownsGrain k d.grain = false → d.owner ≠ some k)) ∧
  ∀ d, ¬ of d → (d ∈ t.dirs ↔ d ∈ s.dirs)

/-- A release at this scope has nothing to wait for: no update on its way to its home (R291), no posted write at system or fabric scope
(R433), and at fabric scope no answer, acknowledgement or report that is owed to the thread (R212, R229, R441, R446). -/
def State.releaseFree (s : State) (sc : Scope) : Bool :=
  !s.updating s.cpu.id && (decide (scopeRank sc < 3) || (!s.cpu.postedA && !s.cpu.postedB)) &&
    (sc != .fabric || (!s.owesNote s.cpu && s.cpu.mcOwed == 0 && s.owedStores.all fun o => o.slot != s.cpu.id))

/-- An access of this mode has no earlier volatile access of the thread to wait for: it is not volatile, or no volatile write to the host
or to a peer is on its way (R200, R213). -/
def State.volatileFree (s : State) (mm : MemMode) : Bool :=
  mm.cls != .volatile || !s.volatilePosts .a && !s.volatilePosts .b && s.owedStores.all fun o => !(o.vol && o.slot == s.cpu.id)

/-- The same for a write of a memory mode: as its class says, and as the fences before it say (R202). -/
def State.modeFree (s : State) (mm : MemMode) : Bool :=
  s.volatileFree mm && (mm.cls != .ordered || s.releaseFree mm.scope) && match s.cpu.relScope with | some sc => s.releaseFree sc | none => true

/-- An access of `n` bytes at `x` is answered: the device's own memory always answers, a host port when it is up, is no PCIe
port for home 1 and completes the request (R433 to R435), a peer when it grants the access and answers (R438, R441). -/
def State.answered (s : State) (x : Xlat) (n : Nat) (rd wr : Bool) : Bool :=
  if x.home = 1 || x.home = 2 then
    let p := s.port (s.portFor x.pa)
    p.up && !(x.home == 1 && p.pcie) &&
      (s.cpu.reply == .done || (s.cpu.reply == .none || s.cpu.reply == .waiting) && p.answers)
  else if x.home = 3 then
    s.peerGrants s.cpu.ctx x.entry.peer x.pa n rd wr && s.cpu.reply != .failed &&
      ((s.peer (BitVec.ofNat 12 x.entry.peer)).answers || s.cpu.reply == .done)
  else true

/-- A store of `n` bytes at `x` is performed now: no unit under test holds them (R478); on the device no host copy stands in the
way and the home grants the grain (R176, R432); the host's port is up and its completions arrive (R433); the peer grants the
write and acknowledges it, with no earlier store of the thread to the bytes on its way (R438, R441). -/
def State.storable (s : State) (x : Xlat) (n : Nat) : Bool :=
  !s.testing x.key n &&
    if x.home = 0 then s.hostFree x.key n && (!x.inL1 s.cpu || s.mayGrant x.grain x.entry.grain)
    else if x.home = 2 then (s.port (s.portFor x.pa)).up && (s.port (s.portFor x.pa)).answers
    else s.answered x n false true && (x.home != 3 || (s.peer (BitVec.ofNat 12 x.entry.peer)).answers && !s.owedAt x.key n)

/-- The bytes of a place are delivered from its home (R18, R164, R205): the check holds, no unit under test holds them and no store of
the thread to them is on its way, and a page's access is home-coherent and answered, and granted its grain (R176, R206, R478). -/
def State.readable (s : State) (p : Place) (mm : MemMode) : Bool :=
  !s.lineTested p && !s.badAt p.key p.n && !s.testing p.key p.n && !s.owedAt p.key p.n &&
    match p.src with
    | .page x => !mayBeStale s.cpu x mm && s.answered x p.n true false && (!x.inL1 s.cpu || s.mayGrant x.grain x.entry.grain)
    | _ => true

/-- A store to a place is performed now. -/
def State.writable (s : State) (p : Place) : Bool :=
  match p.src with
  | .page x => s.storable x p.n
  | .window _ _ f => !s.lineTested p && !s.testing p.key p.n && s.hostFree p.key p.n && s.mayGrant f.home f.size
  | .cistern => !s.testing p.key p.n

/-- The bytes at a place's home. -/
def State.bytesAt (s : State) (p : Place) : List Byte := Memory.reads s.mem p.key p.n

/-- A scalar access of width `w` at `ea` to the page of entry `e` moves bytes and does nothing else (R163, R364, R365): a plain
page, or an element of a differentiable page in a mode that records and reverses nothing. -/
def plainAccess (e : TlbEntry) (ea : Word) (w : Nat) (mode : BitVec 2) (store : Bool) : Bool :=
  e.kind == 0 ||
    (e.kind == 2 && e.elemWidth == w && e.home == 0 && decide (e.origin ≤ ea.toNat) && (ea.toNat - e.origin) % e.elemWidth == 0 &&
      !(store && mode == 1) && !(mode == 2 && (store || decide (e.cls ≤ 1))))

/-- After an acquire at scope `sc` the thread's plain reads are home-coherent from device scope up, and in a rill at every
scope (R197, R205); what its aged loads have read binds the later ones (R215). -/
def State.acquiredAt (s : State) (sc : Scope) : State :=
  { s with cpu := { s.cpu with front := s.cpu.heard, homeCoh := s.cpu.homeCoh || decide (scopeRank sc ≥ 2) || s.cpu.isRill } }

/-- The acquire half of a memory mode. -/
def State.acquired (s : State) (mm : MemMode) : State := if mm.cls == .ordered then s.acquiredAt mm.scope else s

/-- The bytes of memory outside `n` bytes from `k` read as before. -/
def State.sameOutside (s t : State) (k n : Nat) : Prop :=
  ∀ a, a < k ∨ k + n ≤ a → Memory.lookup t.mem a = Memory.lookup s.mem a

/-- The home address of the grain of byte `pa` in a page of entry `e` (R151). -/
def grainOf (e : TlbEntry) (pa : Nat) : Nat := pa / e.grain * e.grain

/-- An aged load at lag `lag` accepts a stamp: its age, a signed 32-bit number, is at most the lag, or the lag is 31 (R246, R247). -/
def acceptsAge (iter stamp : BitVec 32) (lag : BitVec 5) : Bool := lag == 31 || decide ((iter - stamp).toInt ≤ lag.toNat)

/-- A store of the bytes `bs` from `pa` in an aged page of entry `e`, stamped with ITER, has taken effect (R254, R255): in each
grain it covers, a stamp newer than ITER discards the bytes, and otherwise they are written, the stamp becomes ITER, and every
waiter of the grain that it serves leaves the weir; the slice counts each grain whose store is discarded; no other byte, stamp, count or
waiter changes. -/
def State.agedStored (s t : State) (e : TlbEntry) (pa : Nat) (bs : List Byte) : Prop :=
  let new (q : Nat) : Bool := decide (0 ≤ (s.cpu.iter - s.stampOf q e.basestamp).toInt)
  s.sameOutside t pa bs.length ∧
  (∀ j, (h : j < bs.length) → Memory.lookup t.mem (pa + j) = if new (grainOf e (pa + j)) then bs[j] else Memory.lookup s.mem (pa + j)) ∧
  (∀ j < bs.length, new (grainOf e (pa + j)) = true → t.stampOf (grainOf e (pa + j)) e.basestamp = s.cpu.iter) ∧
  (∀ q base, (∀ j < bs.length, grainOf e (pa + j) ≠ q ∨ new q = false) → t.stampOf q base = s.stampOf q base) ∧
  (∀ w, w ∈ t.weir ↔ w ∈ s.weir ∧ ∀ j < bs.length, w.grain = grainOf e (pa + j) → new w.grain = true → (s.cpu.iter - w.least).toInt < 0) ∧
  (∀ sl, assocD 0 sl t.discards = assocD 0 sl s.discards + (List.range bs.length).countP fun j => let q := grainOf e (pa + j)
    !new q && sliceOf q == sl && (j == 0 || q != grainOf e (pa + j - 1)))

/-- The page of `x` is aged and homed on the device (R244). -/
def Xlat.agedPage (x : Xlat) : Bool := x.entry.kind == 1 && x.home == 0

/-- An element of a differentiable page on the device at `ea` (R153, R356). -/
def Xlat.element (x : Xlat) (ea : Word) : Bool :=
  x.entry.kind == 2 && x.home == 0 && ea.toNat % x.entry.elemWidth == 0 && decide (x.entry.origin ≤ ea.toNat) &&
    (ea.toNat - x.entry.origin) % x.entry.elemWidth == 0

/-- The doubleword at a home address as a signed number: a shadow cell (R109, R356). -/
def State.signedAt (s : State) (a : Nat) : Int := (BitVec.ofNat 64 (leNat (Memory.reads s.mem a 8))).toInt

/-- A read-modify-write of width `w` at `ea` may be done in the page of `x`: aligned, a plain page that the thread may read and
write, homed where the operation is performed, and for a rill at its own slice (R160, R270, R272, R282, R287, R434). -/
def State.atomicPage (s : State) (ea : Word) (w : Nat) (h : Homes) (x : Xlat) : Bool :=
  ea.toNat % w == 0 && s.pageAt ea true true == some x && x.entry.kind == 0 && h.has x.home &&
    (x.home != 2 || ((s.port (s.portFor x.pa)).atomics && (s.port (s.portFor x.pa)).posts.isEmpty)) &&
    (!s.cpu.isRill || x.home != 0 || sliceOf x.pa == s.cpu.clusterId)

/-- Nothing makes it wait or fail: no range in flight, nothing owed before its release, an answer from its home, no host copy of
the device bytes, the grain granted, no unit under test, no store of the thread to the bytes on its way, no failed check (R309, R229,
R435, R432, R176, R478, R206, R18). -/
def State.atomicFree (s : State) (x : Xlat) (ea : Word) (w : Nat) (mm : MemMode) : Bool :=
  s.rangesFree [rmwPlace x ea w] true && s.modeFree mm && s.answered x w true true &&
    (x.home != 0 || s.hostFree x.key w && s.mayGrant x.grain x.entry.grain) && !s.badAt x.key w && !s.testing x.key w && !s.owedAt x.key w

/-- The doubleword at a home. -/
def State.dwordAt (s : State) (k : Nat) : Word := BitVec.ofNat 64 (leNat (Memory.reads s.mem k 8))

/-- The thread holds its core's format context, and no self-test of its cluster's matrix unit runs (R329, R332, R478). -/
def State.holdsFmt (s : State) : Prop :=
  s.cpu.isRill = false ∧ s.cpu.isSluice = false ∧ s.myCore.fmt.holder = some s.cpu.id ∧ s.matrixTest s.cpu.clusterId = false

/-- Tile `t` of the core can be read: no pending step writes it and it holds no uncorrectable error (R333, R477). -/
def State.tileReady (s : State) (t : Tile) : Prop := s.myCore.fmt.busy t = false ∧ t.toNat ∉ s.myCore.fmt.badTiles

/-- The core's format context replaced. -/
def State.withFmt (s : State) (f : FmtCtx) : State := s.putCore { s.myCore with fmt := f }

/-- Element (r, c) of a tile. -/
def FmtCtx.elemAt (x : FmtCtx) (t : Tile) (r c : Nat) : F32 := ((x.tiles[t.toNat]).toList[32 * r + c]?).getD 0

/-- A slot reference names bytes of a cistern that can be read: inside it, outside every window and retired line, good and under no
test, with no store of the thread to them on its way (R315, R336, R478). -/
def State.slotReadable (s : State) (n : Nat) (r : Word) : Bool :=
  !badRange s (refCore s.cpu r) 1 (BitVec.ofNat 64 (refOff r)) (BitVec.ofNat 64 n) &&
    !s.badAt (cisternKey (refCore s.cpu r) (refOff r)) n && !s.testing (cisternKey (refCore s.cpu r) (refOff r)) n && !s.owedAt (cisternKey (refCore s.cpu r) (refOff r)) n

/-- Bytes of a dense slot of format `f`: 1 FP32, 2 BF16, 3 DL8 (R334). -/
def slotLen (f : Nat) : Nat := if f = 3 then 1024 else if f = 2 then 512 else 256

/-- Bytes of an A slot of a configuration (R334). -/
def aSlotLen (cfg : BitVec 5) : Nat := if cfg.getLsbD 4 then (if cfg.toNat % 4 = 3 then 640 else 288) else slotLen (cfg.toNat % 4)

/-- A reference queue holds `n` readable slots, and its scale queue 16 scales for each reference of a DL8 configuration and none
otherwise (R336, R337). -/
def State.queueReady (s : State) (f n len : Nat) (refs : List Word) (scales : List F32) : Bool :=
  decide (n ≤ refs.length) && decide (scales.length = if f = 3 then 16 * refs.length else 0) && (refs.take n).all fun r => s.slotReadable len r

/-- The queues hold what `n` steps of MMA or MMASP consume (R336). -/
def State.stepsReady (s : State) (n : Nat) : Bool :=
  s.queueReady (s.myCore.fmt.cfg.toNat % 4) n (aSlotLen s.myCore.fmt.cfg) s.myCore.q8 s.myCore.f10 &&
    s.queueReady (s.myCore.fmt.cfg.toNat % 4) n (slotLen (s.myCore.fmt.cfg.toNat % 4)) s.myCore.q9 s.myCore.f11

/-- Word `n` of a run of bytes (R25). -/
def wordOf (bs : List Byte) (n : Nat) : F32 := BitVec.ofNat 32 (leNat ((bs.drop (4 * n)).take 4))

/-- A window without its filled grains. -/
def Window.frame (w : Window) : Window := { w with fills := [] }

/-- Home addresses of the bytes at these VAs, each in a plain page of the device that the thread may read and write, translated one
after the other, and the state once the translations have been cached. -/
def State.placesOf (s : State) : List Word → Option (List Nat × State)
  | [] => some ([], s)
  | va :: vas =>
    match s.pageAt va true true with
    | none => none
    | some x =>
      if x.plainDevice then
        match (s.cached x).placesOf vas with
        | some (as, t) => some (x.pa :: as, t)
        | none => none
      else none

/-- `a` is the home of the thread's Turnout descriptor, translated in state `u` afterwards: its bytes are delivered, and any sweep of it is the
context's own (R389, R390). -/
def State.descriptorAt (s : State) (a : Nat) (u : State) : Prop :=
  s.cpu.cbdesc ≠ 0 ∧ s.placesOf [s.cpu.cbdesc] = some ([a], u) ∧ s.badAt a 64 = false ∧ s.testing a 64 = false ∧ s.owedAt a 64 = false ∧
    ∀ w ∈ s.sweeps, w.home = a → w.ctx = s.cpu.ctx

/-- Nothing makes the last writes of a sweep wait: no release, no host copy, no unit under test (R202, R432, R478). -/
def State.sweepFree (s : State) (w : Sweep) : Prop :=
  s.releaseFree .device = true ∧ s.modeFree MemMode.none = true ∧ s.hostFree (w.home + 32) 16 = true ∧ s.testing (w.home + 32) 16 = false ∧
    ∀ x ∈ w.items, ∀ b ∈ x.bodies, s.hostFree b 1 = true ∧ s.testing b 1 = false

/-- `t` is `s` but for what caches and directories hold: translations, copies, directory entries, served requests, filled grains
of windows, and how far the prefetch streams are (R155, R171, R177, R179, R184, R189). A directory entry that is displaced may end
reservations, with a notice for each (R276). -/
def State.onlyCaches (s t : State) : Prop :=
  t = { s with cores := t.cores, tlb := t.tlb, used := t.used, copies := t.copies, tracked := t.tracked, l2 := t.l2, dirs := t.dirs, lastInval := t.lastInval,
               refused := t.refused, resvs := t.resvs, events := t.events, free := t.free } ∧
  (∀ k, t.core k = { s.core k with windows := (t.core k).windows, streams := (t.core k).streams, micro := (t.core k).micro } ∧
    (t.core k).windows.map Window.frame = (s.core k).windows.map Window.frame) ∧
  (∀ r ∈ t.resvs, r ∈ s.resvs) ∧ (∀ r ∈ s.resvs, r ∉ t.resvs → .lossNotice r.holder r.rid ∈ t.events) ∧
  (∀ e ∈ s.events, e ∈ t.events) ∧ ∀ e ∈ t.events, e ∈ s.events ∨ ∃ r ∈ s.resvs, e = .lossNotice r.holder r.rid

/-- The state after a store to a page: a posted write to a host port counts as outstanding (R433). -/
def State.stored (s : State) (x : Xlat) (k : Nat) (bs : List Byte) : State :=
  let s := s.homeWrite k bs
  if x.home = 2 then
    { s with cpu := match s.portFor x.pa with | .a => { s.cpu with postedA := true } | .b => { s.cpu with postedB := true } }
  else s

/-- The state after a store to a place. -/
def State.storedAt (s : State) (p : Place) (bs : List Byte) : State :=
  match p.src with | .page x => s.stored x p.key bs | _ => s.homeWrite p.key bs

/-- The state after a store to places, one after the other. -/
def State.storedTo (s : State) : List Place → List Byte → State
  | [], _ => s
  | p :: ps, bs => (s.storedAt p (bs.take p.n)).storedTo ps (bs.drop p.n)

/-- The state after one store of all the places: a sector that they cover together has a fresh check (R477). -/
def State.storedAll (s : State) (ps : List Place) (bs : List Byte) : State :=
  let t := s.storedTo ps bs
  { t with bad := t.bad.filter fun k => !((upTo 2).all fun h => ps.any fun p => p.key == 32 * k + 16 * h) }


end Sys2Proof.Machine
end

