-- ==== Sys2Proof/Certificates/Slice0/Obligations.lean ====
section
/-!
DEFINITION. The statements for the provers. Each docstring names the rules of spec/ it states.
-/
open Sys2Proof Sys2Proof.Machine

/-! Integer instructions (spec/04_thread_slots.md). -/

/-- R78, R79, R80: with its guard true and its operands usable, each two-source instruction computes `x op y`, with
x = G(a), y = G(b) without XR and x = G(b), y = G(c) with XR, writes it to ga and goes on at its successor; nothing else
changes, apart from the flume entries its port fields pop and push.

R78, R83: the one-source instructions, in the same form. The number of leading zero bits is the number of positions
i such that bits 63 to 63 - i are all zero, and the number of one bits counts positions.

R78: the immediate instructions, MOVI among them, which reads no register. -/
def Obligations.IntegerResults : Prop :=
  (∀ e ∈ ([(Instr.add, fun x y => x + y), (Instr.sub, fun x y => x - y), (Instr.mul, fun x y => x * y),
       (Instr.mulh, fun x y => (x.signExtend 128 * y.signExtend 128).extractLsb' 64 64),
       (Instr.mulhu, fun x y => (x.setWidth 128 * y.setWidth 128).extractLsb' 64 64),
       (Instr.div, fun x y => if y = 0 then -1 else x.sdiv y), (Instr.divu, fun x y => if y = 0 then -1 else x.udiv y),
       (Instr.rem, fun x y => if y = 0 then x else x.srem y), (Instr.remu, fun x y => if y = 0 then x else x.umod y),
       (Instr.and, fun x y => x &&& y), (Instr.or, fun x y => x ||| y), (Instr.xor, fun x y => x ^^^ y),
       (Instr.shl, fun x y => x <<< (y.extractLsb' 0 6).toNat), (Instr.shr, fun x y => x >>> (y.extractLsb' 0 6).toNat),
       (Instr.sar, fun x y => x.sshiftRight (y.extractLsb' 0 6).toNat),
       (Instr.min, fun x y => if x.toInt ≤ y.toInt then x else y), (Instr.max, fun x y => if x.toInt ≤ y.toInt then y else x)] :
       List ((Chain → Reg → Reg → RegC → Instr) × (Word → Word → Word))),
   ∀ (c : Chain) (a b : Reg) (k : RegC) (s : State), guardOn c s.cpu.p = true → s.usable (uses2 c a b k) [] = true →
     exec (e.1 c a b k) s = .next ((s.popped b).result (e.1 c a b k) a
       (if c.hasXR then e.2 (s.source b) (s.source (wide k)) else e.2 (s.source a) (s.source b)))) ∧
  (∀ e ∈ ([(Instr.mov, fun y => y),
       (Instr.clz, fun y => BitVec.ofNat 64 ((List.range 64).countP fun i => decide (y.toNat < 2 ^ (63 - i)))),
       (Instr.popc, fun y => BitVec.ofNat 64 ((List.range 64).countP fun i => y.getLsbD i)),
       (Instr.sextB, fun y => (y.extractLsb' 0 8).signExtend 64), (Instr.sextH, fun y => (y.extractLsb' 0 16).signExtend 64),
       (Instr.sextW, fun y => (y.extractLsb' 0 32).signExtend 64)] : List ((Chain → Reg → Reg → Instr) × (Word → Word))),
   ∀ (c : Chain) (a b : Reg) (s : State), guardOn c s.cpu.p = true → s.usable [.wr a, .rd b] [] = true →
     exec (e.1 c a b) s = .next ((s.popped b).result (e.1 c a b) a (e.2 (s.source b)))) ∧
  ((∀ e ∈ ([(Instr.addi, fun x i => x + i), (Instr.muli, fun x i => x * i), (Instr.andi, fun x i => x &&& i),
       (Instr.ori, fun x i => x ||| i), (Instr.xori, fun x i => x ^^^ i), (Instr.shli, fun x i => x <<< i.toNat),
       (Instr.shri, fun x i => x >>> i.toNat), (Instr.sari, fun x i => x.sshiftRight i.toNat)] :
       List ((Chain → Reg → Word → Instr) × (Word → Word → Word))),
     ∀ (c : Chain) (a : Reg) (imm : Word) (s : State), guardOn c s.cpu.p = true → s.usable [.rw a] [] = true →
       exec (e.1 c a imm) s = .next (s.result (e.1 c a imm) a (e.2 (s.source a) imm))) ∧
   (∀ (c : Chain) (a : Reg) (imm : Word) (s : State), guardOn c s.cpu.p = true → s.usable [.wr a] [] = true →
       exec (.movi c a imm) s = .next (s.result (.movi c a imm) a imm)))

/-- R81: a compare writes its destination predicate, ANDed into it when M[4] is 1, and changes no register; M[3:0] = 0 and
1 both name p1. Which of two popped entries is x is free (R64, notes/assumptions/7.md).

R46, R62, R82: NOP only goes on; PRD reads the predicate word with bit 0 equal to 1; PWR writes p1 to p15 and leaves
p0 at 1. -/
def Obligations.Predicates : Prop :=
  ((∀ e ∈ ([(Instr.ceq, fun x y => decide (x = y)), (Instr.cne, fun x y => decide (x ≠ y)),
       (Instr.clt, fun x y => decide (x.toInt < y.toInt)), (Instr.cle, fun x y => decide (x.toInt ≤ y.toInt)),
       (Instr.cltu, fun x y => decide (x.toNat < y.toNat)), (Instr.cleu, fun x y => decide (x.toNat ≤ y.toNat))] :
       List ((Chain → Reg → Reg → PredDest → Instr) × (Word → Word → Bool))),
     ∀ (c : Chain) (a b : Reg) (d : PredDest) (s : State), guardOn c s.cpu.p = true → s.usable [.rd a, .rd b] [] = true →
       ∃ t, exec (e.1 c a b d) s = .next t ∧ t = { s.popped2 a b with cpu := { (s.popped2 a b).cpu.goTo
           (s.cpu.pc + BitVec.ofNat 64 (e.1 c a b d).len) with p := t.cpu.p } } ∧
         ∀ i < 16, t.cpu.p.getLsbD i = if i = max (d.extractLsb' 0 4).toNat 1 then
             e.2 (s.sources a b).1 (s.sources a b).2 && (!d.getLsbD 4 || s.cpu.p.getLsbD i) else s.cpu.p.getLsbD i) ∧
   (∀ (c : Chain) (a : Reg) (imm : Word) (d : PredDest) (s : State), guardOn c s.cpu.p = true → s.usable [.rd a] [] = true →
       ∃ t, exec (.ceqi c a imm d) s = .next t ∧ t = { s.popped a with cpu := { (s.popped a).cpu.goTo
           (s.cpu.pc + BitVec.ofNat 64 (Instr.ceqi c a imm d).len) with p := t.cpu.p } } ∧
         ∀ i < 16, t.cpu.p.getLsbD i = if i = max (d.extractLsb' 0 4).toNat 1 then
             decide (s.source a = imm) && (!d.getLsbD 4 || s.cpu.p.getLsbD i) else s.cpu.p.getLsbD i)) ∧
  ((∀ (c : Chain) (s : State), guardOn c s.cpu.p = true → exec (.nop c) s = .next (s.advance (Instr.nop c).len)) ∧
   (∀ (c : Chain) (a : Reg) (s : State), guardOn c s.cpu.p = true → s.usable [.wr a] [] = true →
     ∃ x : Word, exec (.prd c a) s = .next (s.result (.prd c a) a x) ∧ x.getLsbD 0 = true ∧
       ∀ i, 0 < i → x.getLsbD i = s.cpu.p.getLsbD i) ∧
   (∀ (c : Chain) (a : Reg) (s : State), guardOn c s.cpu.p = true → s.usable [.rd a] [] = true →
     ∃ p : BitVec 16, exec (.pwr c a) s = .next ({ s.popped a with cpu := { (s.popped a).cpu with p := p } }.advance (Instr.pwr c a).len) ∧
       p.getLsbD 0 = true ∧ ∀ i, 0 < i → i < 16 → p.getLsbD i = (s.source a).getLsbD i))

/-- R57, R64: what the fields of the statements above read and write: g0 reads zero and discards a write, a write of g1 to
g125 changes that register alone, g126 reads the oldest entry and pops it, and a write of g127 appends one entry to the
queue of the live partner downstream and changes no register. -/
def Obligations.RegisterFields : Prop :=
  ∀ (s : State) (x : Word),
    s.source 0 = 0 ∧ s.written 0 x = s ∧
    (∀ r : Reg, 0 < r.toNat → r.toNat < 126 → (s.written r x).source r = x ∧ s.popped r = s ∧
      ∀ q : Reg, q ≠ r → (s.written r x).source q = s.source q) ∧
    (∀ y q, s.cpu.flume = y :: q → s.source 126 = y ∧ (s.popped 126).cpu.flume = q) ∧
    (s.written 127 x).cpu = s.cpu ∧
    (∀ d, s.thread? s.cpu.downstream = some d → (s.written 127 x).thread? s.cpu.downstream = some { d with flume := d.flume ++ [x] })

/-! Control transfers, guards and traps (spec/04_thread_slots.md, spec/10_traps_and_preemption.md). -/

/-- R37, R84 to R87: the taken transfers go to the address of the chain plus 2n, or to G(b); BL and JR write the link, JR
after it has read its target; LOOP writes the counter less 1 and branches when that is not zero.

R37: a taken transfer to an odd address traps ALIGN, and one to an address at or above 2^58 traps PROT; neither the link
nor the counter is written, for the trap is taken in the state before the chain. -/
def Obligations.Transfers : Prop :=
  ((∀ (c : Chain) (n : Word) (s : State), guardOn c s.cpu.p = true → legalTarget (s.cpu.pc + 2 * n) = true →
     exec (.br c n) s = .next (s.goneTo (s.cpu.pc + 2 * n))) ∧
   (∀ (c : Chain) (a : Reg) (n : Word) (s : State), guardOn c s.cpu.p = true → s.usable [.wr a] [] = true →
     legalTarget (s.cpu.pc + 2 * n) = true →
     exec (.bl c a n) s = .next ((s.written a (s.cpu.pc + BitVec.ofNat 64 (Instr.bl c a n).len)).goneTo (s.cpu.pc + 2 * n))) ∧
   (∀ (c : Chain) (a b : Reg) (s : State), guardOn c s.cpu.p = true → s.usable [.wr a, .rd b] [] = true →
     legalTarget (s.source b) = true →
     exec (.jr c a b) s = .next (((s.popped b).written a (s.cpu.pc + BitVec.ofNat 64 (Instr.jr c a b).len)).goneTo (s.source b))) ∧
   (∀ (c : Chain) (a : Reg) (n : Word) (s : State), a ≠ 0 → guardOn c s.cpu.p = true → s.usable [.rw a] [] = true →
     legalTarget (s.cpu.pc + 2 * n) = true →
     exec (.loop c a n) s = .next ((s.written a (s.source a - 1)).goneTo
       (if s.source a - 1 = 0 then s.cpu.pc + BitVec.ofNat 64 (Instr.loop c a n).len else s.cpu.pc + 2 * n)))) ∧
  (∀ (c : Chain) (a b : Reg) (n : Word) (s : State), guardOn c s.cpu.p = true →
     let stop (i : Instr) (t : Word) : Host.Outcome State Fault Refusal :=
       .next (takeTrap s (if t.getLsbD 0 then Cause.align else Cause.prot) t 0 i.len)
     (legalTarget (s.cpu.pc + 2 * n) = false →
       exec (.br c n) s = stop (.br c n) (s.cpu.pc + 2 * n) ∧
       (s.usable [.wr a] [] = true → exec (.bl c a n) s = stop (.bl c a n) (s.cpu.pc + 2 * n)) ∧
       (a ≠ 0 → s.usable [.rw a] [] = true → s.source a ≠ 1 → exec (.loop c a n) s = stop (.loop c a n) (s.cpu.pc + 2 * n))) ∧
     (legalTarget (s.source b) = false → s.usable [.wr a, .rd b] [] = true →
       exec (.jr c a b) s = stop (.jr c a b) (s.source b)))

/-- R38: an instruction whose guard is 0 changes no register, predicate, memory or engine state and raises no trap: the
thread only goes on at the successor. UDF traps whatever its guard (R45). -/
def Obligations.FalseGuard : Prop :=
  ∀ (i : Instr) (s : State), WellFormed i = true → (∀ c n x m l, i ≠ .udf c n x m l) → guardOn i.chain s.cpu.p = false →
    exec i s = .next (s.advance i.len)

/-- R222, R223: a trap of a user cause enters the handler when TRAPVEC is not 0, is even and lies below 2^58, and HND is 0.
TRAPPC, TRAPCAUSE and TRAPVAL are written, HND becomes 1 and PC becomes TRAPVEC; every g and v register, the predicate word,
FPCSR, ITER, DMODE and the tape registers are unchanged, and so is the rest of the machine.

R220, R222, R225, R241: while HND is 0, and for an SVC whatever HND is, a trap that does not enter the handler halts the slot
and has a notification record of kind 1 written with the cause, TRAPPC, TRAPVAL, AUX and LEN; the thread keeps its slot and
registers, and HND stays.

R222, R224: any trap but SVC while HND is 1 goes to the supervisor as TRAPNEST. TRAPPC, TRAPCAUSE.LEN and TRAPVAL go on
describing the outer trap, with CAUSE = 0x14 and AUX the nested cause; the record holds the outer chain's address and LEN, the
nested trap's TRAPVAL and cause, and the address of the handler's chain that trapped. HND stays 1.

R225, R227, R285: a trap in a rill halts it in its slot, with its registers as they were, and has a record of kind 1 written with
the cause, the chain's address, TRAPVAL, AUX and LEN, the spawner's TASKID and rank, and SAVEAREA 0.

R18, R220, R477, R478: a read of a register that holds an uncorrectable error traps MEMERR with TRAPVAL and AUX 0, and its row of the
register file runs a self-test. The verdict is a free value (notes/assumptions/37.md). -/
def Obligations.TrapEntry : Prop :=
  (∀ (s : State) (cause : BitVec 8) (val : Word) (aux : BitVec 32) (len : Nat), len < 16 →
     s.cpu.isRill = false → s.cpu.isSluice = false → cause ∈ [0x08#8, 0x09#8, 0x0A#8, 0x0C#8, 0x0D#8, 0x18#8] →
     s.cpu.trapvec ≠ 0 → legalTarget s.cpu.trapvec = true → s.cpu.trapcause.getLsbD 16 = false →
     ∃ t : Thread, takeTrap s cause val aux len = { s with cpu := t } ∧
       t = { s.cpu with trappc := s.cpu.pc, trapcause := t.trapcause, trapval := val, pc := s.cpu.trapvec, state := .ready,
                        wake := .none, held := none, reply := .none, arrived := false, awaits := none, pins := [], agedWait := none,
                        walks := [], asked := none } ∧
       t.trapcause.extractLsb' 0 8 = cause ∧ (t.trapcause.extractLsb' 8 4).toNat = len ∧ t.trapcause.getLsbD 16 = true ∧
       t.trapcause.extractLsb' 32 32 = aux ∧ t.trapcause.extractLsb' 12 4 = 0 ∧ t.trapcause.extractLsb' 17 15 = 0) ∧
  (∀ (s : State) (cause : BitVec 8) (val : Word) (aux : BitVec 32) (len : Nat), len < 16 →
     s.cpu.isRill = false → (s.cpu.trapcause.getLsbD 16 = false ∨ cause = 0x15) →
     (cause ∉ [0x08#8, 0x09#8, 0x0A#8, 0x0C#8, 0x0D#8, 0x18#8] ∨ s.cpu.trapvec = 0 ∨ legalTarget s.cpu.trapvec = false ∨
       s.cpu.isSluice = true) →
     ∃ (t : Thread) (n : Note), takeTrap s cause val aux len = { s with cpu := t, events := s.events ++ [.notificationRecord n] } ∧
       t = { s.cpu with trappc := s.cpu.pc, trapcause := t.trapcause, trapval := val, state := .halted,
                        wake := .none, held := none, reply := .none, arrived := false, awaits := none, pins := [], agedWait := none,
                        walks := [], asked := none } ∧
       t.trapcause.extractLsb' 0 8 = cause ∧ (t.trapcause.extractLsb' 8 4).toNat = len ∧ t.trapcause.getLsbD 16 = s.cpu.trapcause.getLsbD 16 ∧
       t.trapcause.extractLsb' 32 32 = aux ∧
       n.kind = 1 ∧ n.ctx = s.cpu.ctx ∧ n.cause = cause ∧ n.trappc = s.cpu.pc ∧ n.trapval = val ∧ n.aux = aux ∧ n.len.toNat = len) ∧
  (∀ (s : State) (cause : BitVec 8) (val : Word) (aux : BitVec 32) (len : Nat), s.cpu.isRill = false →
     s.cpu.trapcause.getLsbD 16 = true → cause ≠ 0x15 →
     ∃ (t : Thread) (n : Note), takeTrap s cause val aux len = { s with cpu := t, events := s.events ++ [.notificationRecord n] } ∧
       t = { s.cpu with trapcause := t.trapcause, state := .halted, wake := .none, held := none, reply := .none, arrived := false,
                        awaits := none, pins := [], agedWait := none, walks := [], asked := none } ∧
       t.trapcause.extractLsb' 0 8 = 0x14 ∧ t.trapcause.extractLsb' 8 4 = s.cpu.trapcause.extractLsb' 8 4 ∧
       t.trapcause.getLsbD 16 = true ∧ t.trapcause.extractLsb' 32 32 = cause.setWidth 32 ∧
       n.kind = 1 ∧ n.cause = 0x14 ∧ n.trappc = s.cpu.trappc ∧ n.len = s.cpu.trapcause.extractLsb' 8 4 ∧ n.trapval = val ∧
       n.aux = cause.setWidth 32 ∧ n.newpc = s.cpu.pc) ∧
  (∀ (s : State) (cause : BitVec 8) (val : Word) (aux : BitVec 32) (len : Nat), len < 16 → s.cpu.isRill = true →
     ∃ (t : Thread) (n : Note), takeTrap s cause val aux len = { s with cpu := t, events := s.events ++ [.notificationRecord n] } ∧
       t = { s.cpu with state := .halted, wake := .none, held := none, reply := .none, arrived := false, awaits := none, pins := [],
                        agedWait := none, walks := [], asked := none } ∧
       n.kind = 1 ∧ n.ctx = s.cpu.ctx ∧ n.cause = cause ∧ n.trappc = s.cpu.pc ∧ n.trapval = val ∧ n.aux = aux ∧ n.len.toNat = len ∧
       n.taskid = s.cpu.task ∧ n.rank = s.cpu.rank ∧ n.savearea = 0 ∧ n.target = .slot s.cpu.id) ∧
  (∀ (c : Chain) (a b : Reg) (s : State), guardOn c s.cpu.p = true → firstFault s.cpu [.wr a, .rd b] = none →
     (a = 127 → s.partner s.cpu s.cpu.downstream = true ∧ ∀ d, s.thread? s.cpu.downstream = some d → d.flume.length < 8) →
     0 < b.toNat → b.toNat < 126 → b.toNat ∈ s.cpu.badG →
     ∃ pass : Bool, exec (.mov c a b) s = .next (takeTrap { s with
       free := s.free + 1, events := s.events ++ [.selfTestVerdict (.row s.cpu.coreId (s.cpu.rbase + b.toNat / 8)) pass] } 0x19 0 0 (Instr.mov c a b).len))

/-- R45, R239, R241: the instructions whose effect is a trap. TRAP traps cause 0x18 and SVC cause 0x15, with TRAPVAL = n and
LEN the chain's length; UDF traps ILLEGAL whatever its guard, with TRAPVAL its halfword and position.

R240: ERET goes on at TRAPPC and ERET.next at TRAPPC + LEN, with HND cleared and nothing else changed; with HND = 0 they
trap ILLEGAL. -/
def Obligations.TrapsAndReturns : Prop :=
  ((∀ (c : Chain) (n : BitVec 10) (s : State), guardOn c s.cpu.p = true →
     exec (.trap c n) s = .next (takeTrap s 0x18 (n.setWidth 64) 0 (Instr.trap c n).len)) ∧
   (∀ (c : Chain) (n : BitVec 10) (s : State), guardOn c s.cpu.p = true → s.cpu.isRill = false →
     exec (.svc c n) s = .next (takeTrap s 0x15 (n.setWidth 64) 0 (Instr.svc c n).len)) ∧
   (∀ (c : Chain) (n x : BitVec 10) (m : BitVec 5) (l : List (BitVec 10)) (s : State),
     exec (.udf c n x m l) s = .next (takeTrap s 0x01
       ((BitVec.ofNat 64 ((Instr.udf c n x m l).len / 2 - 1) <<< 16) ||| (n.setWidth 64)) 0 (Instr.udf c n x m l).len))) ∧
  (∀ (c : Chain) (s : State), guardOn c s.cpu.p = true → s.cpu.isRill = false →
     (s.cpu.trapcause.getLsbD 16 = true → legalTarget s.cpu.trappc = true →
       exec (.eret c) s = .next { s with cpu := { s.cpu.goTo s.cpu.trappc with trapcause := s.cpu.trapcause &&& ~~~0x10000#64 } }) ∧
     (s.cpu.trapcause.getLsbD 16 = true →
       legalTarget (s.cpu.trappc + (s.cpu.trapcause.extractLsb' 8 4).setWidth 64) = true →
       exec (.eretNext c) s = .next { s with cpu := { s.cpu.goTo (s.cpu.trappc + (s.cpu.trapcause.extractLsb' 8 4).setWidth 64) with
         trapcause := s.cpu.trapcause &&& ~~~0x10000#64 } }) ∧
     (s.cpu.trapcause.getLsbD 16 = false →
       exec (.eret c) s = .next (takeTrap s 0x01 ((BitVec.ofNat 64 ((Instr.eret c).len / 2 - 1) <<< 16) ||| 0x2800) 0 (Instr.eret c).len) ∧
       exec (.eretNext c) s = .next (takeTrap s 0x01 ((BitVec.ofNat 64 ((Instr.eretNext c).len / 2 - 1) <<< 16) ||| 0x2800) 0
         (Instr.eretNext c).len)))

/-! Loads and stores (spec/07_address_space.md, spec/06_vector_lanes.md). -/

/-- R22, R161, R162: a scalar load of width w from a naturally aligned address in a page that allows it writes the w bytes at
the home, lowest first and zero-extended, to ga. Nothing else changes but caches, and class 01 leaves the thread's later plain
reads home-coherent.
That an access is performed in its step is the model's choice (notes/assumptions/5.md).

R161, R162: a scalar store of width w to a naturally aligned address in a page that allows it writes the low w bytes of ga at
the home, and nothing else but caches and what the write itself causes there; a write to a host port counts as posted (R433). Which
of two popped entries is the address is free (R64, notes/assumptions/7.md).

R148, R152, R153, R159, R160, R163: a scalar load or store whose address is not a multiple of its width traps ALIGN, one at or above
2^58, or in a page that is malformed or gives no permission, PROT, and one to a region that it does not take REGION with the region's
index in AUX, in this order, with TRAPVAL the address and no other effect. One to a page that is not present has its gang spilled. -/
def Obligations.ScalarAccesses : Prop :=
  (∀ e ∈ ([(Instr.ldb, 1), (Instr.ldh, 2), (Instr.ldw, 4), (Instr.ldd, 8)] : List ((Chain → Reg → Reg → Word → MemMode → Instr) × Nat)),
   ∀ (c : Chain) (a b : Reg) (off : Word) (mm : MemMode) (s : State) (x : Xlat),
     let i := e.1 c a b off mm
     let ea := s.source b + off
     guardOn c s.cpu.p = true → s.usable [.wr a, .rd b] [] = true → ea.toNat % e.2 = 0 →
     (s.popped b).goesTo ea true false x = true → plainAccess x.entry ea e.2 s.cpu.dmode false = true →
     s.rangesFree [x.place ea e.2] false = true → s.volatileFree mm = true → s.readable (x.place ea e.2) mm = true →
     ∃ t, exec i s = .next t ∧
       (((s.popped b).result i a (BitVec.ofNat 64 (leNat (s.bytesAt (x.place ea e.2))))).acquired mm).onlyCaches t) ∧
  (∀ e ∈ ([(Instr.stb, 1), (Instr.sth, 2), (Instr.stw, 4), (Instr.std, 8)] : List ((Chain → Reg → Reg → Word → MemMode → Instr) × Nat)),
   ∀ (c : Chain) (a b : Reg) (off : Word) (mm : MemMode) (s : State) (x : Xlat),
     let i := e.1 c a b off mm
     let ea := (s.sources a b).2 + off
     guardOn c s.cpu.p = true → s.usable [.rd a, .rd b] [] = true → ea.toNat % e.2 = 0 →
     (s.popped2 a b).goesTo ea false true x = true → plainAccess x.entry ea e.2 s.cpu.dmode true = true →
     s.rangesFree [x.place ea e.2] true = true → s.modeFree mm = true → s.storable x e.2 = true →
     ∃ t, exec i s = .next t ∧
       (((s.popped2 a b).stored x x.key (leBytes e.2 (s.sources a b).1.toNat)).advance i.len).onlyCaches t) ∧
  ((∀ e ∈ ([(Instr.ldb, 1), (Instr.ldh, 2), (Instr.ldw, 4), (Instr.ldd, 8)] : List ((Chain → Reg → Reg → Word → MemMode → Instr) × Nat)),
    ∀ (c : Chain) (a b : Reg) (off : Word) (mm : MemMode) (s : State),
     let i := e.1 c a b off mm
     let ea := s.source b + off
     guardOn c s.cpu.p = true → s.usable [.wr a, .rd b] [] = true →
     (∀ k aux, (s.popped b).accessFails ea e.2 true false (scalarTakes ea e.2) = some (k, aux) →
       exec i s = .next (takeTrap s k ea aux i.len)) ∧ (ea.toNat % e.2 = 0 → (s.popped b).translated ea = some .absent → s.spillsGang (exec i s))) ∧
   (∀ e ∈ ([(Instr.stb, 1), (Instr.sth, 2), (Instr.stw, 4), (Instr.std, 8)] : List ((Chain → Reg → Reg → Word → MemMode → Instr) × Nat)),
    ∀ (c : Chain) (a b : Reg) (off : Word) (mm : MemMode) (s : State),
     let i := e.1 c a b off mm
     let ea := (s.sources a b).2 + off
     guardOn c s.cpu.p = true → s.usable [.rd a, .rd b] [] = true →
     (∀ k aux, (s.popped2 a b).accessFails ea e.2 false true (scalarTakes ea e.2) = some (k, aux) →
       exec i s = .next (takeTrap s k ea aux i.len)) ∧ (ea.toNat % e.2 = 0 → (s.popped2 a b).translated ea = some .absent → s.spillsGang (exec i s))))

/-- R161, R182 to R185, R327: scalar accesses through a cistern window, the cistern aperture or the handle aperture go to the
place `placeAt` gives, after its checks, and move the same bytes there.

R183, R185, R327: an aligned scalar access to a grain of a window that is not filled checks the page: PROT without permission, REGION
for an invalid entry, a page that is not plain, or one homed elsewhere than on the die. One to an aperture that gives it no byte traps
PROT. TRAPVAL is the address.

R184, R199, R276: what a write of bytes at a home does: the bytes change and no other byte of memory; every reservation
on a granule it touches is lost, with a loss notice for each, and every other reservation stays; filled grains that it touches
leave their windows, and every L1's tracked copy of them is gone (R175). -/
def Obligations.WindowAccesses : Prop :=
  ((∀ e ∈ ([(Instr.ldb, 1), (Instr.ldh, 2), (Instr.ldw, 4), (Instr.ldd, 8)] : List ((Chain → Reg → Reg → Word → MemMode → Instr) × Nat)),
    ∀ (c : Chain) (a b : Reg) (off : Word) (mm : MemMode) (s u : State) (p : Place),
     let i := e.1 c a b off mm
     let ea := s.source b + off
     guardOn c s.cpu.p = true → s.usable [.wr a, .rd b] [] = true → ea.toNat % e.2 = 0 →
     placeAt ea e.2 true false (s.popped b) = .ok (p, u) → (∀ x, p.src ≠ .page x) →
     s.rangesFree [p] false = true → s.volatileFree mm = true → s.readable p mm = true →
     ∃ t, exec i s = .next t ∧ (((s.popped b).result i a (BitVec.ofNat 64 (leNat (s.bytesAt p)))).acquired mm).onlyCaches t) ∧
   (∀ e ∈ ([(Instr.stb, 1), (Instr.sth, 2), (Instr.stw, 4), (Instr.std, 8)] : List ((Chain → Reg → Reg → Word → MemMode → Instr) × Nat)),
    ∀ (c : Chain) (a b : Reg) (off : Word) (mm : MemMode) (s u : State) (p : Place),
     let i := e.1 c a b off mm
     let ea := (s.sources a b).2 + off
     guardOn c s.cpu.p = true → s.usable [.rd a, .rd b] [] = true → ea.toNat % e.2 = 0 →
     placeAt ea e.2 false true (s.popped2 a b) = .ok (p, u) → (∀ x, p.src ≠ .page x) →
     s.rangesFree [p] true = true → s.modeFree mm = true → s.writable p = true →
     ∃ t, exec i s = .next t ∧
       (((s.popped2 a b).homeWrite p.key (leBytes e.2 (s.sources a b).1.toNat)).advance i.len).onlyCaches t)) ∧
  (∀ e ∈ ([(Instr.ldb, 1, false), (Instr.ldh, 2, false), (Instr.ldw, 4, false), (Instr.ldd, 8, false), (Instr.stb, 1, true), (Instr.sth, 2, true),
       (Instr.stw, 4, true), (Instr.std, 8, true)] : List ((Chain → Reg → Reg → Word → MemMode → Instr) × Nat × Bool)),
   ∀ (c : Chain) (a b : Reg) (off : Word) (mm : MemMode) (s : State),
     let i := e.1 c a b off mm
     let ea := s.source b + off
     a ≠ 126 → b ≠ 126 → guardOn c s.cpu.p = true → s.usable (if e.2.2 then [.rd a, .rd b] else [.wr a, .rd b]) [] = true → ea.toNat % e.2.1 = 0 →
     (∀ (w : Window) (p : TlbEntry), s.cpu.isRill = false → inAperture ea = false → ea.toNat < 2 ^ 58 →
       first? (fun w => w.owner == s.cpu.id && w.covers ea.toNat) s.myCore.windows = some w →
       (∀ f ∈ w.fills, ¬ (f.va ≤ ea.toNat ∧ ea.toNat < f.va + f.size)) → s.canWalk ea = true → lookup s s.cpu.walker ea.toNat = .leaf p →
       (s.forbids p (!e.2.2) e.2.2 = true → exec i s = .next (takeTrap s 0x05 ea 0 i.len)) ∧
       (s.forbids p (!e.2.2) e.2.2 = false →
         (p.invalid = true ∨ p.kind ≠ 0 ∨ p.home ≠ 0 ∨ p.physical ea.toNat / 2 ^ 37 ≠ s.cpu.die) →
         exec i s = .next (takeTrap s 0x07 ea (BitVec.ofNat 32 p.regionIdx) i.len))) ∧
     (ea.toNat < 2 ^ 58 → Config.cisternAperture ≤ ea.toNat → s.apertureShut ea = true → exec i s = .next (takeTrap s 0x05 ea 0 i.len)) ∧
     (Config.handleAperture ≤ ea.toNat → ea.toNat < Config.handleApertureEnd → s.handleShut ea = true →
       exec i s = .next (takeTrap s 0x05 ea 0 i.len))) ∧
  (∀ (s : State) (k : Nat) (bs : List Byte),
     (∀ j, (h : j < bs.length) → Memory.lookup (s.homeWrite k bs).mem (k + j) = bs[j]) ∧
     s.sameOutside (s.homeWrite k bs) k bs.length ∧
     (∀ r ∈ s.resvs, (r ∈ (s.homeWrite k bs).resvs ↔ overlaps k bs.length r.granule 64 = false) ∧
       (overlaps k bs.length r.granule 64 = true → Instr.lossNotice r.holder r.rid ∈ (s.homeWrite k bs).events)) ∧
     (∀ n, ∀ w ∈ ((s.homeWrite k bs).core n).windows, ∀ f ∈ w.fills, overlaps k bs.length f.home f.size = false) ∧
     (∀ h ∈ (s.homeWrite k bs).tracked, overlaps k bs.length h.grain h.size = false))

/-- R134, R135, R162: VLD and VST move the 64 bytes of an aligned address, as the two sectors they lie in (four pieces of 16
bytes at a peer), to and from a vector register, byte 0 lowest (R118).

R138, R153, R159, R160, R163: VLD and VST trap as a scalar access does, with 64 bytes for the width and no rule on the element
width; VLDX and VSTX check their lanes in ascending order, each with 4 bytes and plain pages alone, and the first that fails
decides. TRAPVAL is the address, or the lane's.

R136, R137: VLDX reads the word at G(b) plus each lane's signed offset into that lane; VSTX writes each lane's word there in
ascending lane order, so the highest of several lanes at one address is what stays. -/
def Obligations.VectorAccesses : Prop :=
  (∀ (c : Chain) (a : VReg) (b : Reg) (off : Word) (mm : MemMode) (s : State) (x y : Xlat),
     let ea := s.source b + off
     let ps := (x.place ea 32).split ++ (y.place (ea + 32) 32).split
     guardOn c s.cpu.p = true → s.cpu.isRill = false → s.usable [.rd b] [a] = true → ea.toNat % 64 = 0 →
     ((s.popped b).goesTo ea true false x = true → ((s.popped b).cached x).goesTo (ea + 32) true false y = true →
       plainAccess x.entry ea x.entry.elemWidth s.cpu.dmode false = true → s.rangesFree ps false = true →
       s.volatileFree mm = true → (∀ p ∈ ps, s.readable p mm = true) →
       ∃ t, exec (.vld c a b off mm) s = .next t ∧
         ((((s.popped b).writtenV a (ofVecBytes (ps.flatMap s.bytesAt))).advance (Instr.vld c a b off mm).len).acquired mm).onlyCaches t) ∧
     ((s.popped b).goesTo ea false true x = true → ((s.popped b).cached x).goesTo (ea + 32) false true y = true →
       plainAccess x.entry ea x.entry.elemWidth s.cpu.dmode true = true → s.rangesFree ps true = true → s.goodV [a] = true →
       s.modeFree mm = true → (∀ p ∈ ps, s.writable p = true) →
       ∃ t, exec (.vst c a b off mm) s = .next t ∧
         (((s.popped b).storedAll ps (vecBytes s.cpu.v[a.toNat])).advance (Instr.vst c a b off mm).len).onlyCaches t)) ∧
  (∀ (c : Chain) (a k : VReg) (b : Reg) (off : Word) (mm : MemMode) (s : State) (cause : BitVec 8) (aux : BitVec 32),
     guardOn c s.cpu.p = true → s.cpu.isRill = false →
     (∀ e ∈ [(Instr.vld c a b off mm, true), (Instr.vst c a b off mm, false)], s.usable [.rd b] [a] = true →
       (s.popped b).unmapped (s.source b + off + 32) = true →
       (s.popped b).accessFails (s.source b + off) 64 e.2 (!e.2) (vectorTakes (s.source b + off)) = some (cause, aux) →
       exec e.1 s = .next (takeTrap s cause (s.source b + off) aux e.1.len)) ∧
     (∀ e ∈ [(Instr.vldx c a b k mm, true), (Instr.vstx c a b k mm, false)], s.usable [.rd b] [a, k] = true → s.goodV [k] = true →
       let as := (List.range 16).map fun l => s.source b + (s.cpu.v[k.toNat].extractLsb' (32 * l) 32).signExtend 64
       ∀ (j : Nat) (va : Word) (ps : List Place) (u : State), as[j]? = some va → gatherPlaces e.2 (!e.2) (as.take j) (s.popped b) = .ok (ps, u) →
         u.accessFails va 4 e.2 (!e.2) (fun x => x.kind == 0) = some (cause, aux) → exec e.1 s = .next (takeTrap s cause va aux e.1.len))) ∧
  (∀ (c : Chain) (a k : VReg) (b : Reg) (mm : MemMode) (s u : State) (ps : List Place),
     let as := (List.range 16).map fun l => s.source b + (s.cpu.v[k.toNat].extractLsb' (32 * l) 32).signExtend 64
     guardOn c s.cpu.p = true → s.cpu.isRill = false → s.usable [.rd b] [a, k] = true →
     (gatherPlaces true false as (s.popped b) = .ok (ps, u) → s.rangesFree ps false = true → s.goodV [k] = true →
       s.volatileFree mm = true → (∀ p ∈ ps, s.readable p mm = true) →
       ∃ t, exec (.vldx c a b k mm) s = .next t ∧ t.mem = s.mem ∧ t.cpu.g = s.cpu.g ∧ t.cpu.pc = s.cpu.pc + BitVec.ofNat 64 (Instr.vldx c a b k mm).len ∧
         (∀ l, (h : l < 16) → t.cpu.v[a.toNat].extractLsb' (32 * l) 32 = BitVec.ofNat 32 (leNat (((ps[l]?).map s.bytesAt).getD []))) ∧
         ∀ q : VReg, q ≠ a → t.cpu.v[q.toNat] = s.cpu.v[q.toNat]) ∧
     (gatherPlaces false true as (s.popped b) = .ok (ps, u) → s.rangesFree ps true = true → s.goodV [a, k] = true →
       s.modeFree mm = true → (∀ p ∈ ps, s.writable p = true) →
       ∃ t, exec (.vstx c a b k mm) s = .next t ∧ t.cpu.g = s.cpu.g ∧ t.cpu.v = s.cpu.v ∧
         t.cpu.pc = s.cpu.pc + BitVec.ofNat 64 (Instr.vstx c a b k mm).len ∧
         ∀ q, Memory.lookup t.mem q = Memory.lookup ((List.range 16).foldl (fun m l =>
           Memory.writes m (((ps[l]?).map Place.key).getD 0) (leBytes 4 (s.cpu.v[a.toNat].extractLsb' (32 * l) 32).toNat)) s.mem) q))

/-! Floating point and vectors (spec/05_number_formats.md, spec/06_vector_lanes.md). -/

/-- R123, R124, R126, R127: each scalar FP32 instruction computes its operation on bits [31:0] under FPCSR.RM, writes the result to
ga, with bits [63:32] zero where it is an FP32 value, and adds its flags to FPCSR; nothing else changes.

R125: an FP32 compare writes its predicate as an integer compare does; with a NaN operand the relation is false, NV is raised
for a signalling NaN alone, and +0 equals -0. -/
def Obligations.FloatScalar : Prop :=
  ((∀ e ∈ ([(Instr.fadd, fadd), (Instr.fsub, fsub), (Instr.fmul, fmul), (Instr.fdiv, fdiv), (Instr.fmin, fun _ => fminRule),
       (Instr.fmax, fun _ => fmaxRule)] : List ((Chain → Reg → Reg → RegC → Instr) × (BitVec 2 → F32 → F32 → FRes))),
     ∀ (c : Chain) (a b : Reg) (k : RegC) (s : State), guardOn c s.cpu.p = true → s.cpu.isRill = false →
       s.usable (uses2 c a b k) [] = true →
       let r := if c.hasXR then e.2 s.cpu.rm ((s.source b).setWidth 32) ((s.source (wide k)).setWidth 32)
         else e.2 s.cpu.rm ((s.source a).setWidth 32) ((s.source b).setWidth 32)
       exec (e.1 c a b k) s = .next (((s.popped b).raised r.2).result (e.1 c a b k) a (r.1.setWidth 64))) ∧
   (∀ (c : Chain) (a b : Reg) (k : RegC) (s : State), guardOn c s.cpu.p = true → s.cpu.isRill = false →
       s.usable [.rw a, .rd b, .rd (wide k)] [] = true →
       let r := ffma s.cpu.rm ((s.source a).setWidth 32) ((s.source b).setWidth 32) ((s.source (wide k)).setWidth 32)
       exec (.ffma c a b k) s = .next (((s.popped b).raised r.2).result (.ffma c a b k) a (r.1.setWidth 64))) ∧
   (∀ e ∈ ([(Instr.fsqrt, fun rm y => ((fsqrt rm (y.setWidth 32)).1.setWidth 64, (fsqrt rm (y.setWidth 32)).2)),
       (Instr.fcvti, fun rm y => toInt64 rm (y.setWidth 32)), (Instr.fcvtiRz, fun _ y => toInt64 1 (y.setWidth 32)),
       (Instr.icvtf, fun rm y => ((ofInt rm y.toInt).1.setWidth 64, (ofInt rm y.toInt).2)),
       (Instr.icvtfU, fun rm y => ((ofInt rm y.toNat).1.setWidth 64, (ofInt rm y.toNat).2))] :
       List ((Chain → Reg → Reg → Instr) × (BitVec 2 → Word → Word × Flags))),
     ∀ (c : Chain) (a b : Reg) (s : State), guardOn c s.cpu.p = true → s.cpu.isRill = false →
       s.usable [.wr a, .rd b] [] = true →
       exec (e.1 c a b) s = .next (((s.popped b).raised (e.2 s.cpu.rm (s.source b)).2).result (e.1 c a b) a
         (e.2 s.cpu.rm (s.source b)).1))) ∧
  (∀ e ∈ ([(Instr.fceq, fun x y => decide (unitsF x = unitsF y)), (Instr.fclt, fun x y => decide (unitsF x < unitsF y)),
       (Instr.fcle, fun x y => decide (unitsF x ≤ unitsF y))] :
       List ((Chain → Reg → Reg → PredDest → Instr) × (F32 → F32 → Bool))),
   ∀ (c : Chain) (a b : Reg) (d : PredDest) (s : State), guardOn c s.cpu.p = true → s.cpu.isRill = false →
     s.usable [.rd a, .rd b] [] = true →
     let x : F32 := (s.sources a b).1.setWidth 32
     let y : F32 := (s.sources a b).2.setWidth 32
     ∃ (r : Bool) (t : State), exec (e.1 c a b d) s = .next t ∧
       t = { s.popped2 a b with cpu := { (s.popped2 a b).cpu.goTo (s.cpu.pc + BitVec.ofNat 64 (e.1 c a b d).len) with
         p := t.cpu.p, fpcsr := t.cpu.fpcsr } } ∧
       (isNaN x || isNaN y → r = false) ∧ (isNaN x = false → isNaN y = false → r = e.2 x y) ∧
       t.cpu.fpcsr = s.cpu.fpcsr ||| (if isSNaN x || isSNaN y then 0x40 else 0) ∧
       ∀ i < 16, t.cpu.p.getLsbD i = if i = max (d.extractLsb' 0 4).toNat 1 then r && (!d.getLsbD 4 || s.cpu.p.getLsbD i) else s.cpu.p.getLsbD i)

/-- R95, R97: an FP32 result that is a NaN is the default NaN 0x7FC00000, and the invalid operations give it and raise NV.

R96, R123, R124, R127: FADD, FSUB, FMUL, FDIV, FSQRT, FFMA and ICVTF round the exact result once, in the mode that FPCSR.RM
selects, with the flags of R97; an exact zero of an addition is +0, or -0 in mode 2, but for two zeros of one sign. (In units of
2^-149.)

R99, R100, R103 to R106, R112, R126: FCVTI rounds to an integer, in 64 bits or at the bound with NV, and an inexact one sets NX alone
(notes/assumptions/69.md); a BF16 takes the nearest; a DL8 magnitude is (1 + 9f/2^w) 10^k, its FP32 decode the nearest, and a quantised
value takes the nearest code; the scale of a block, and a Q64 value, are the nearest FP32. Ties go to the even one.

R116: the maximum and the minimum rule on operands that are not NaNs, with +0 above -0.

R110, R111: a contribution is rounded to the nearest multiple of 2^q on its own, a tie going to the even one, and the sum is
exact unless it passes a bound, which is then taken and reported; an infinity takes its bound, and a NaN changes nothing. -/
def Obligations.FloatRules : Prop :=
  ((∀ (rm : BitVec 2) (x y z : F32),
     ∀ r ∈ [(fadd rm x y).1, (fsub rm x y).1, (fmul rm x y).1, (fdiv rm x y).1, (ffma rm x y z).1, (fsqrt rm x).1, (fminRule x y).1,
       (fmaxRule x y).1], isNaN r = true → r = 0x7FC00000) ∧
   (∀ (rm : BitVec 2) (x y : F32), isInf x = true → isInf y = true →
     (signF x ≠ signF y → fadd rm x y = (0x7FC00000, flagNV)) ∧ (signF x = signF y → fsub rm x y = (0x7FC00000, flagNV)) ∧
     fdiv rm x y = (0x7FC00000, flagNV)) ∧
   (∀ (rm : BitVec 2) (x y z : F32), isZeroF x = true →
     (isInf y = true → fmul rm x y = (0x7FC00000, flagNV) ∧ fmul rm y x = (0x7FC00000, flagNV) ∧ ffma rm z x y = (0x7FC00000, flagNV)) ∧
     (isZeroF y = true → fdiv rm x y = (0x7FC00000, flagNV)))) ∧
  ((∀ (rm : BitVec 2) (x y z : F32), expF x ≠ 255 → expF y ≠ 255 → expF z ≠ 255 →
     rounded32 rm (fadd rm x y) (unitsF x + unitsF y) 1 ∧ rounded32 rm (fsub rm x y) (unitsF x - unitsF y) 1 ∧
     rounded32 rm (fmul rm x y) (unitsF x * unitsF y) (2 ^ 149) ∧
     rounded32 rm (ffma rm x y z) (unitsF x * 2 ^ 149 + unitsF y * unitsF z) (2 ^ 149) ∧
     (unitsF y ≠ 0 → rounded32 rm (fdiv rm x y) (unitsF x * (unitsF y).sign * 2 ^ 149) (unitsF y).natAbs) ∧
     (unitsF y = 0 → unitsF x ≠ 0 → fdiv rm x y = (infF (signF x != signF y), flagDZ)) ∧
     (unitsF x + unitsF y = 0 → fadd rm x y = (zeroF (if isZeroF x && signF x == signF y then signF x else rm == 2), 0)) ∧
     (unitsF x - unitsF y = 0 → fsub rm x y = (zeroF (if isZeroF x && signF x != signF y then signF x else rm == 2), 0)) ∧
     (unitsF x * 2 ^ 149 + unitsF y * unitsF z = 0 → ffma rm x y z =
       (zeroF (if isZeroF x && (isZeroF y || isZeroF z) && signF x == (signF y != signF z) then signF x else rm == 2), 0)) ∧
     (0 < unitsF x → let r := unitsF (fsqrt rm x).1
       expF (fsqrt rm x).1 ≠ 255 ∧ 0 ≤ r ∧ (fsqrt rm x).2 = flagIf (r * r != unitsF x * 2 ^ 149) flagNX ∧
       ∀ w : F32, expF w ≠ 255 → 0 ≤ unitsF w → let q := unitsF w
         if rm = 0 then (q < r → (r + q) ^ 2 ≤ 4 * unitsF x * 2 ^ 149) ∧ (r < q → 4 * unitsF x * 2 ^ 149 ≤ (r + q) ^ 2)
         else if rm = 3 then unitsF x * 2 ^ 149 ≤ r * r ∧ (unitsF x * 2 ^ 149 ≤ q * q → r ≤ q)
         else r * r ≤ unitsF x * 2 ^ 149 ∧ (q * q ≤ unitsF x * 2 ^ 149 → q ≤ r)) ∧
     (unitsF x = 0 → fsqrt rm x = (x, 0)) ∧ (unitsF x < 0 → fsqrt rm x = (0x7FC00000, flagNV))) ∧
   ∀ (rm : BitVec 2) (i : Int), i.natAbs < 2 ^ 64 → rounded32 rm (ofInt rm i) (i * 2 ^ 149) 1 ∧ (i = 0 → ofInt rm i = (0, 0))) ∧
  ((∀ (rm : BitVec 2) (v : F32), (isNaN v = true → toInt64 rm v = (0, flagNV)) ∧
     (isInf v = true → toInt64 rm v = (if signF v then 0x8000000000000000 else 0x7FFFFFFFFFFFFFFF, flagNV)) ∧
     (expF v ≠ 255 → ∃ i : Int, roundsTo rm (fun _ => True) (i % 2 = 0) i (unitsF v) (2 ^ 149) ∧
       toInt64 rm v = if i ≥ 2 ^ 63 then (0x7FFFFFFFFFFFFFFF, flagNV) else if i < -2 ^ 63 then (0x8000000000000000, flagNV)
         else (BitVec.ofInt 64 i, flagIf (i * 2 ^ 149 != unitsF v) flagNX))) ∧
   (∀ v : F32, (isNaN v = true → toBF16 v = (0x7FC0, flagIf (isSNaN v) flagNV)) ∧ (isInf v = true → toBF16 v = (v.extractLsb' 16 16, 0)) ∧
     (expF v ≠ 255 → roundedTo 8 0 ((toBF16 v).1 ++ 0#16) (toBF16 v).2 (unitsF v) 1)) ∧
   (∀ L w f : Nat, 1 ≤ L → L + w = 6 → f < 2 ^ w → dl8Mag (128 - 2 ^ (7 - L) + f) * 2 ^ w = (2 ^ w + 9 * f) * 10 ^ (L - 1) * dl8Den ∧
     dl8Mag (2 ^ w + f) * 2 ^ w * 10 ^ L = (2 ^ w + 9 * f) * dl8Den) ∧
   (dl8Mag 0 = 0 ∧ dl8Mag 127 = 10 ^ 6 * dl8Den ∧ ofDL8 0x80 = 0x7FC00000 ∧ ∀ d : Byte, d ≠ 0x80 → ∃ f, roundedTo 24 0 (ofDL8 d) f (dl8Val d * 2 ^ 149) dl8Den) ∧
   (∀ x s : F32, (expF s = 255 ∨ unitsF s ≤ 0 ∨ expF x = 255 → toDL8 x s = (0x80, flagNV)) ∧
     (expF s ≠ 255 → 0 < unitsF s → expF x ≠ 255 →
       let n : Int := (unitsF x).natAbs
       let code (k : Nat) : Byte := if k = 0 then 0 else BitVec.ofNat 8 (k + if signF x then 128 else 0)
       (n > 10 ^ 6 * unitsF s → toDL8 x s = (code 127, flagOF ||| flagNX)) ∧
       (n ≤ 10 ^ 6 * unitsF s → ∃ k : Nat, k < 128 ∧
         roundsTo 0 (fun z => ∃ j < 128, z = dl8Mag j) (k % 2 = 0) (dl8Mag k) (n * dl8Den) (unitsF s) ∧
         toDL8 x s = (code k, flagIf (dl8Mag k * unitsF s != n * dl8Den) flagNX ||| flagIf (k == 0 && n != 0) flagUF)))) ∧
   (∀ xs : List F32, (xs.any (fun x => expF x == 255) = true → blockScale xs = (0x7FC00000, flagNV)) ∧
     (xs.any (fun x => expF x == 255) = false → ∀ m : Nat, (∀ x ∈ xs, (unitsF x).natAbs ≤ m) → (∃ x ∈ xs, (unitsF x).natAbs = m) →
       if m = 0 then blockScale xs = (0x3F800000, 0) else rounded32 0 (blockScale xs) (m * 32) 311)) ∧
   ∀ v q : Int, -2 ^ 63 ≤ v → v < 2 ^ 63 → -160 ≤ q → q ≤ 96 →
     rounded32 0 (q64ToFF v q) (v * 2 ^ (q + 160).toNat * 2 ^ 149) (2 ^ 160) ∧ (v = 0 → q64ToFF v q = (0, 0))) ∧
  (∀ (x y : F32), isNaN x = false → isNaN y = false →
     ((fmaxRule x y).1 = x ∨ (fmaxRule x y).1 = y) ∧ ((fminRule x y).1 = x ∨ (fminRule x y).1 = y) ∧
     (fmaxRule x y).2 = 0 ∧ (fminRule x y).2 = 0 ∧
     ltF (fmaxRule x y).1 x = false ∧ ltF (fmaxRule x y).1 y = false ∧ ltF x (fminRule x y).1 = false ∧ ltF y (fminRule x y).1 = false ∧
     fmaxRule 0 0x80000000 = (0, 0) ∧ fmaxRule 0x80000000 0 = (0, 0) ∧
     fminRule 0 0x80000000 = (0x80000000, 0) ∧ fminRule 0x80000000 0 = (0x80000000, 0)) ∧
  (∀ (v q : Int) (x : F32), -2 ^ 63 ≤ v → v < 2 ^ 63 → -160 ≤ q → q ≤ 96 →
     (isNaN x = true → q64Add v x q = (v, true)) ∧
     (isInf x = true → q64Add v x q = (if signF x then -2 ^ 63 else 2 ^ 63 - 1, true)) ∧
     (expF x ≠ 255 → ∃ r : Int, roundsTo 0 (fun _ => True) (r % 2 = 0) r (unitsF x * 2 ^ 200) (2 ^ (q + 200).toNat * 2 ^ 149) ∧
       q64Add v x q = if r ≥ 2 ^ 63 ∨ r < 2 ^ 63 ∧ -2 ^ 63 ≤ r ∧ v + r ≥ 2 ^ 63 then (2 ^ 63 - 1, true)
         else if r < -2 ^ 63 ∨ v + r < -2 ^ 63 then (-2 ^ 63, true) else (v + r, false)))

/-- R128, R133: each lane-wise instruction computes every lane of va on its own and raises the union of the lanes' flags; no other
vector register changes.

R115, R129 to R132: VBCAST fills every lane, VEXTR reads one lane, VINS replaces one lane, VSEL takes lane l of vb where bit l of
gc is 1, and VSUM and VMAXR combine the sixteen lanes in the fixed tree, the lower-numbered operand on the left. -/
def Obligations.VectorLanes : Prop :=
  ((∀ e ∈ ([(Instr.vadd, fadd), (Instr.vsub, fsub), (Instr.vmul, fmul), (Instr.vmin, fun _ => fminRule), (Instr.vmax, fun _ => fmaxRule),
       (Instr.viadd, fun _ x y => (x + y, 0))] : List ((Chain → VReg → VReg → VReg → Instr) × (BitVec 2 → F32 → F32 → FRes))),
     ∀ (c : Chain) (a b k : VReg) (s : State), guardOn c s.cpu.p = true → s.cpu.isRill = false →
       s.usable [] (if c.hasXR then [a, b, k] else [a, b]) = true → s.goodV (if c.hasXR then [b, k] else [a, b]) = true →
       let x := if c.hasXR then s.cpu.v[b.toNat] else s.cpu.v[a.toNat]
       let y := if c.hasXR then s.cpu.v[k.toNat] else s.cpu.v[b.toNat]
       ∃ (z : Vec) (f : Flags), exec (e.1 c a b k) s = .next (((s.raised f).writtenV a z).advance (e.1 c a b k).len) ∧
         (∀ l < 16, z.extractLsb' (32 * l) 32 = (e.2 s.cpu.rm (x.extractLsb' (32 * l) 32) (y.extractLsb' (32 * l) 32)).1) ∧
         ∀ j < 5, f.getLsbD j = (List.range 16).any fun l => (e.2 s.cpu.rm (x.extractLsb' (32 * l) 32) (y.extractLsb' (32 * l) 32)).2.getLsbD j) ∧
   (∀ (c : Chain) (a b k : VReg) (s : State), guardOn c s.cpu.p = true → s.cpu.isRill = false → s.usable [] [a, b, k] = true → s.goodV [a, b, k] = true →
       ∃ (z : Vec) (f : Flags), exec (.vfma c a b k) s = .next (((s.raised f).writtenV a z).advance (Instr.vfma c a b k).len) ∧
         (∀ l < 16, z.extractLsb' (32 * l) 32 = (ffma s.cpu.rm (s.cpu.v[a.toNat].extractLsb' (32 * l) 32)
           (s.cpu.v[b.toNat].extractLsb' (32 * l) 32) (s.cpu.v[k.toNat].extractLsb' (32 * l) 32)).1) ∧
         ∀ j < 5, f.getLsbD j = (List.range 16).any fun l => (ffma s.cpu.rm (s.cpu.v[a.toNat].extractLsb' (32 * l) 32)
           (s.cpu.v[b.toNat].extractLsb' (32 * l) 32) (s.cpu.v[k.toNat].extractLsb' (32 * l) 32)).2.getLsbD j) ∧
   (∀ e ∈ ([(Instr.vcvtBf16Fp32, fun x => ((toBF16 x).1.setWidth 32, (toBF16 x).2)), (Instr.vcvtFp32Bf16, fun x => ofBF16 (x.setWidth 16)),
       (Instr.vcvtDl8Fp32, fun x => ((toDL8 x 0x3F800000).1.setWidth 32, (toDL8 x 0x3F800000).2)),
       (Instr.vcvtFp32Dl8, fun x => (ofDL8 (x.setWidth 8), 0))] : List ((Chain → VReg → VReg → Instr) × (F32 → FRes))),
     ∀ (c : Chain) (a b : VReg) (s : State), guardOn c s.cpu.p = true → s.cpu.isRill = false → s.usable [] [a, b] = true → s.goodV [b] = true →
       ∃ (z : Vec) (f : Flags), exec (e.1 c a b) s = .next (((s.raised f).writtenV a z).advance (e.1 c a b).len) ∧
         (∀ l < 16, z.extractLsb' (32 * l) 32 = (e.2 (s.cpu.v[b.toNat].extractLsb' (32 * l) 32)).1) ∧
         ∀ j < 5, f.getLsbD j = (List.range 16).any fun l => (e.2 (s.cpu.v[b.toNat].extractLsb' (32 * l) 32)).2.getLsbD j)) ∧
  (∀ (c : Chain) (s : State), guardOn c s.cpu.p = true → s.cpu.isRill = false →
     (∀ (a : VReg) (b : Reg), s.usable [.rd b] [a] = true → ∃ z : Vec,
       exec (.vbcast c a b) s = .next (((s.popped b).writtenV a z).advance (Instr.vbcast c a b).len) ∧
       ∀ l < 16, z.extractLsb' (32 * l) 32 = (s.source b).extractLsb' 0 32) ∧
     (∀ (a : Reg) (b : VReg) (n : BitVec 4), s.usable [.wr a] [b] = true → s.goodV [b] = true →
       exec (.vextr c a b n) s = .next (s.result (.vextr c a b n) a ((s.cpu.v[b.toNat].extractLsb' (32 * n.toNat) 32).setWidth 64))) ∧
     (∀ (a : VReg) (b : Reg) (n : BitVec 4), s.usable [.rd b] [a] = true → s.goodV [a] = true → ∃ z : Vec,
       exec (.vins c a b n) s = .next (((s.popped b).writtenV a z).advance (Instr.vins c a b n).len) ∧
       ∀ l < 16, z.extractLsb' (32 * l) 32 = if l = n.toNat then (s.source b).extractLsb' 0 32 else s.cpu.v[a.toNat].extractLsb' (32 * l) 32) ∧
     (∀ (a b : VReg) (k : RegC), s.usable [.rd (wide k)] [a, b] = true → s.goodV [a, b] = true → ∃ z : Vec,
       exec (.vsel c a b k) s = .next ((s.writtenV a z).advance (Instr.vsel c a b k).len) ∧
       ∀ l < 16, z.extractLsb' (32 * l) 32 = if (s.source (wide k)).getLsbD l then s.cpu.v[b.toNat].extractLsb' (32 * l) 32
         else s.cpu.v[a.toNat].extractLsb' (32 * l) 32) ∧
     (∀ (a : Reg) (b : VReg), s.usable [.wr a] [b] = true → s.goodV [b] = true →
       ∀ e ∈ ([(Instr.vsum c a b, fadd s.cpu.rm), (Instr.vmaxr c a b, fmaxRule)] : List (Instr × (F32 → F32 → FRes))),
         let l (i : Nat) : F32 := s.cpu.v[b.toNat].extractLsb' (32 * i) 32
         let op (x y : F32) : F32 := (e.2 x y).1
         let pair (i : Nat) : F32 := op (l (2 * i)) (l (2 * i + 1))
         let four (i : Nat) : F32 := op (pair (2 * i)) (pair (2 * i + 1))
         ∃ f : Flags, exec e.1 s = .next ((s.raised f).result e.1 a ((op (op (four 0) (four 1)) (op (four 2) (four 3))).setWidth 64))))

/-! Barrier, end and fences (spec/04_thread_slots.md, spec/09_visibility.md). -/

/-- R90, R91: GBAR completes for every member once every live member has arrived, and at once in the sluice slot, with its acquire;
until then it parks, arrived, with no other effect. While an update of the thread waits at its home it stalls and has not arrived
(R291). A gang that spans more than one cluster acquires at device scope. Every acquire binds the member's later aged loads to what
its earlier ones have read (R215).

R66, R92, R93: END puts the slot in Draining, no live member from then on, and changes nothing else: the drain is left to
END_DRAIN_COMPLETE.

R53, R72 to R76, R88, R308, R411: MFS writes the special register to ga. A reserved number reads 0, and a number from 24 up can
be read at supervisor level only. CYCLE is the count at the issue (R53), GRAPHID reads 0 where TASKID has bit 63 set, as in the
sluice slot (R411), and reading BATCHNO acquires at device scope (R308).

R73, R89, R221, R360, R381, R491: MTS writes a read-write register, less its reserved bits; the numbers 24 and 25 and the reserved
numbers discard the write, and the numbers 26, 27, 29 and 30 are the context's; one that moves its tables does so while no walk for the
context is in progress. -/
def Obligations.ControlAndSpecial : Prop :=
  (∀ (c : Chain) (s : State), guardOn c s.cpu.p = true → s.cpu.isRill = false →
     (s.updating s.cpu.id = true → exec (.gbar c) s = .next { s with cpu := { s.cpu with
       state := .stalled, held := some (.gbar c), walks := s.used, since := if s.cpu.waiting then s.cpu.since else s.cycleOf s.cpu } }) ∧
     (s.updating s.cpu.id = false → s.cpu.isSluice = true → exec (.gbar c) s = .next ((s.advance (Instr.gbar c).len).acquiredAt .cluster)) ∧
     (s.updating s.cpu.id = false → s.cpu.isSluice = false → (∀ u ∈ s.fellows s.cpu, u.arrived = true) →
       ∃ t, exec (.gbar c) s = .next t ∧ t = { s with cpu := t.cpu, others := t.others, copies := t.copies } ∧
         t.cpu = { (s.advance (Instr.gbar c).len).cpu with homeCoh := t.cpu.homeCoh, front := s.cpu.heard } ∧
         t.cpu.homeCoh = (s.cpu.homeCoh || decide (spanOf s.cpu.size.toNat > 1)) ∧
         (spanOf s.cpu.size.toNat ≤ 1 → t.copies = s.copies) ∧ t.others.map Thread.id = s.others.map Thread.id ∧
         (∀ u ∈ s.fellows s.cpu, ∀ i : Instr, u.held = some i →
           ∃ w ∈ t.others, w.id = u.id ∧ w.pc = u.pc + BitVec.ofNat 64 i.len ∧ w.state = .ready ∧ w.arrived = false ∧ w.g = u.g) ∧
         ∀ u ∈ s.others, u.gang ≠ s.cpu.gang → u ∈ t.others) ∧
     (s.updating s.cpu.id = false → s.cpu.isSluice = false → (∃ u ∈ s.fellows s.cpu, u.arrived = false) →
       ∃ t, exec (.gbar c) s = .next { s with cpu := t } ∧ t.state = .parked ∧ t.arrived = true ∧ t.pc = s.cpu.pc ∧ t.g = s.cpu.g ∧
         t.v = s.cpu.v ∧ t.p = s.cpu.p)) ∧
  (∀ (c : Chain) (s : State), guardOn c s.cpu.p = true → s.cpu.isSluice = false → s.owesNote s.cpu = false →
     ∃ t, exec (.endThread c) s = .next t ∧
       t = { s with cpu := t.cpu, gangs := t.gangs, events := s.events ++ [.endDrainComplete s.cpu.id] } ∧
       t.cpu = { s.cpu with state := .draining, held := t.cpu.held, wake := .none, reply := .none, arrived := false, awaits := none, pins := [],
                            agedWait := none, walks := [], asked := none, ended := true, lastSealed := false, counted := 0 } ∧
       t.cpu.live = false ∧
       (∀ g ∈ t.gangs, g.id = s.cpu.gang → s.cpu.isRill = false → ∀ m ∈ g.members, m.slot = s.cpu.id → m.live = false)) ∧
  ((∀ e ∈ ([(0, fun s => s.cpu.iter.setWidth 64), (1, fun s => s.cpu.weirlim.setWidth 64), (2, fun s => s.cpu.tapeb), (3, fun s => s.cpu.tapel),
       (4, fun s => s.cpu.tapep), (5, fun s => s.cpu.dmode.setWidth 64), (6, fun s => s.cpu.trapvec), (7, fun s => s.cpu.trappc),
       (8, fun s => s.cpu.trapcause), (9, fun s => s.cpu.trapval), (10, fun s => s.cpu.fpcsr.setWidth 64),
       (11, fun s => BitVec.ofNat 64 s.cpu.id),
       (12, fun s => if s.cpu.isSluice then 0x2000000800 else BitVec.ofNat 64 (s.cpu.nvregs * 0x10000000000 + s.cpu.nregs * 0x100000000 +
         s.cpu.rank.toNat / 8 % spanOf s.cpu.size.toNat * 0x1000000 + (spanOf s.cpu.size.toNat - 1) * 0x400000 + s.cpu.size.toNat * 0x800 + s.cpu.rank.toNat)),
       (13, fun s => s.cpu.taskId),
       (14, fun s => if s.cpu.taskId.getLsbD 63 then 0 else
         s.cpu.graphno.setWidth 64 ||| if s.cancelled s.cpu.tenant s.cpu.graphno then 0x8000000000000000 else 0),
       (15, fun s => BitVec.ofNat 64 (if s.cpu.waiting then s.cpu.since else s.cycleOf s.cpu)), (16, fun _ => 0x10402020), (17, fun s => s.cpu.rgspan), (19, fun s => s.cpu.cbdesc),
       (20, fun _ => 0), (21, fun _ => 0), (22, fun _ => 0), (23, fun _ => 0),
       (24, fun s => BitVec.ofNat 64 s.cpu.ctx), (25, fun s => BitVec.ofNat 64 s.cpu.tenant), (26, fun s => (s.contextD s.cpu.ctx).pageroot),
       (27, fun s => (s.contextD s.cpu.ctx).regiontab), (28, fun s => s.cpu.savearea), (29, fun s => (s.contextD s.cpu.ctx).hctx),
       (30, fun s => (s.contextD s.cpu.ctx).supvec), (31, fun s => s.cpu.monctl)] : List (BitVec 5 × (State → Word))),
     ∀ (c : Chain) (a : Reg) (s : State), guardOn c s.cpu.p = true → (s.cpu.isRill = false ∨ e.1 ∈ [11#5, 13#5, 14#5, 15#5, 16#5]) →
       (24 ≤ e.1.toNat → s.cpu.sup = true) → s.usable [.wr a] [] = true →
       exec (.mfs c a e.1) s = .next (s.result (.mfs c a e.1) a (e.2 s))) ∧
   (∀ (c : Chain) (a : Reg) (s : State), guardOn c s.cpu.p = true → s.cpu.isRill = false → s.usable [.wr a] [] = true →
     ∃ t, exec (.mfs c a 18) s = .next t ∧
       t = { s.result (.mfs c a 18) a s.cpu.batch.batchNo with cpu := t.cpu, copies := t.copies } ∧
       t.cpu = { (s.result (.mfs c a 18) a s.cpu.batch.batchNo).cpu with homeCoh := true, front := s.cpu.heard })) ∧
  ((∀ e ∈ ([(0, fun t x => { t with iter := x.setWidth 32 }), (1, fun t x => { t with weirlim := x.setWidth 32 }),
       (2, fun t x => { t with tapeb := x &&& 0x03FFFFFFFFFFFFF0 }), (3, fun t x => { t with tapel := x &&& 0x03FFFFFFFFFFFFF0 }),
       (4, fun t x => { t with tapep := x &&& 0x03FFFFFFFFFFFFF0 }), (6, fun t x => { t with trapvec := x }),
       (7, fun t x => { t with trappc := x }),
       (8, fun t x => { t with trapcause := (t.trapcause &&& 0x00000000FFFFF000) ||| (x &&& 0xFFFFFFFF00000FFF) }),
       (9, fun t x => { t with trapval := x }), (10, fun t x => { t with fpcsr := x.setWidth 7 }),
       (17, fun t x => { t with rgspan := x &&& 0xFFFFFFFF }), (19, fun t x => { t with cbdesc := x &&& 0x03FFFFFFFFFFFFC0 }),
       (20, fun t _ => t), (21, fun t _ => t), (22, fun t _ => t), (23, fun t _ => t), (24, fun t _ => t), (25, fun t _ => t),
       (28, fun t x => { t with savearea := x }), (31, fun t x => { t with monctl := x })] : List (BitVec 5 × (Thread → Word → Thread))),
     ∀ (c : Chain) (a : Reg) (s : State), guardOn c s.cpu.p = true → s.cpu.isRill = false → (24 ≤ e.1.toNat → s.cpu.sup = true) →
       s.usable [.rd a] [] = true →
       exec (.mts c a e.1) s = .next (({ s.popped a with cpu := e.2 (s.popped a).cpu (s.source a) } : State).advance (Instr.mts c a e.1).len)) ∧
   (∀ e ∈ ([(26, fun k x => { k with pageroot := x &&& 0x000FFFFFFFFFC000 }), (27, fun k x => { k with regiontab := x &&& 0x000FFFFFFFFFF800 }),
       (29, fun k x => { k with hctx := x &&& 0xDFFFFF }), (30, fun k x => { k with supvec := x &&& 0x000FFFFFFFFF0000 })] :
       List (BitVec 5 × (Context → Word → Context))),
     ∀ (c : Chain) (a : Reg) (s : State) (k : Context), guardOn c s.cpu.p = true → s.cpu.isRill = false → s.cpu.sup = true →
       s.context? s.cpu.ctx = some k → s.usable [.rd a] [] = true → (e.1 ∈ [26#5, 27#5] → s.walking s.cpu.ctx = false) →
       ∃ t, exec (.mts c a e.1) s = .next t ∧ t = { (s.popped a).advance (Instr.mts c a e.1).len with contexts := t.contexts } ∧
         t.context? s.cpu.ctx = some (e.2 k (s.source a)) ∧ ∀ n, n ≠ s.cpu.ctx → t.context? n = s.context? n))

/-- R181, R217 to R219: a fence goes on; one of kind acq or full at device scope or wider, and at any scope in a rill (R197), drops the
die's untracked copies and makes the thread's later reads home-coherent (R205). One that releases goes on once nothing is owed to the
thread (R212, R229, R433), and makes its later writes release writes at that scope (R202). FENCE.ifetch leaves the instruction caches
of its scope empty (R219).
What a release waits for is the model's choice (notes/assumptions/5.md).

R166 to R168: at supervisor level TLBINV drops the leaves of the thread's context that hold G(a), all of them, or those of region
G(a)[5:0], from the last-level TLB and every micro-TLB, and no entry of another context, when no walk for the
context and no write of it is under way, nor an access that was translated with one of them (R167, R304). It acquires at device scope. -/
def Obligations.Fences : Prop :=
  (∀ (c : Chain) (sc : Scope) (s : State), guardOn c s.cpu.p = true →
     (∀ i ∈ [Instr.fenceFull c sc, Instr.fenceAcq c sc], s.releaseFree sc = true ∨ i = .fenceAcq c sc →
       ∃ t, exec i s = .next t ∧ t = { (s.advance i.len).acquiredAt sc with cpu := t.cpu, copies := t.copies } ∧
         t.cpu = { ((s.advance i.len).acquiredAt sc).cpu with relScope := if i = .fenceAcq c sc then s.cpu.relScope else (s.cpu.fenced sc).relScope } ∧
         (∀ k ∈ t.copies, k ∈ s.copies) ∧
         ((scopeRank sc ≥ 2 ∨ s.cpu.isRill = true) → ∀ k ∈ t.copies, k.die = s.cpu.die → k.stamp.isSome = true) ∧
         (∀ k ∈ s.copies, k.die ≠ s.cpu.die ∨ scopeRank sc < 2 ∧ s.cpu.isRill = false → k ∈ t.copies)) ∧
     (s.releaseFree sc = true →
       exec (.fenceRel c sc) s = .next (({ s with cpu := s.cpu.fenced sc } : State).advance (Instr.fenceRel c sc).len) ∧
       (fetchScope sc = true → ∃ t, exec (.fenceIfetch c sc) s = .next t ∧
         t = { (({ s with cpu := s.cpu.fenced sc } : State).advance (Instr.fenceIfetch c sc).len) with cores := t.cores } ∧
         ∀ k, t.core k = if sc = .core ∧ s.cpu.isRill = false ∧ k ≠ s.cpu.coreId ∨ sc = .cluster ∧ s.cpu.isRill = false ∧ k / 8 ≠ s.cpu.clusterId
           then s.core k else { s.core k with icache := [] })) ∧
     ∀ w : Scope, (s.cpu.fenced sc).relScope = some w → scopeRank sc ≤ scopeRank w ∧ ∀ v, s.cpu.relScope = some v → scopeRank v ≤ scopeRank w) ∧
  (∀ (c : Chain) (a : Reg) (s : State), guardOn c s.cpu.p = true → s.cpu.isRill = false → s.cpu.sup = true →
     ∀ f ∈ ([(Instr.tlbinvVa c a, fun e => e.covers (s.source a).toNat), (Instr.tlbinvCtx c, fun _ => true),
         (Instr.tlbinvReg c a, fun e => e.regionIdx == (s.source a).toNat % 64)] : List (Instr × (TlbEntry → Bool))),
       s.usable [.rd a] [] = true → s.updating s.cpu.id = false → s.walking s.cpu.ctx = false → s.onItsWay s.cpu.ctx = false →
       s.carries (fun e => e.ctx == s.cpu.ctx && f.2 e) = false →
       ∃ t, exec f.1 s = .next t ∧
         t = { (((if f.1 = .tlbinvCtx c then s else s.popped a).advance f.1.len).acquiredAt .device) with tlb := t.tlb, copies := t.copies, cores := t.cores } ∧
         (∀ k ∈ t.copies, k.die = s.cpu.die → k.stamp.isSome = true) ∧
         (∀ k, t.core k = { s.core k with micro := (s.core k).micro.filter (fun e => !(e.ctx == s.cpu.ctx && f.2 e))
                                          microI := (s.core k).microI.filter fun e => !(e.ctx == s.cpu.ctx && f.2 e) }) ∧
         ∀ e, e ∈ t.tlb ↔ e ∈ s.tlb ∧ (e.ctx = s.cpu.ctx → f.2 e = false))

/-! Special registers and translations (spec/04_thread_slots.md, spec/07_address_space.md). -/

/-- R39, R72, R168, R283: an instruction for supervisor level traps PRIV at user level and one that no rill may execute traps RILLOP in
a rill, whatever its registers hold, with TRAPVAL the base word: in a rill, every well-formed instruction but those that R283 lists. -/
def Obligations.PrivilegeTraps : Prop :=
  ∀ (c : Chain) (a : Reg) (s : State), guardOn c s.cpu.p = true →
    (s.cpu.isRill = false → s.cpu.sup = false →
      (∀ i ∈ [Instr.tlbinvVa c a, .tlbinvCtx c, .tlbinvReg c a],
        exec i s = .next (takeTrap s 0x03 (i.baseWord.setWidth 64) 0 i.len)) ∧
      (∀ k : BitVec 5, 24 ≤ k.toNat →
        exec (.mfs c a k) s = .next (takeTrap s 0x03 ((Instr.mfs c a k).baseWord.setWidth 64) 0 (Instr.mfs c a k).len) ∧
        exec (.mts c a k) s = .next (takeTrap s 0x03 ((Instr.mts c a k).baseWord.setWidth 64) 0 (Instr.mts c a k).len))) ∧
    (s.cpu.isRill = true → ∀ i : Instr, WellFormed i = true → guardOn i.chain s.cpu.p = true → rillMay i = false →
      exec i s = .next (takeTrap s 0x17 (i.baseWord.setWidth 64) 0 i.len))

/-! Aged regions (spec/11_aged_regions.md). -/

/-- R246 to R248, R260: while the home's state of the grain is accepted, LDAW and LDAT complete with the word and the age of one
accepted state: the home's, or that of a copy which the core or the die's remote partition holds and which R215 still lets the
thread read at an address that depends as gb does (R201). The word is zero-extended to ga, the age sign-extended to gc, and only
caches, the thread's weir entries and what it knows of the grain change besides. Whether a copy is still held is free
(notes/assumptions/4.md); what a thread knows is the model's record (notes/assumptions/46.md).

R261: with every grain of its 64 bytes accepted at home and no copy held, VLDA fills va from the homes, and gc with the greatest
of the grains' ages.

R249 to R252: when no state is accepted and no copy is held, LDAT traps STALE with the grain's VA and the home's stamp, and LDAW
parks with a weir entry for the least stamp it accepts, while the slice has an entry free that no ticket reserves, and with a refused
request otherwise (R177); nothing else changes.
What a wait leaves is the model's reading (notes/assumptions/13.md). -/
def Obligations.AgedLoads : Prop :=
  (∀ (c : Chain) (a b : Reg) (k : RegC) (off : Word) (lag : BitVec 5) (s : State) (x : Xlat),
     (k = 0 ∨ a ≠ wide k) → ∀ i ∈ [Instr.ldaw c a b k off lag, .ldat c a b k off lag],
     let ea := s.source b + off
     let home := grainOf x.entry x.pa
     guardOn c s.cpu.p = true → s.cpu.isRill = false → s.usable (agedUses [.wr a, .rd b] k) [] = true → ea.toNat % 4 = 0 →
     s.cpu.agedWait = none →
     (s.popped b).pageAt ea true false = some x → x.agedPage = true → s.rangesFree [agedPlace x ea 4] false = true →
     acceptsAge s.cpu.iter (s.stampOf home x.entry.basestamp) lag = true →
     s.testing x.pa 4 = false →
     (∀ n ∈ s.bad, 32 * n + 32 ≤ home ∨ home + x.entry.grain ≤ 32 * n) → (∀ q ∈ s.copies, q.home = home → q.bad = []) →
     ∃ (g : Grain) (t : State), exec i s = .next t ∧
       (g = s.homeGrain x.entry home ∨ ∃ q ∈ s.copies, q.holder ∈ [s.cpu.coreId, 4096 + s.cpu.die] ∧ q.home = home ∧ q.stamp = some g.stamp ∧
         g = q.grain ∧ s.cpu.mayRead (s.cpu.depsOf b.toNat) q = true) ∧
       acceptsAge s.cpu.iter g.stamp lag = true ∧
       (({ ((({ s.popped b with cpu := (s.popped b).cpu.reads g } : State).written a (BitVec.ofNat 64 (leNat ((g.data.drop (x.pa - home)).take 4)))).writtenC k
           ((s.cpu.iter - g.stamp).signExtend 64)) with weir := s.weir.filter fun w => w.slot != s.cpu.id } : State).advance i.len).onlyCaches t) ∧
  (∀ (c : Chain) (a : VReg) (b : Reg) (k : RegC) (off : Word) (lag : BitVec 5) (s : State) (x : Xlat),
     let ea := s.source b + off
     let i := Instr.vlda c a b k off lag
     guardOn c s.cpu.p = true → s.cpu.isRill = false → s.usable (agedUses [.rd b] k) [a] = true → ea.toNat % 64 = 0 →
     s.cpu.agedWait = none →
     (s.popped b).pageAt ea true false = some x → x.agedPage = true → s.rangesFree [agedPlace x ea 64] false = true →
     (∀ j < 64, acceptsAge s.cpu.iter (s.stampOf (grainOf x.entry (x.pa + j)) x.entry.basestamp) lag = true) → s.bad = [] →
     s.copies = [] → (∀ g ∈ vectorGrains x.entry, s.testing (x.pa + g.1) g.2 = false) →
     ∃ (age : Int) (t : State), exec i s = .next t ∧
       (∀ j < 64, (s.cpu.iter - s.stampOf (grainOf x.entry (x.pa + j)) x.entry.basestamp).toInt ≤ age) ∧
       (∃ j < 64, (s.cpu.iter - s.stampOf (grainOf x.entry (x.pa + j)) x.entry.basestamp).toInt = age) ∧
       (({ (({ s.popped b with cpu := { (s.popped b).cpu with seen := t.cpu.seen, heard := t.cpu.heard, got := t.cpu.got } } : State).writtenV a
             (ofVecBytes (Memory.reads s.mem x.pa 64))).writtenC k (BitVec.ofInt 64 age) with
           weir := s.weir.filter fun w => w.slot != s.cpu.id } : State).advance i.len).onlyCaches t) ∧
  (∀ (c : Chain) (a b : Reg) (k : RegC) (off : Word) (lag : BitVec 5) (s : State) (x : Xlat),
     let ea := s.source b + off
     let home := grainOf x.entry x.pa
     guardOn c s.cpu.p = true → s.cpu.isRill = false → s.usable (agedUses [.wr a, .rd b] k) [] = true → ea.toNat % 4 = 0 →
     s.cpu.agedWait = none →
     (s.popped b).pageAt ea true false = some x → x.agedPage = true → s.rangesFree [agedPlace x ea 4] false = true →
     acceptsAge s.cpu.iter (s.stampOf home x.entry.basestamp) lag = false → (∀ q ∈ s.copies, q.home ≠ home ∨ q.stamp = none) →
     s.testing x.pa 4 = false →
     exec (.ldat c a b k off lag) s = .next (takeTrap s 0x08 (BitVec.ofNat 64 (ea.toNat / x.entry.grain * x.entry.grain))
       (s.stampOf home x.entry.basestamp) (Instr.ldat c a b k off lag).len) ∧
     (s.cpu.wake = .none → ∃ t, exec (.ldaw c a b k off lag) s = .next t ∧ t = { s with cpu := t.cpu, weir := t.weir, refused := t.refused } ∧
       t.cpu = { s.cpu with state := .parked, held := t.cpu.held, since := t.cpu.since, walks := [],
                            agedWait := some { entry := x.entry, got := none, served := none } } ∧
       (∀ w ∈ s.weir, w ∈ t.weir) ∧
       let room := decide ((s.weir.filter fun w => w.slice == sliceOf home).length < 256) && s.mayServe s.cpu.id (.weir (sliceOf home))
       (room = true → ∃ w ∈ t.weir, w.slot = s.cpu.id ∧ w.grain = home ∧
         ((∀ w ∈ s.weir, w.slot ≠ s.cpu.id) → w.least = s.cpu.iter - lag.setWidth 32)) ∧
       (room = false → (∀ w ∈ s.weir, w.slot ≠ s.cpu.id) → t.weir = s.weir ∧ ∃ r ∈ t.refused, r.slot = s.cpu.id ∧ r.want = .weir (sliceOf home))))

/-- R254, R262: STA and VSTA go on. In each grain they cover, a stamp newer than ITER discards the bytes and is counted; otherwise the
bytes are written, the stamp becomes ITER, and every waiter of the grain that it serves leaves the weir. No other byte changes.

R263: ITADV adds n to ITER, modulo 2^32. -/
def Obligations.AgedStores : Prop :=
  ((∀ (c : Chain) (a b : Reg) (off : Word) (s : State) (x : Xlat), let ea := (s.sources a b).2 + off
     guardOn c s.cpu.p = true → s.cpu.isRill = false → s.usable [.rd a, .rd b] [] = true → ea.toNat % 4 = 0 →
     (s.popped2 a b).pageAt ea false true = some x → x.agedPage = true → s.rangesFree [agedPlace x ea 4] true = true →
     s.modeFree MemMode.none = true → s.hostFree x.pa 4 = true → s.testing x.pa 4 = false →
     ∃ t, exec (.sta c a b off) s = .next t ∧ t.cpu = { ((s.popped2 a b).advance (Instr.sta c a b off).len).cpu with seen := t.cpu.seen } ∧
       s.agedStored t x.entry x.pa (leBytes 4 (s.sources a b).1.toNat)) ∧
   (∀ (c : Chain) (a : VReg) (b : Reg) (off : Word) (s : State) (x : Xlat), let ea := s.source b + off
     guardOn c s.cpu.p = true → s.cpu.isRill = false → s.usable [.rd b] [a] = true → s.goodV [a] = true → ea.toNat % 64 = 0 →
     (s.popped b).pageAt ea false true = some x → x.agedPage = true → s.rangesFree [agedPlace x ea 64] true = true →
     s.modeFree MemMode.none = true → s.hostFree x.pa 64 = true → (∀ g ∈ vectorGrains x.entry, s.testing (x.pa + g.1) g.2 = false) →
     ∃ t, exec (.vsta c a b off) s = .next t ∧ t.cpu = { ((s.popped b).advance (Instr.vsta c a b off).len).cpu with seen := t.cpu.seen } ∧
       s.agedStored t x.entry x.pa (vecBytes s.cpu.v[a.toNat]))) ∧
  (∀ (c : Chain) (n : BitVec 5) (s : State), n ≠ 0 → guardOn c s.cpu.p = true → s.cpu.isRill = false →
     exec (.itadv c n) s = .next ({ s with cpu := { s.cpu with iter := s.cpu.iter + n.setWidth 32 } }.advance (Instr.itadv c n).len))

/-! Differentiable regions (spec/17_differentiable_regions.md). -/

/-- R370, R372, R373: DMODE sets the mode and is a full fence at device scope; ADJRD reads the shadow cell of an element as FP32
into ga and raises the flags of the conversion (R97); ADJWR sets the cell to the Q64 rounding of G(a)[31:0], leaves it for a NaN,
and sets OVF (bit 15 of doubleword 0 of the region entry, R151, R154) when the value saturates or is a NaN. That ADJWR raises no
flag is the model's choice (notes/assumptions/57.md).

R361 to R363: in mode 1 a store of an element pushes one entry, of kind 4 for an INT64 page and of kind 0 otherwise, that holds
the element's VA and its old bytes, moves TAPEP by 16, and writes the element. The tag's width field is the model's reading
(notes/assumptions/31.md), and that the entry lies in its page also where a window covers it (notes/assumptions/51.md).

R364, R365, R367: in mode 2 a load of an element of a floating class hands register a's value to its shadow cell as an update,
and the register becomes 0; a store pops the newest entry, writes its old bytes back, and for a floating class clears the cell and
adds its value into register a. An empty tape traps TAPEEMPTY, an entry of another kind, address, width or region TAPEMISMATCH, a
cell at a bound ADJOVF, and a flume port as a floating class's register REGRANGE, with no other effect. The update is applied in the
step (notes/assumptions/5.md).

R366: in mode 2 VLD of an FP32 page hands each lane to its cell and leaves 0; VST pops an entry of 80 bytes, writes its 64 old
bytes back, and for FP32 clears the sixteen cells and adds each into its lane, or traps ADJOVF at the first element whose cell is at
a bound. A first cell at no multiple of 128, or a BF16 page, traps REGION before. That the cells are read one by one is the model's
(notes/assumptions/51.md). -/
def Obligations.Adjoint : Prop :=
  (∀ (c : Chain) (s : State), guardOn c s.cpu.p = true → s.cpu.isRill = false →
     (s.updating s.cpu.id = false → ∀ n ≠ 3, ∃ t, exec (.dmode c n) s = .next t ∧
       t = { (({ s with cpu := { s.cpu.fenced .device with dmode := n, homeCoh := true, front := s.cpu.heard } } : State).advance (Instr.dmode c n).len) with copies := t.copies } ∧
       ∀ k ∈ t.copies, k.die = s.cpu.die → k.stamp.isSome = true) ∧
     (∀ (a b : Reg) (off : Word) (mm : MemMode) (x y : Xlat), let ea := s.source b + off
       s.usable [.wr a, .rd b] [] = true → (s.popped b).pageAt ea true false = some x → x.element ea = true → x.entry.cls ≤ 1 →
       ((s.popped b).cached x).pageAt (cellVa x.entry ea) true false = some y → y.plainDevice = true →
       s.rangesFree [cellPlace y 8] false = true → s.volatileFree mm = true → s.badAt y.pa 8 = false → s.testing y.pa 8 = false → s.owedAt y.pa 8 = false →
       let r := q64ToFF (s.signedAt y.pa) x.entry.q
       ∃ t, exec (.adjrd c a b off mm) s = .next t ∧ ((((s.popped b).raised r.2).result (.adjrd c a b off mm) a (r.1.setWidth 64)).acquired mm).onlyCaches t) ∧
     (∀ (a b : Reg) (off : Word) (mm : MemMode) (x y : Xlat), let ea := (s.sources a b).2 + off
       let f : F32 := (s.sources a b).1.setWidth 32
       let ovf := regionAt (s.contextD s.cpu.ctx) x.entry.regionIdx + 1
       s.usable [.rd a, .rd b] [] = true → (s.popped2 a b).pageAt ea true false = some x → x.element ea = true → x.entry.cls ≤ 1 →
       ((s.popped2 a b).cached x).pageAt (cellVa x.entry ea) false true = some y → y.plainDevice = true →
       s.rangesFree [cellPlace y 8] true = true → s.modeFree mm = true → s.hostFree y.pa 8 = true → s.hostFree ovf 1 = true → s.testing y.pa 8 = false → s.testing ovf 1 = false →
       ∃ t, exec (.adjwr c a b off mm) s = .next t ∧ t.cpu = ((s.popped2 a b).advance (Instr.adjwr c a b off mm).len).cpu ∧
         (∀ q, (q < y.pa ∨ y.pa + 8 ≤ q) → q ≠ ovf → Memory.lookup t.mem q = Memory.lookup s.mem q) ∧
         ((q64Add 0 f x.entry.q).2 = true → (Memory.lookup t.mem ovf).getLsbD 7 = true) ∧
         ((q64Add 0 f x.entry.q).2 = false ∨ ovf < y.pa ∨ y.pa + 8 ≤ ovf →
           t.signedAt y.pa = if isNaN f then s.signedAt y.pa else (q64Add 0 f x.entry.q).1))) ∧
  (∀ e ∈ ([(Instr.sth, 2), (Instr.stw, 4), (Instr.std, 8)] : List ((Chain → Reg → Reg → Word → MemMode → Instr) × Nat)),
   ∀ (c : Chain) (a b : Reg) (off : Word) (mm : MemMode) (s : State) (x y : Xlat),
     let ea := (s.sources a b).2 + off
     let i := e.1 c a b off mm
     let z := if e.2 = 8 then 4 else 0
     guardOn c s.cpu.p = true → s.cpu.isRill = false → s.cpu.dmode = 1 → s.usable [.rd a, .rd b] [] = true → ea.toNat % e.2 = 0 →
     (s.popped2 a b).goesTo ea false true x = true → x.element ea = true → x.entry.elemWidth = e.2 →
     s.rangesFree [x.place ea e.2] true = true → s.modeFree mm = true → s.cpu.tapep.toNat + 16 ≤ s.cpu.tapel.toNat →
     ((s.popped2 a b).cached x).pageAt s.cpu.tapep true true = some y → y.plainDevice = true →
     s.rangesFree [y.place s.cpu.tapep 16] true = true → s.readable (x.place ea e.2) MemMode.none = true →
     s.storable x e.2 = true → s.storable y 16 = true → (x.key + e.2 ≤ y.key ∨ y.key + 16 ≤ x.key) →
     ∃ t, exec i s = .next t ∧
       t.cpu = { ((s.popped2 a b).advance i.len).cpu with tapep := s.cpu.tapep + 16 } ∧
       Memory.reads t.mem x.key e.2 = leBytes e.2 (s.sources a b).1.toNat ∧
       Memory.reads t.mem y.key 8 = leBytes 8 (z * 2 ^ 58 + ea.toNat) ∧
       Memory.reads t.mem (y.key + 8) e.2 = Memory.reads s.mem x.key e.2 ∧
       (e.2 ≠ 8 → Memory.reads t.mem (y.key + 12) 4 = leBytes 4 (e.2 + x.entry.regionIdx * 2 ^ 8)) ∧
       ∀ q, (q < x.key ∨ x.key + e.2 ≤ q) → (q < y.key ∨ y.key + 16 ≤ q) → Memory.lookup t.mem q = Memory.lookup s.mem q) ∧
  (∀ (c : Chain) (a b : Reg) (off : Word) (mm : MemMode) (s : State) (x : Xlat), guardOn c s.cpu.p = true → s.cpu.isRill = false → s.cpu.dmode = 2 →
     (∀ e ∈ [(Instr.ldh c a b off mm, 2), (Instr.ldw c a b off mm, 4)],
       let ea := s.source b + off
       let ovf := regionAt (s.contextD s.cpu.ctx) x.entry.regionIdx + 1
       s.usable [.wr a, .rd b] [] = true → s.goodG [a.toNat] = true → ea.toNat % e.2 = 0 → (s.popped b).goesTo ea true false x = true →
       x.element ea = true → x.entry.elemWidth = e.2 → x.entry.cls ≤ 1 →
       (a = 127 → exec e.1 s = .next (takeTrap s 0x02 127 0 e.1.len)) ∧
       ∀ y, a ≠ 127 → ((s.popped b).cached x).pageAt (cellVa x.entry ea) false true = some y → y.plainDevice = true →
         s.rangesFree [cellPlace y 8] true = true → s.modeFree MemMode.none = true → s.hostFree y.pa 8 = true → s.hostFree ovf 1 = true →
         s.badAt y.pa 8 = false → s.testing y.pa 8 = false → (ovf < y.pa ∨ y.pa + 8 ≤ ovf) →
         let r := q64Add (s.signedAt y.pa) ((s.source a).setWidth 32) x.entry.q
         ∃ t, exec e.1 s = .next t ∧ t.cpu = ((s.popped b).result e.1 a 0).cpu ∧ t.signedAt y.pa = r.1 ∧
           (r.2 = true → (Memory.lookup t.mem ovf).getLsbD 7 = true) ∧
           ∀ q, (q < y.pa ∨ y.pa + 8 ≤ q) → (r.2 = false ∨ q ≠ ovf) → Memory.lookup t.mem q = Memory.lookup s.mem q) ∧
     ∀ e ∈ [(Instr.sth c a b off mm, 2, 0), (Instr.stw c a b off mm, 4, 0), (Instr.std c a b off mm, 8, 4)],
       let ea := (s.sources a b).2 + off
       let u := (s.popped2 a b).cached x
       let p := s.cpu.tapep - 16
       let place := x.place ea e.2.1
       s.usable [.rd a, .rd b] [] = true → ea.toNat % e.2.1 = 0 → (s.popped2 a b).goesTo ea false true x = true → x.element ea = true →
       x.entry.elemWidth = e.2.1 → s.rangesFree [place] true = true → s.modeFree mm = true →
       (x.entry.cls ≤ 1 → a = 126 → exec e.1 s = .next (takeTrap s 0x02 126 0 e.1.len)) ∧
       ((x.entry.cls ≤ 1 → a ≠ 126) →
         (s.cpu.tapep.toNat < s.cpu.tapeb.toNat + 16 → exec e.1 s = .next (takeTrap s 0x0A s.cpu.tapep 0 e.1.len)) ∧
         ∀ z, s.cpu.tapeb.toNat + 16 ≤ s.cpu.tapep.toNat → u.pageAt p true true = some z → z.plainDevice = true →
           s.rangesFree [z.place p 16] false = true → s.readable (z.place p 16) MemMode.none = true →
           let en := s.bytesAt (z.place p 16)
           let tag := leNat (en.drop 12)
           let old := (en.drop 8).take e.2.1
           let fits : Prop := leNat (en.take 8) = e.2.2 * 2 ^ 58 + ea.toNat ∧ (e.2.1 = 8 ∨ tag % 2 ^ 8 = e.2.1 ∧ tag / 2 ^ 8 % 64 = x.entry.regionIdx)
           (¬ fits → exec e.1 s = .next (takeTrap s 0x0B ea (BitVec.ofNat 32 (leNat (en.take 8))) e.1.len)) ∧
           (fits → 2 ≤ x.entry.cls → s.storable x e.2.1 = true → ∃ t, exec e.1 s = .next t ∧
             t.cpu = { ((s.popped2 a b).advance e.1.len).cpu with tapep := p } ∧
             ∀ q, Memory.lookup t.mem q = Memory.lookup (s.storedAt place old).mem q) ∧
           ∀ y, fits → x.entry.cls ≤ 1 → s.myCore.streams = [] → (u.cached z).pageAt (cellVa x.entry ea) true true = some y → y.plainDevice = true →
             s.rangesFree [cellPlace y 8] true = true → s.badAt y.pa 8 = false → s.testing y.pa 8 = false → s.owedAt y.pa 8 = false →
             let v := s.signedAt y.pa
             (v = 2 ^ 63 - 1 ∨ v = -2 ^ 63 → exec e.1 s = .next (takeTrap s 0x0C ea (BitVec.ofNat 32 x.entry.regionIdx) e.1.len)) ∧
             (v ≠ 2 ^ 63 - 1 → v ≠ -2 ^ 63 → s.hostFree y.pa 8 = true → s.storable x e.2.1 = true → ∃ t, exec e.1 s = .next t ∧
               t.cpu = { ((s.popped2 a b).result e.1 a ((fadd 0 ((s.sources a b).1.setWidth 32) (q64ToF v x.entry.q)).1.setWidth 64)).cpu with tapep := p } ∧
               ∀ q, Memory.lookup t.mem q = Memory.lookup ((s.homeWrite y.pa (leBytes 8 0)).storedAt place old).mem q))) ∧
  (∀ (c : Chain) (a : VReg) (b : Reg) (off : Word) (mm : MemMode) (s : State) (x z : Xlat),
     let ea := s.source b + off
     let u := ((s.popped b).cached x).cached z
     let ps := [x.place ea 32, z.place (ea + 32) 32]
     let shut : Prop := x.entry.cls = 1 ∨ x.entry.cls = 0 ∧ (cellVa x.entry ea).toNat % 128 ≠ 0
     let lane (j : Nat) : F32 := s.cpu.v[a.toNat].extractLsb' (32 * j) 32
     let region (i : Instr) : Prop := exec i s = .next (takeTrap s 0x07 ea (BitVec.ofNat 32 x.entry.regionIdx) i.len)
     guardOn c s.cpu.p = true → s.cpu.isRill = false → s.cpu.dmode = 2 → s.usable [.rd b] [a] = true → s.goodV [a] = true → ea.toNat % 64 = 0 →
     x.element ea = true →
     (let i := Instr.vld c a b off mm
       let ovf := regionAt (s.contextD s.cpu.ctx) x.entry.regionIdx + 1
       (s.popped b).goesTo ea true false x = true → ((s.popped b).cached x).goesTo (ea + 32) true false z = true → x.entry.cls ≤ 1 →
       (shut → region i) ∧
       ∀ y, ¬ shut → u.pageAt (cellVa x.entry ea) false true = some y → y.plainDevice = true → s.rangesFree [cellPlace y 128] true = true →
         s.modeFree MemMode.none = true → s.hostFree y.pa 128 = true → s.hostFree ovf 1 = true → s.badAt y.pa 128 = false → s.testing y.pa 128 = false →
         (ovf < y.pa ∨ y.pa + 128 ≤ ovf) →
         let r (j : Nat) := q64Add (s.signedAt (y.pa + 8 * j)) (lane j) x.entry.q
         ∃ t, exec i s = .next t ∧ t.cpu = (((s.popped b).writtenV a 0).advance i.len).cpu ∧ (∀ j < 16, t.signedAt (y.pa + 8 * j) = (r j).1) ∧
           (∀ j < 16, (r j).2 = true → (Memory.lookup t.mem ovf).getLsbD 7 = true) ∧
           ∀ q, (q < y.pa ∨ y.pa + 128 ≤ q) → q ≠ ovf → Memory.lookup t.mem q = Memory.lookup s.mem q) ∧
     (let i := Instr.vst c a b off mm
       let p := s.cpu.tapep - 80
       (s.popped b).goesTo ea false true x = true → ((s.popped b).cached x).goesTo (ea + 32) false true z = true →
       (shut → region i) ∧
       (¬ shut → s.rangesFree ps true = true → s.modeFree mm = true →
         (s.cpu.tapep.toNat < s.cpu.tapeb.toNat + 80 → exec i s = .next (takeTrap s 0x0A s.cpu.tapep 0 i.len)) ∧
         ∀ (qs : List Place) (u' : State), s.cpu.tapeb.toNat + 80 ≤ s.cpu.tapep.toNat → tapePlaces p 80 u = .ok (qs, u') →
           s.rangesFree qs false = true → (∀ q ∈ qs, s.readable q MemMode.none = true) →
           let en := qs.flatMap s.bytesAt
           let tag := leNat ((en.drop 72).take 4)
           let old := (en.drop 8).take 64
           let fits : Prop := leNat (en.take 8) = 2 ^ 58 + ea.toNat ∧ tag % 2 ^ 8 = x.entry.elemWidth ∧ tag / 2 ^ 8 % 64 = x.entry.regionIdx
           (¬ fits → exec i s = .next (takeTrap s 0x0B ea (BitVec.ofNat 32 (leNat (en.take 8))) i.len)) ∧
           (fits → 2 ≤ x.entry.cls → (∀ q ∈ ps, s.writable q = true) → ∃ t, exec i s = .next t ∧
             t.cpu = { ((s.popped b).advance i.len).cpu with tapep := p } ∧
             ∀ q, Memory.lookup t.mem q = Memory.lookup (s.storedAll ps old).mem q) ∧
           ∀ y, fits → x.entry.cls = 0 → s.myCore.streams = [] → u'.pageAt (cellVa x.entry ea) true true = some y → y.plainDevice = true →
             s.rangesFree [cellPlace y 128] true = true → s.badAt y.pa 128 = false → s.testing y.pa 128 = false → s.owedAt y.pa 128 = false →
             let v (j : Nat) : Int := s.signedAt (y.pa + 8 * j)
             let bound (j : Nat) : Prop := v j = 2 ^ 63 - 1 ∨ v j = -2 ^ 63
             (∀ j < 16, bound j → (∀ k < j, ¬ bound k) →
               exec i s = .next (takeTrap s 0x0C (ea + BitVec.ofNat 64 (4 * j)) (BitVec.ofNat 32 x.entry.regionIdx) i.len)) ∧
             ((∀ j < 16, ¬ bound j) → s.hostFree y.pa 128 = true → (∀ q ∈ ps, s.writable q = true) → ∃ (w : Vec) (t : State), exec i s = .next t ∧
               t.cpu = { (((s.popped b).writtenV a w).advance i.len).cpu with tapep := p } ∧
               (∀ j < 16, w.extractLsb' (32 * j) 32 = (fadd 0 (lane j) (q64ToF (v j) x.entry.q)).1) ∧
               ∀ q, Memory.lookup t.mem q = Memory.lookup ((s.homeWrite y.pa (List.replicate 128 0)).storedAll ps old).mem q))))

/-! Atomics, reservations, updates and rills (spec/13_home_agents.md). -/

/-- R270, R271, R288: a fetch-and-op replaces the doubleword at its home, at once and even by the same value, and writes what was there
to gc; nothing else changes but what a write at a home changes (HomeWrite), the register fields and caches.

R289: CAS and CASX read the doubleword or pair at the home, replace it by G(a) or its pair exactly when it equals what gc or its
pair holds, and leave in gc or its pair what they read; one that fails writes nothing.

R270, R273, R287, R434: a read-modify-write at a home that does not perform it traps ATOMUNSUP with no effect, for a plain page
that the thread may read and write. -/
def Obligations.ReadModifyWrites : Prop :=
  (∀ e ∈ ([(Instr.aadd, Homes.swap, fun o v => o + v), (Instr.aswp, Homes.swap, fun _ v => v), (Instr.aand, Homes.logic, fun o v => o &&& v),
       (Instr.aor, Homes.logic, fun o v => o ||| v), (Instr.axor, Homes.logic, fun o v => o ^^^ v),
       (Instr.amin, Homes.logic, fun o v => if o.toInt ≤ v.toInt then o else v),
       (Instr.amax, Homes.logic, fun o v => if o.toInt ≤ v.toInt then v else o)] :
       List ((Chain → Reg → Reg → RegC → Word → MemMode → Instr) × Homes × (Word → Word → Word))),
   ∀ (c : Chain) (a b : Reg) (k : RegC) (off : Word) (mm : MemMode) (s : State) (x : Xlat),
     let ea := (s.sources a b).2 + off
     let i := e.1 c a b k off mm
     let old := s.dwordAt x.key
     guardOn c s.cpu.p = true → s.usable (agedUses [.rd a, .rd b] k) [] = true → (s.popped2 a b).atomicPage ea 8 e.2.1 x = true →
     s.atomicFree x ea 8 mm = true →
     ∃ t, exec i s = .next t ∧
       (((((s.popped2 a b).homeWrite x.key (leBytes 8 (e.2.2 old (s.sources a b).1).toNat)).writtenC k old).advance i.len).acquired mm).onlyCaches t) ∧
  (∀ (c : Chain) (a b : Reg) (k : RegC) (off : Word) (mm : MemMode) (s : State) (x : Xlat), guardOn c s.cpu.p = true →
     (let ea := (s.sources a b).2 + off
       let i := Instr.cas c a b k off mm
       let old := s.dwordAt x.key
       s.usable [.rd a, .rd b, .rw (wide k)] [] = true → (s.popped2 a b).atomicPage ea 8 Homes.swap x = true → s.atomicFree x ea 8 mm = true →
       ∃ t, exec i s = .next t ∧
         ((((if old = s.source (wide k) then (s.popped2 a b).homeWrite x.key (leBytes 8 (s.sources a b).1.toNat) else s.popped2 a b).writtenC k
           old).advance i.len).acquired mm).onlyCaches t) ∧
     (let ea := s.source b + off
       let i := Instr.casx c a b k off mm
       let lo := s.dwordAt x.key
       let hi := s.dwordAt (x.key + 8)
       s.usable [.run a.toNat, .run (a.toNat + 1), .rd b, .run k.toNat, .run (k.toNat + 1)] [] = true → even7 a = true → even6 k = true → 0 < k.toNat →
       s.goodG [a.toNat, a.toNat + 1, k.toNat, k.toNat + 1] = true →
       (s.popped b).atomicPage ea 16 Homes.swap x = true → s.atomicFree x ea 16 mm = true →
       ∃ t, exec i s = .next t ∧
         ((({ (if lo = s.cpu.reg k.toNat ∧ hi = s.cpu.reg (k.toNat + 1) then (s.popped b).homeWrite x.key
               (leBytes 8 (s.cpu.reg a.toNat).toNat ++ leBytes 8 (s.cpu.reg (a.toNat + 1)).toNat) else s.popped b) with
             cpu := ((s.popped b).cpu.setReg k.toNat lo).setReg (k.toNat + 1) hi } : State).advance i.len).acquired mm).onlyCaches t)) ∧
  (∀ (c : Chain) (a b : Reg) (k : RegC) (off : Word) (mm : MemMode) (s : State) (x : Xlat),
     let ea := (s.sources a b).2 + off
     guardOn c s.cpu.p = true → s.usable (agedUses [.rd a, .rd b] k) [] = true → ea.toNat % 8 = 0 →
     (s.popped2 a b).pageAt ea true true = some x → x.entry.kind = 0 →
     let stop (i : Instr) : Prop := exec i s = .next (takeTrap s 0x13 ea 0 i.len)
     (x.home = 2 → stop (.aand c a b k off mm) ∧ stop (.aor c a b k off mm) ∧ stop (.axor c a b k off mm) ∧ stop (.amin c a b k off mm) ∧
       stop (.amax c a b k off mm)) ∧
     (x.home = 2 → (s.port (s.portFor x.pa)).atomics = false → stop (.aadd c a b k off mm) ∧ stop (.aswp c a b k off mm)) ∧
     (x.home = 1 ∨ x.home = 2 ∨ x.home = 3 → stop (.sc c a b k off mm)) ∧
     (mm.cls ≠ .volatile → x.home = 1 ∨ x.home = 2 → stop (.rupdIntAdd c a b off mm) ∧ stop (.rupdQ64Add c a b off mm) ∧ stop (.rupdAnd c a b off mm)))

/-- R275, R290: LR reads the doubleword and leaves the holder's one reservation, on the granule of its address; while the slice's
table is not full no other holder loses one but by a notice of a displaced directory entry (R276). SC drops the holder's
reservation, stores only if that stood on the granule, and writes 0 to gc if it did and 1 if not.

R277, R293: WAITR writes 0 and goes on once no reservation is held or a spurious cause came, writes 1 when its timeout passed
while it waited, and otherwise parks with no other effect. -/
def Obligations.Reservations : Prop :=
  (∀ (c : Chain) (a b : Reg) (k : RegC) (off : Word) (mm : MemMode) (s : State) (x : Xlat), guardOn c s.cpu.p = true →
     (let ea := s.source b + off
       let i := Instr.lr c a b off mm
       let u (t : State) : State := { s.popped b with cpu := { (s.popped b).cpu with resv := some (s.nextRid, x.key / 64 * 64) },
                                                      resvs := t.resvs, nextRid := s.nextRid + 1, events := t.events }
       s.usable [.wr a, .rd b] [] = true → (s.popped b).atomicPage ea 8 Homes.resv x = true → s.rangesFree [rmwPlace x ea 8] true = true →
       s.volatileFree mm = true →
       s.badAt x.key 8 = false → s.testing x.key 8 = false → s.owedAt x.key 8 = false → s.mayGrant x.grain x.entry.grain = true →
       ∃ t, exec i s = .next t ∧ ((((u t).written a (s.dwordAt x.key)).advance i.len).acquired mm).onlyCaches t ∧
         ((∃ r ∈ t.resvs, r.holder = s.cpu.id) ∨ .lossNotice s.cpu.id s.nextRid ∈ t.events) ∧
         (s.myCore.streams = [] → ∃ r ∈ t.resvs, r.holder = s.cpu.id) ∧ (∀ r ∈ t.resvs, r.holder = s.cpu.id → r.granule = x.key / 64 * 64 ∧ r.rid = s.nextRid) ∧
         (∀ r ∈ t.resvs, r ∈ s.resvs ∨ r.holder = s.cpu.id) ∧
         ((s.resvs.filter fun r => r.slice == sliceOf x.key).length < 128 → ∀ r ∈ s.resvs, r.holder ≠ s.cpu.id → r ∈ t.resvs ∨ .lossNotice r.holder r.rid ∈ t.events)) ∧
     (let ea := (s.sources a b).2 + off
       let i := Instr.sc c a b k off mm
       let mine (r : Resv) : Bool := r.holder == s.cpu.id
       let stands := s.resvs.any fun r => mine r && r.granule == x.key / 64 * 64
       let u := (s.popped2 a b).dropResv mine
       s.usable (agedUses [.rd a, .rd b] k) [] = true → (s.popped2 a b).atomicPage ea 8 Homes.resv x = true → s.atomicFree x ea 8 mm = true →
       ∃ t, exec i s = .next t ∧ (((if stands then u.homeWrite x.key (leBytes 8 (s.sources a b).1.toNat) else u).writtenC k
         (if stands then 0 else 1)).advance i.len).onlyCaches t)) ∧
  (∀ (c : Chain) (a : Reg) (s : State), guardOn c s.cpu.p = true → s.cpu.isRill = false → s.usable [.rw a] [] = true →
     (s.cpu.resv = none ∨ s.cpu.wake = .spurious → exec (.waitr c a) s = .next (s.result (.waitr c a) a 0)) ∧
     (s.cpu.resv ≠ none → s.cpu.wake = .timeout → exec (.waitr c a) s = .next (s.result (.waitr c a) a 1)) ∧
     (s.cpu.resv ≠ none → s.cpu.wake = .none →
       ∃ t, exec (.waitr c a) s = .next { s with cpu := { s.cpu with state := .parked, held := some (.waitr c a), walks := [], since := t } }))

/-- R274, R291: functions 2 to 7 of RUPD replace the cell at its home and write no register; the update is counted as sent and received
by its launch, by the agents that do so (R420). That it is applied and received in the step that issues it is the model's choice
(notes/assumptions/5.md).

R154, R274, R291: functions 0 and 1 of RUPD add the Q64 rounding of their operand to a cell: the element's shadow cell with the
region's exponent, or the doubleword at ea with the exponent in x[7:0]. For a cell on the device, OVF of the region entry is set when
the sum saturates. That the update is applied in the step is the model's choice (notes/assumptions/5.md). -/
def Obligations.Updates : Prop :=
  (∀ e ∈ ([(Instr.rupdFp32Add, 4, fun o v => ((fadd 0 (o.setWidth 32) (v.setWidth 32)).1.setWidth 64)), (Instr.rupdIntAdd, 8, fun o v => o + v),
       (Instr.rupdMin, 8, fun o v => if o.toInt ≤ v.toInt then o else v), (Instr.rupdMax, 8, fun o v => if o.toInt ≤ v.toInt then v else o),
       (Instr.rupdOr, 8, fun o v => o ||| v), (Instr.rupdAnd, 8, fun o v => o &&& v)] :
       List ((Chain → Reg → Reg → Word → MemMode → Instr) × Nat × (Word → Word → Word))),
   ∀ (c : Chain) (a b : Reg) (off : Word) (mm : MemMode) (s : State) (x : Xlat),
     let ea := (s.sources a b).2 + off
     let i := e.1 c a b off mm
     mm.cls ≠ .volatile → guardOn c s.cpu.p = true → s.usable [.rd a, .rd b] [] = true → (s.popped2 a b).atomicPage ea e.2.1 Homes.update x = true →
     s.atomicFree x ea e.2.1 mm = true → (x.home = 3 → (s.peer (BitVec.ofNat 12 x.entry.peer)).answers = true) →
     ∃ t, exec i s = .next t ∧
       (((((s.popped2 a b).sends s.cpu.launch s.cpu.agent).receives s.cpu.launch (updateUnit x.key)).homeWrite x.key
         (leBytes e.2.1 (e.2.2 (s.dwordAt x.key) (s.sources a b).1).toNat)).advance i.len).onlyCaches t) ∧
  (∀ (c : Chain) (a b : Reg) (off : Word) (mm : MemMode) (s : State) (x y : Xlat),
     let ea := (s.sources a b).2 + off
     let v := (s.sources a b).1
     let ovf := regionAt (s.contextD s.cpu.ctx) x.entry.regionIdx + 1
     mm.cls ≠ .volatile → guardOn c s.cpu.p = true → s.usable [.rd a, .rd b] [] = true → s.hostFree ovf 1 = true →
     let goal (i : Instr) (k : Nat) (r : Int × Bool) : Prop :=
       (ovf < k ∨ k + 8 ≤ ovf) → ∃ t, exec i s = .next t ∧ t.cpu = ((s.popped2 a b).advance i.len).cpu ∧ t.signedAt k = r.1 ∧
         (r.2 = true → (Memory.lookup t.mem ovf).getLsbD 7 = true) ∧
         ∀ q, (q < k ∨ k + 8 ≤ q) → (r.2 = false ∨ q ≠ ovf) → Memory.lookup t.mem q = Memory.lookup s.mem q
     ((s.popped2 a b).pageAt ea true true = some x → x.element ea = true → x.entry.cls ≤ 1 →
       ((s.popped2 a b).cached x).pageAt (cellVa x.entry ea) false true = some y → y.plainDevice = true →
       (s.cpu.isRill = true → sliceOf y.pa = s.cpu.clusterId) → s.rangesFree [cellPlace y 8] true = true → s.modeFree mm = true →
       s.hostFree y.pa 8 = true → s.badAt y.pa 8 = false → s.testing y.pa 8 = false →
       goal (.rupdAdjoint c a b off mm) y.pa (q64Add (s.signedAt y.pa) (v.setWidth 32) x.entry.q)) ∧
     ((s.popped2 a b).atomicPage ea 8 Homes.update x = true → x.home = 0 → s.atomicFree x ea 8 mm = true →
       goal (.rupdQ64Add c a b off mm) x.pa (q64Add (s.signedAt x.pa) (v.extractLsb' 32 32) (v.setWidth 8).toInt)))

/-- R280, R292: SPAWN goes on when the slice core of the spawner's die and cluster number has a free slot that no ticket reserves
(R177); that slot, the lowest-numbered free one (the model's choice, notes/assumptions/35.md), holds a rill with its PC from ga, g1
from gb, g2 from gc, every other register 0 and the predicate word 1, at the spawner's level and in its context. -/
def Obligations.SpawnsRill : Prop :=
  ∀ (c : Chain) (a b : Reg) (k : RegC) (s : State) (id : Nat), guardOn c s.cpu.p = true → s.cpu.isRill = false →
    s.usable (if k == 0 then [.rd a, .rd b] else [.rd a, .rd b, .rd (wide k)]) [] = true → legalTarget (s.sources a b).1 = true →
    s.releaseFree .device = true → s.modeFree MemMode.none = true → s.freeRillSlot (64 * s.cpu.die + s.cpu.cluster) = some id → s.mayServe s.cpu.id (.rill (64 * s.cpu.die + s.cpu.cluster)) = true →
    ∃ t r, exec (.spawn c a b k) s = .next t ∧ t.cpu = ((s.popped2 a b).advance (Instr.spawn c a b k).len).cpu ∧ t.mem = s.mem ∧
      (∀ n, n ≠ s.cpu.id → n ≠ id → t.thread? n = s.thread? n) ∧ t.thread? id = some r ∧
      r.state = .ready ∧ r.pc = (s.sources a b).1 ∧ r.p = 1 ∧ r.sup = s.cpu.sup ∧ r.ctx = s.cpu.ctx ∧ r.tenant = s.cpu.tenant ∧
      r.launch = s.cpu.launch ∧ r.g[1] = (s.sources a b).2 ∧ r.g[2] = s.source (wide k) ∧ ∀ n, (h : n < 128) → n ≠ 1 → n ≠ 2 → r.g[n] = 0

/-! Copies, handles and windows (spec/15_copies_and_buffers.md, spec/08_caches_and_cisterns.md). -/

/-- R301, R302, R305, R309, R317: CPREQ enters a legal request at the tail of the core's mailbox and of its scoreboard, with the tag
of the open batch, the thread's row and the scoreboard entry, and counts it in the open batch and as a message sent (R420). That the
row and the entry are the lowest free ones is the model's choice (notes/assumptions/58.md).

R306, R318, R319: CPSEAL moves the open batch into the ring and adds 1 to SEALED, or parks while 64 sealed batches are unfinished;
CPWAIT goes on, acquiring at device scope, once at most n are unfinished and no finished batch holds a failure, and parks while more are
unfinished. -/
def Obligations.CopyRequests : Prop :=
  (∀ (c : Chain) (a : Reg) (s : State) (row sbe : Nat),
     let r := a.toNat
     let q : MailReq := { src := s.cpu.reg r, dst := s.cpu.reg (r + 1), len := s.cpu.reg (r + 2), flags := s.cpu.reg (r + 3), tag := 0 }
     guardOn c s.cpu.p = true → s.cpu.isRill = false → s.cpu.isSluice = false →
     s.usable [.run r, .run (r + 1), .run (r + 2), .run (r + 3)] [] = true → s.goodG [r, r + 1, r + 2, r + 3] = true →
     q.src.toNat % 32 = 0 → q.dst.toNat % 32 = 0 → q.len.toNat % 32 = 0 → 0 < q.len.toNat → q.len.toNat ≤ 2 ^ 30 → q.badFlags = false →
     badRange s s.cpu.coreId q.ssp q.src q.len = false → badRange s s.cpu.coreId q.dsp q.dst q.len = false → (q.stop = true → s.cpu.sup = true) →
     s.rowFor s.cpu = some row → row < 128 → freeIndex 32 (s.myCore.score.map (·.idx)) = some sbe → s.myCore.mailbox.length < 16 →
     (s.cpu.batch.opened.toNat % 32 < 31) → s.releaseFree .core = true → s.modeFree MemMode.none = true →
     ∃ t e, exec (.cpreq c a) s = .next t ∧ t = { s.advance (Instr.cpreq c a).len with cpu := t.cpu, cores := t.cores, launches := t.launches } ∧
       t.cpu = { (s.advance (Instr.cpreq c a).len).cpu with row := some row, batch := { s.cpu.batch with opened := s.cpu.batch.opened + 1 } } ∧
       t.myCore.mailbox = s.myCore.mailbox ++ [{ q with tag := e.req.tag }] ∧ t.myCore.score = s.myCore.score ++ [e] ∧
       t.myCore = { s.myCore with mailbox := t.myCore.mailbox, score := t.myCore.score, rows := t.myCore.rows } ∧
       (s.cpu.row.isSome → t.myCore.rows = s.myCore.rows) ∧
       e.idx = sbe ∧ e.req = { q with tag := e.req.tag } ∧ e.owner = s.cpu.id ∧ e.ctx = s.cpu.ctx ∧ e.taken = false ∧
       e.req.sbe = sbe ∧ e.req.batchTag = s.cpu.batch.sealedNo.toNat % 128 ∧ e.req.sup = s.cpu.sup ∧ e.req.rowTag = row ∧
       (∀ n, n ≠ s.cpu.coreId → t.core n = s.core n) ∧ (s.cpu.launch < 64 → (t.launch s.cpu.launch).sent =
         assocSet s.cpu.coreId (assocD 0 s.cpu.coreId (s.launch s.cpu.launch).sent + 1) (s.launch s.cpu.launch).sent)) ∧
  (∀ (c : Chain) (n : Word) (s : State), guardOn c s.cpu.p = true → s.cpu.isRill = false → s.cpu.isSluice = false →
     (s.cpu.batch.unfin < 64 → batchFail (s.cpu.batch.at s.cpu.batch.sealedNo.toNat) = 0 →
       ∃ b : Batch, exec (.cpseal c) s = .next ({ s with cpu := { s.cpu with batch := b } }.advance (Instr.cpseal c).len) ∧
         b = { s.cpu.batch with ring := b.ring, opened := 0, sealedNo := s.cpu.batch.sealedNo + 1 } ∧
         ∀ j, (h : j < 64) → b.ring[j] = if j = s.cpu.batch.sealedNo.toNat % 64 then s.cpu.batch.opened else s.cpu.batch.ring[j]) ∧
     (s.cpu.batch.unfin = 64 → ∃ k, exec (.cpseal c) s = .next { s with cpu := { s.cpu with state := .parked, held := some (.cpseal c), walks := [], since := k } }) ∧
     (s.cpu.batch.unfin ≤ n.toNat → s.cpu.batch.failed 64 = none →
       ∃ t, exec (.cpwait c n) s = .next t ∧ t = { (s.advance (Instr.cpwait c n).len).acquiredAt .device with copies := t.copies } ∧
         ∀ k ∈ t.copies, k.die = s.cpu.die → k.stamp.isSome = true) ∧
     (n.toNat < s.cpu.batch.unfin →
       ∃ k, exec (.cpwait c n) s = .next { s with cpu := { s.cpu with state := .parked, held := some (.cpwait c n), walks := [], since := k } }))

/-- R320, R204: MBGET takes the head request, with an acquire at core scope; it goes to ga to ga+4, and its scoreboard entry, the
one of its number SBE, is marked as taken, no other entry changing; MBGET.nw does the same, and on an empty mailbox writes all ones
to ga+4 and leaves the other registers.

R321, R322: COPY_COMPLETE writes the cause and the address to gb and gb+1 of the slot's XFER, which completes; MBPOST of a pending
request with POST = 0 retires its scoreboard entry, counts it as received, and takes it off the batch its tag names in the owner's
state.
That an MBPOST names its entry by the whole tag is the model's reading (notes/assumptions/19.md). -/
def Obligations.MailboxAndPost : Prop :=
  (∀ (c : Chain) (a : BitVec 5) (s : State), guardOn c s.cpu.p = true → s.cpu.isSluice = true →
     s.usable ((List.range 5).map fun j => Use.run (a.toNat + j)) [] = true →
     (∀ i ∈ [Instr.mbget c a, .mbgetNw c a], ∀ q rest, s.myCore.mailbox = q :: rest →
       ∃ t, exec i s = .next t ∧ t = { s.advance i.len with cpu := t.cpu, cores := t.cores } ∧
         t.cpu = { ((s.advance i.len).acquiredAt .core).cpu with g := t.cpu.g, badG := t.cpu.badG } ∧ t.myCore.mailbox = rest ∧
         (0 < a.toNat → t.cpu.reg a.toNat = q.src) ∧ t.cpu.reg (a.toNat + 1) = q.dst ∧ t.cpu.reg (a.toNat + 2) = q.len ∧
         t.cpu.reg (a.toNat + 3) = q.flags ∧ t.cpu.reg (a.toNat + 4) = q.tag ∧
         (∀ n, n < a.toNat ∨ a.toNat + 5 ≤ n → t.cpu.reg n = s.cpu.reg n) ∧
         t.myCore = { s.myCore with mailbox := rest, score := t.myCore.score } ∧ t.myCore.score.length = s.myCore.score.length ∧
         (∀ j e, s.myCore.score[j]? = some e → t.myCore.score[j]? = some
           (if e.idx == q.sbe && (s.myCore.score.take j).all (fun x => x.idx != q.sbe) then { e with taken := true } else e)) ∧ ∀ n, n ≠ s.cpu.coreId → t.core n = s.core n) ∧
     (s.myCore.mailbox = [] → exec (.mbgetNw c a) s = .next ({ s with cpu := s.cpu.setReg (a.toNat + 4) (BitVec.allOnes 64) }.advance
       (Instr.mbgetNw c a).len))) ∧
  ((∀ (c : Chain) (a b : BitVec 5) (cause : BitVec 8) (addr : Word) (s : State), s.cpu.state = .stalled → s.cpu.reply = .copying →
     s.cpu.held = some (.xfer c a b) →
     ∃ t, exec (.copyComplete s.cpu.id cause addr) s = .next t ∧ t.mem = s.mem ∧ t.cores = s.cores ∧
       t.cpu = { ((s.cpu.setReg b.toNat (cause.setWidth 64)).setReg (b.toNat + 1) addr).goTo (s.cpu.pc + BitVec.ofNat 64 (Instr.xfer c a b).len) with flow := t.cpu.flow }) ∧
   (∀ (c : Chain) (a b : BitVec 5) (s : State) (e : Score) (row : BatchRow) (u : Thread), guardOn c s.cpu.p = true → s.cpu.isSluice = true →
     s.usable [.run a.toNat, .run b.toNat, .run (b.toNat + 1)] [] = true → s.goodG [a.toNat, b.toNat, b.toNat + 1] = true →
     first? (fun x => x.req.tag == s.cpu.reg a.toNat && x.taken) s.myCore.score = some e → e.req.postAct = 0 → s.cpu.reg b.toNat = 0 →
     first? (fun r => r.num == e.req.rowTag) s.myCore.rows = some row → row.owner = some u.id → u.id ≠ s.cpu.id → s.thread? u.id = some u →
     e.req.batchTag = u.batch.sealedNo.toNat % 128 → s.releaseFree .device = true → s.modeFree MemMode.none = true →
     ∃ t, exec (.mbpost c a b) s = .next t ∧ t.cpu = (s.advance (Instr.mbpost c a b).len).cpu ∧ t.mem = s.mem ∧
       t.myCore = { s.myCore with score := s.myCore.score.filter fun x => x.idx != e.idx } ∧
       t.thread? u.id = some { u with batch := { u.batch with opened := u.batch.opened - 1 } } ∧
       (e.launch < 64 → (t.launch e.launch).received =
         assocSet s.cpu.coreId (assocD 0 s.cpu.coreId (s.launch e.launch).received + 1) (s.launch e.launch).received)))

/-- R303, R321: an XFER of a request that MBGET took, with both sides translated, every source sector good and under no test, every
home answering and no host copy or earlier write in the way, and every completion at hand (R433, R435, R441), moves each sector's
bytes, the whole source read before any is written; the slot stays Stalled, and COPY_COMPLETE, with cause 0, is to come. That the
move is one step is the model's choice (notes/assumptions/20.md). -/
def Obligations.TransferMoves : Prop :=
  ∀ (c : Chain) (a b : BitVec 5) (s u w : State) (e : Score) (src dst : Side),
    let r := a.toNat
    let q : MailReq := { src := s.cpu.reg r, dst := s.cpu.reg (r + 1), len := s.cpu.reg (r + 2), flags := s.cpu.reg (r + 3), tag := s.cpu.reg (r + 4) }
    let wk : Walker := { s.cpu.walker with sup := q.sup }
    let k := s.cpu.coreId
    let n := q.len.toNat / 32
    guardOn c s.cpu.p = true → s.cpu.isSluice = true →
    s.usable (((List.range 5).map fun j => Use.run (a.toNat + j)) ++ [.run b.toNat, .run (b.toNat + 1)]) [] = true →
    s.goodG ((List.range 5).map fun j => a.toNat + j) = true →
    s.modeFree MemMode.none = true → s.cpu.reply = .none → (s.cpu.nomap = none ∨ s.cpu.future ≠ none) → q.stop = false →
    first? (fun x => x.idx == q.sbe && x.taken) s.myCore.score = some e →
    sideOf wk (copyNote s.cpu e) q.ssp q.src q.len false s = .ok ((src, none), u) → sideOf wk (copyNote s.cpu e) q.dsp q.dst q.len true u = .ok ((dst, none), w) →
    (∀ j < n, s.badAt (src.sector k j).1 32 = false ∧ s.remoteFails (src.sector k j).2.2 false = false ∧
      s.remoteFails (dst.sector k j).2.2 true = false ∧ s.remoteWaits (src.sector k j).2.2 false = none ∧
      s.remoteWaits (dst.sector k j).2.2 true = none ∧ s.testing (src.sector k j).1 32 = false ∧ s.owedAt (src.sector k j).1 32 = false ∧
      s.testing (dst.sector k j).1 32 = false ∧ s.owedAt (dst.sector k j).1 32 = false ∧
      ∀ x, (dst.sector k j).2.2 = some x → (x.home = 0 → s.hostFree x.pa 32 = true) ∧ (x.home = 2 → (s.port (s.portFor x.pa)).posts = [])) →
    (∀ i < n, ∀ j < n, i ≠ j → (dst.sector k i).1 + 32 ≤ (dst.sector k j).1 ∨ (dst.sector k j).1 + 32 ≤ (dst.sector k i).1) →
    ∃ t, exec (.xfer c a b) s = .next t ∧ t.cpu = { s.cpu with state := .stalled, held := some (.xfer c a b), reply := .copying, awaits := none } ∧
      Instr.copyComplete s.cpu.id 0 0 ∈ t.events ∧
      (∀ j < n, Memory.reads t.mem (dst.sector k j).1 32 = Memory.reads s.mem (src.sector k j).1 32) ∧
      ∀ p, (∀ j < n, p < (dst.sector k j).1 ∨ (dst.sector k j).1 + 32 ≤ p) → Memory.lookup t.mem p = Memory.lookup s.mem p

/-- R312, R315, R323 to R326: the handle instructions. HCFG configures or unconfigures a ring on lines that have not failed and are
under no test, and what it frees of the failing ones is retired (R478, R479); CPOST fills n slots and CADV drains n from the
consumer's head, as release writes; CWAIT and CFREE go on, with an acquire, when n slots are filled or free, and park until then
(R314); a breach traps PROT with TRAPVAL N << 16 | n. What moves a handle waits for a gather that has checked it (R138). XPUSH
appends a slot reference to h8 or h9 of its core or the next of the ring.

R182, R186, R189, R192 to R195, R479: SMAP maps its window with every grain unfilled and releases what the number held; SUNMAP
frees the number, and both take the cistern out of the directory entries of its grains (R193) and may wake WAITRs (R277); SFLUSH
leaves the grains valid and clean; PFS opens a stream in place of any of its number, or closes it when its count is 0; PFX fetches
into caches alone, for an address of the handle aperture too (R489; notes/assumptions/53.md). None of them changes memory or a
register. -/
def Obligations.CisternUnits : Prop :=
  ((∀ (c : Chain) (h : BitVec 3) (n : Word) (s : State), n ≠ 0 → guardOn c s.cpu.p = true → s.cpu.isRill = false →
     let x := s.myCore.handles[h.toNat]
     let put (y : Handle) : State := s.putCore { s.myCore with handles := s.myCore.handles.set h.toNat y }
     let rel : Prop := s.releaseFree .core = true ∧ s.modeFree MemMode.none = true
     let bad (i : Instr) : Prop := exec i s = .next (takeTrap s 0x05 ((h.setWidth 64 <<< 16) ||| n) 0 i.len)
     let waits (i : Instr) : Prop := ∃ k, exec i s = .next { s with cpu := { s.cpu with state := .parked, held := some i, walks := [], since := k } }
     (x.count = 0 → bad (.cpost c h n) ∧ bad (.cadv c h n) ∧ bad (.cwait c h n) ∧ bad (.cfree c h n)) ∧
     (x.count ≠ 0 →
       (s.unpinned (8 + h.toNat) = true → rel → n.toNat ≤ x.count - x.filled → exec (.cpost c h n) s = .next ((put { x with filled := x.filled + n.toNat }).advance (Instr.cpost c h n).len)) ∧
       (x.count - x.filled < n.toNat → bad (.cpost c h n)) ∧
       (s.unpinned (8 + h.toNat) = true → rel → n.toNat ≤ x.filled → exec (.cadv c h n) s = .next ((put { x with ch := (x.ch + n.toNat) % x.count, filled := x.filled - n.toNat }).advance
         (Instr.cadv c h n).len)) ∧
       (x.filled < n.toNat → bad (.cadv c h n)) ∧
       (n.toNat ≤ x.count → n.toNat ≤ x.filled → exec (.cwait c h n) s = .next (((put x).advance (Instr.cwait c h n).len).acquiredAt .core)) ∧
       (n.toNat ≤ x.count → x.filled < n.toNat → waits (.cwait c h n)) ∧
       (n.toNat ≤ x.count → n.toNat ≤ x.count - x.filled → exec (.cfree c h n) s = .next (((put x).advance (Instr.cfree c h n).len).acquiredAt .core)) ∧
       (n.toNat ≤ x.count → x.count - x.filled < n.toNat → waits (.cfree c h n)) ∧
       (x.count < n.toNat → bad (.cwait c h n) ∧ bad (.cfree c h n)))) ∧
   (∀ (c : Chain) (h : BitVec 3) (b : Reg) (base size count : Nat) (s : State), guardOn c s.cpu.p = true → s.cpu.isRill = false →
     s.usable [.rd b] [] = true → s.source b = BitVec.ofNat 64 (base + size * 2 ^ 17 + count * 2 ^ 35) → base < 2 ^ 17 → size < 2 ^ 18 → count < 2 ^ 13 →
     (count = 0 ∨ size % 32 = 0 ∧ 32 ≤ size ∧ size ≤ 131072 ∧ base % 32 = 0 ∧
       badRange s s.cpu.coreId 1 (BitVec.ofNat 64 base) (BitVec.ofNat 64 (size * count)) = false) → s.unpinned (8 + h.toNat) = true →
     let x : Handle := if count = 0 then { base := 0, size := 0, count := 0, ch := 0, filled := 0 }
       else { base := base, size := size, count := count, ch := 0, filled := 0 }
     (∀ j < 256, x.meets j 1 = true → s.linesFailed s.cpu.coreId j 1 = false ∧ s.linesTested s.cpu.coreId j 1 = false) →
     exec (.hcfg c h b) s = .next (((s.popped b).putCore { s.myCore with handles := s.myCore.handles.set h.toNat x }).retireIdle.advance
       (Instr.hcfg c h b).len)) ∧
   (∀ (c : Chain) (a : BitVec 5) (q d : Bool) (s : State), guardOn c s.cpu.p = true → s.cpu.isSluice = true → s.usable [.run a.toNat] [] = true → s.goodG [a.toNat] = true →
     let x := s.cpu.reg a.toNat
     let k := if d then s.cpu.id / 512 * 8 % 4096 + (s.cpu.ring + 1) % 8 else s.cpu.coreId
     x.toNat < 2 ^ 20 → x.toNat % 32 = 0 → (if q then (s.core k).q9 else (s.core k).q8).length < 16 →
     s.releaseFree .cluster = true → s.modeFree MemMode.none = true →
     ∃ t, exec (.xpush c a q d) s = .next t ∧ t = { s.advance (Instr.xpush c a q d).len with cores := t.cores } ∧
       t.core k = { s.core k with q8 := if q then (s.core k).q8 else (s.core k).q8 ++ [x], q9 := if q then (s.core k).q9 ++ [x] else (s.core k).q9 } ∧
       ∀ n, n ≠ k → t.core n = s.core n)) ∧
  (∀ (c : Chain) (s : State), guardOn c s.cpu.p = true → s.cpu.isRill = false →
     let freed (m t : State) (w : BitVec 3) : Prop := s.leftDirs t s.cpu.coreId w.toNat ∧
       t = { m with cores := t.cores, others := t.others, dirs := t.dirs, retired := t.retired, failing := t.failing } ∧
       t.others.map (fun u => { u with wake := .none }) = s.others.map fun u => { u with wake := .none }
     (∀ (a b : Reg) (w : BitVec 3) (va f n : Nat), s.usable [.rd a, .rd b] [] = true → s.windowFree w.toNat = true →
       (s.sources a b).1.toNat = va → (s.sources a b).2.toNat % 2 ^ 8 = f → (s.sources a b).2.toNat / 2 ^ 8 % 2 ^ 9 = n →
       va % 512 = 0 → va + 512 * n ≤ 2 ^ 58 → 0 < n → f + n ≤ 256 →
       (∀ x ∈ s.myCore.windows, x.num ≠ w.toNat → overlaps f n x.f x.n = false ∧ overlaps va (512 * n) x.va (512 * x.n) = false) →
       s.linesFailed s.cpu.coreId f n = false → s.linesTested s.cpu.coreId f n = false → s.linesUnpinned s.cpu.coreId f n = true →
       ∃ t, exec (.smap c a b w) s = .next t ∧ freed ((s.popped2 a b).advance (Instr.smap c a b w).len) t w ∧
         t.myCore.windows = s.myCore.windows.filter (fun x => x.num != w.toNat) ++
           [{ num := w.toNat, owner := s.cpu.id, va := va, f := f, n := n, fills := [] }] ∧ ∀ k, k ≠ s.cpu.coreId → t.core k = s.core k) ∧
     (∀ w : BitVec 3, (∀ x, s.window? s.cpu.coreId w.toNat = some x → x.owner = s.cpu.id) →
       (s.windowFree w.toNat = true →
         ∃ t, exec (.sunmap c w) s = .next t ∧ freed (s.advance (Instr.sunmap c w).len) t w ∧
         (∀ x, x ∈ t.myCore.windows ↔ x ∈ s.myCore.windows ∧ x.num ≠ w.toNat)) ∧
       ∃ t, exec (.sflush c w) s = .next t ∧ t = { s.advance (Instr.sflush c w).len with cores := t.cores, dirs := t.dirs } ∧
           ∀ x, s.window? s.cpu.coreId w.toNat = some x → ∃ y, t.window? s.cpu.coreId w.toNat = some y ∧ y = { x with fills := y.fills } ∧
             y.fills = x.fills.map fun g => { g with state := g.state.clean }) ∧
     (∀ (a : Reg) (n : BitVec 4) (cis : Bool), 1 ≤ a.toNat → a.toNat ≤ 122 → s.usable [.run a.toNat, .run (a.toNat + 1), .run (a.toNat + 2), .run (a.toNat + 3)] [] = true →
       s.goodG [a.toNat, a.toNat + 1, a.toNat + 2, a.toNat + 3] = true →
       ∃ t, exec (.pfs c a n cis) s = .next t ∧ (s.advance (Instr.pfs c a n cis).len).onlyCaches t ∧
         (∀ x, x.num ≠ n.toNat → (x ∈ t.myCore.streams ↔ x ∈ s.myCore.streams)) ∧
         ((s.cpu.reg (a.toNat + 2)).toNat % 2 ^ 32 = 0 → ∀ x ∈ t.myCore.streams, x.num ≠ n.toNat) ∧
         ((s.cpu.reg (a.toNat + 2)).toNat % 2 ^ 32 ≠ 0 → ∃ x ∈ t.myCore.streams, x.num = n.toNat ∧ x.base = s.cpu.reg a.toNat ∧
           x.stride = s.cpu.reg (a.toNat + 1) ∧ x.count = (s.cpu.reg (a.toNat + 2)).toNat % 2 ^ 32 ∧ x.head = 0 ∧ x.cistern = cis)) ∧
     (∀ (b : Reg) (off : Word) (cis : Bool), s.usable [.rd b] [] = true →
       ∃ t, exec (.pfx c b off cis) s = .next t ∧ ((s.popped b).advance (Instr.pfx c b off cis).len).onlyCaches t))

/-! The matrix unit (spec/16_matrix_unit.md). -/

/-- R329, R332, R333, R346, R347, R353, R355: FMTSET takes a free context with every tile zero, or reconfigures the thread's own, or
parks for another's; FMTSET #0 frees the thread's own, scrubbed, which may retire a failing matrix unit (R479), and does nothing
otherwise; FMTRD reads the queues' lengths and the
configuration; MSYNC goes on when nothing is pending and stalls until then; SCPUSH appends a positive finite scale, as a release write.

R332: a matrix instruction of a thread that does not hold its core's format context traps FMTCTX, with TRAPVAL the core's index in
its ring.

R383, R384, R391: CBPUSH appends a constraint to a sweep that is not running, opening it if need be. Its level is one above the
greatest level among its bodies, up to 255, and beyond that it is deferred; the bodies' bytes of the level table and the constraint's
list entry are written, and ga receives index and level, with bit 63 for a deferred one.

R382, R386, R392 to R394: CBSEAL starts the sweep or, with nothing placed, ends it; CBNEXT hands out the first constraint of the
open level that is not handed out, its index to ga and its payload to ga+1, or all ones once no sweep stands; CBDONE marks a handed
constraint done, and the last one ends the sweep, whose entry goes. What the end of a sweep clears is the model's reading
(notes/assumptions/30.md). -/
def Obligations.FormatAndTurnout : Prop :=
  (∀ (c : Chain) (s : State), guardOn c s.cpu.p = true → s.cpu.isRill = false → s.cpu.isSluice = false → s.matrixTest s.cpu.clusterId = false →
     let waits (i : Instr) (p : SlotState) : Prop := ∃ k, exec i s = .next { s with cpu := { s.cpu with state := p, held := some i, walks := if p = .parked then [] else s.used, since := k } }
     (∀ cfg : BitVec 5, cfgLegal cfg = true →
       (s.myCore.fmt.holder = none → ∃ f, exec (.fmtset c cfg) s = .next ((s.withFmt f).advance (Instr.fmtset c cfg).len) ∧
         f.holder = some s.cpu.id ∧ f.cfg = cfg ∧ f.pending = [] ∧ ∀ t r k, f.elemAt t r k = 0) ∧
       (s.myCore.fmt.holder = some s.cpu.id → s.myCore.fmt.pending = [] →
         exec (.fmtset c cfg) s = .next ((s.withFmt { s.myCore.fmt with cfg := cfg }).advance (Instr.fmtset c cfg).len)) ∧
       (∀ h, s.myCore.fmt.holder = some h → h ≠ s.cpu.id → waits (.fmtset c cfg) .parked)) ∧
     (s.myCore.fmt.holder = some s.cpu.id → s.myCore.fmt.pending = [] →
       ∃ f, exec (.fmtsetRelease c) s = .next ((s.withFmt f).retireIdle.advance (Instr.fmtsetRelease c).len) ∧ f.holder = none ∧ f.pending = [] ∧
         ∀ t r k, f.elemAt t r k = 0) ∧
     (s.myCore.fmt.holder ≠ some s.cpu.id → exec (.fmtsetRelease c) s = .next (s.advance (Instr.fmtsetRelease c).len)) ∧
     (∀ a : Reg, s.usable [.wr a] [] = true → s.myCore.q8.length ≤ 16 → s.myCore.q9.length ≤ 16 → s.myCore.f10.length ≤ 256 → s.myCore.f11.length ≤ 256 →
       ∃ x : Word, exec (.fmtrd c a) s = .next (s.result (.fmtrd c a) a x) ∧
         (x.extractLsb' 0 5 = if s.myCore.fmt.holder = some s.cpu.id then s.myCore.fmt.cfg else 0) ∧
         x.getLsbD 5 = (s.myCore.fmt.holder == some s.cpu.id) ∧ (x.extractLsb' 14 5).toNat = s.myCore.q8.length ∧
         (x.extractLsb' 19 5).toNat = s.myCore.q9.length ∧ (x.extractLsb' 24 9).toNat = s.myCore.f10.length ∧
         (x.extractLsb' 33 9).toNat = s.myCore.f11.length) ∧
     (s.myCore.fmt.holder = some s.cpu.id → s.myCore.fmt.pending = [] → exec (.msync c) s = .next (s.advance (Instr.msync c).len)) ∧
     (s.myCore.fmt.holder = some s.cpu.id → s.myCore.fmt.pending ≠ [] → waits (.msync c) .stalled) ∧
     (∀ (a : Reg) (q : Bool), s.usable [.rd a] [] = true →
       let x : F32 := (s.source a).setWidth 32
       let k := s.myCore
       expF x ≠ 255 → 0 < unitsF x → (if q then k.f11 else k.f10).length < 256 → s.releaseFree .core = true → s.modeFree MemMode.none = true →
       let l10 := if q then k.f10 else k.f10 ++ [x]
       let l11 := if q then k.f11 ++ [x] else k.f11
       exec (.scpush c a q) s = .next (((s.popped a).putCore { k with f10 := l10, f11 := l11 }).advance (Instr.scpush c a q).len))) ∧
  (∀ (c : Chain) (d e : Tile) (n : BitVec 5) (a : VReg) (b : Reg) (p : BitVec 6) (off : Word) (f : BitVec 2) (s : State),
     guardOn c s.cpu.p = true → s.cpu.isRill = false → s.myCore.fmt.holder ≠ some s.cpu.id → s.usable [.rd b] [a] = true →
     ∀ i ∈ [Instr.mma c d n, .mmat c d e n 0, .mmasp c d n, .tzero c d, .trd c a d p, .twr c a d p, .tld c d b off f, .tst c d b off f,
         .tstt c d b off f, .rgrow c d e b off, .msync c], WellFormed i = true →
       exec i s = .next (takeTrap s 0x0F (BitVec.ofNat 64 s.cpu.ring) 0 i.len)) ∧
  (∀ (c : Chain) (a b : Reg) (k : RegC) (s u1 u2 u3 : State) (d : Desc) (table : List (Nat × Word)) (entry : Nat),
     let g := s.cpu.reg k.toNat
     let h := s.cpu.reg (k.toNat + 1)
     let dw (j : Nat) : Nat := (s.dwordAt (d.home + 8 * j)).toNat
     let items := (d.sweep.map Sweep.items).getD []
     let m := (table.map fun p => (Memory.lookup s.mem p.1).toNat).foldl max 0
     let l := if m < 255 then m + 1 else 0
     1 ≤ k.toNat → k.toNat ≤ 62 → guardOn c s.cpu.p = true → s.cpu.isRill = false → s.usable [.wr a, .rd b, .run k.toNat, .run (k.toNat + 1)] [] = true →
     s.goodG [k.toNat, k.toNat + 1] = true → s.releaseFree .device = true → s.modeFree MemMode.none = true →
     getDesc (s.popped b) = .ok (d, u1) → g.toNat < 2 ^ 50 → h.toNat < 2 ^ 48 → (∀ w, d.sweep = some w → w.running = false) →
     (d.sweep = none → d.state = 0) → 0 < dw 1 → dw 1 ≤ 2 ^ 24 → 0 < dw 3 → dw 3 ≤ 2 ^ 24 → dw 2 % 32 = 0 → items.length ≠ dw 3 →
     (∀ x ∈ bodiesOf g h, x < dw 1) → levelPlaces (dw 0) (bodiesOf g h) u1 = .ok (table, u2) →
     turnoutReach (BitVec.ofNat 64 (dw 2 + 32 * items.length)) true u2 = .ok (entry, u3) →
     (∀ p ∈ table, s.badAt p.1 1 = false ∧ s.testing p.1 1 = false ∧ s.owedAt p.1 1 = false ∧ s.hostFree p.1 1 = true ∧ (p.1 < entry ∨ entry + 32 ≤ p.1)) →
     s.hostFree entry 32 = true → s.testing entry 32 = false → s.hostFree (d.home + 32) 16 = true → s.testing (d.home + 32) 16 = false →
     (d.sweep = none → (s.sweeps.filter fun x => x.home / 2 ^ 37 == d.home / 2 ^ 37).length < 8) →
     ∃ t w es, exec (.cbpush c a b k) s = .next t ∧
       t.cpu = (((s.popped b).written a (BitVec.ofNat 64 (items.length * 2 ^ 8 + if l = 0 then 2 ^ 63 else l))).advance (Instr.cbpush c a b k).len).cpu ∧
       w ∈ t.sweeps ∧ w.home = d.home ∧ w.running = false ∧
       w.items = items ++ [{ level := l, entries := es, bodies := table.map (·.1), entry := entry, handed := false, done := false }] ∧
       (∀ p ∈ table, Memory.lookup t.mem p.1 = BitVec.ofNat 8 (if l = 0 then 255 else l)) ∧
       t.dwordAt entry = s.source b ∧ t.dwordAt (entry + 8) = g ∧ t.dwordAt (entry + 16) = h ∧ t.dwordAt (entry + 24) = BitVec.ofNat 64 l) ∧
  (∀ (c : Chain) (a : Reg) (s u : State) (d : Desc), guardOn c s.cpu.p = true → s.cpu.isRill = false →
     let free (w : Sweep) : Prop :=
       s.releaseFree .device = true ∧ s.modeFree MemMode.none = true ∧ s.hostFree (d.home + 32) 16 = true ∧ s.testing (d.home + 32) 16 = false ∧
         ∀ x ∈ w.items, ∀ b ∈ x.bodies, s.hostFree b 1 = true ∧ s.testing b 1 = false
     let ended (t : State) : Prop := ∀ x, x ∈ t.sweeps ↔ x ∈ s.sweeps ∧ x.home ≠ d.home
     (∀ w, getDesc s = .ok (d, u) → d.sweep = some w → w.running = false → free w →
       ∃ t, exec (.cbseal c) s = .next t ∧ t.cpu = (s.advance (Instr.cbseal c).len).cpu ∧
         if w.finished then ended t else { w with running := true } ∈ t.sweeps) ∧
     (getDesc s = .ok (d, u) → d.sweep = none → d.state ≠ 0 → s.usable [.run a.toNat, .run (a.toNat + 1)] [] = true →
       ∃ t, exec (.cbnext c a) s = .next t ∧ t.cpu = ({ s.cpu.setReg a.toNat (BitVec.allOnes 64) with homeCoh := true, front := s.cpu.heard } : Thread).goTo
         (s.cpu.pc + BitVec.ofNat 64 (Instr.cbnext c a).len) ∧ t.mem = s.mem) ∧
     (∀ w l i x, getDesc s = .ok (d, u) → d.sweep = some w → w.running = true → w.openLevel = some l → nextOf l w.items 0 = some (i, x) →
       s.usable [.run a.toNat, .run (a.toNat + 1)] [] = true → s.badAt x.entry 8 = false → s.testing x.entry 8 = false → s.owedAt x.entry 8 = false →
       ∃ t, exec (.cbnext c a) s = .next t ∧ t.mem = s.mem ∧ { w with items := w.items.set i { x with handed := true } } ∈ t.sweeps ∧
         t.cpu = ({ (s.cpu.setReg a.toNat (BitVec.ofNat 64 i)).setReg (a.toNat + 1) (s.dwordAt x.entry) with homeCoh := true, front := s.cpu.heard } : Thread).goTo
           (s.cpu.pc + BitVec.ofNat 64 (Instr.cbnext c a).len)) ∧
     (∀ w x, let i := (s.source a).toNat
       let w' : Sweep := { w with items := w.items.set i { x with done := true } }
       s.usable [.rd a] [] = true → getDesc (s.popped a) = .ok (d, u) → d.sweep = some w → w.running = true → w.items[i]? = some x →
       x.handed = true → x.done = false → free w →
       ∃ t, exec (.cbdone c a) s = .next t ∧ t.cpu = ((s.popped a).advance (Instr.cbdone c a).len).cpu ∧
         if w'.finished then ended t else w' ∈ t.sweeps))

/-- R333, R336 to R339, R348: MMA, MMASP and MMAT are accepted once their queues hold what their steps consume, with 16 scales for each
reference of a DL8 configuration. They take the references and scales off the queues, capture the slots' bytes, or for MMAT columns of
the A tile, and go on; the steps are pending, each with a MMA_TILE_WRITE to come.
When the slots are captured is the model's reading (notes/assumptions/29.md). -/
def Obligations.MatrixSteps : Prop :=
  ∀ (c : Chain) (d a : Tile) (n : BitVec 5) (s0 : BitVec 4) (s : State),
    let k := s.myCore
    let cfg := k.fmt.cfg
    let f := cfg.toNat % 4
    let depth := if f = 3 then 32 else if f = 2 then 8 else 2
    1 ≤ n.toNat → n.toNat ≤ 16 → guardOn c s.cpu.p = true → s.holdsFmt → d.toNat ∉ k.fmt.badTiles →
    s.queueReady f n.toNat (slotLen f) k.q9 k.f11 = true →
    let step (m : MmaStep) (j : Nat) : Prop := m.dst = d ∧ m.cfg = cfg ∧
      m.bSlot = Memory.reads s.mem (cisternKey (refCore s.cpu (k.q9.getD j 0)) (refOff (k.q9.getD j 0))) (slotLen f) ∧
      m.bScales = if f = 3 then (k.f11.drop (16 * j)).take 16 else []
    let f10 := if f = 3 then k.f10.drop (16 * n.toNat) else k.f10
    let f11 := if f = 3 then k.f11.drop (16 * n.toNat) else k.f11
    (∀ i ∈ [Instr.mma c d n, .mmasp c d n], (i = .mma c d n ↔ cfg.getLsbD 4 = false) →
      s.stepsReady n.toNat = true →
      ∃ (ms : List MmaStep) (t : State), exec i s = .next t ∧ ms.length = n.toNat ∧
        t = { (s.putCore { k with q8 := k.q8.drop n.toNat, q9 := k.q9.drop n.toNat, f10 := f10, f11 := f11,
                                  fmt := { k.fmt with pending := k.fmt.pending ++ ms } }).advance i.len with
              events := s.events ++ List.replicate n.toNat (.mmaTileWrite s.cpu.coreId) } ∧
        ∀ j, (h : j < ms.length) → step ms[j] j ∧ ms[j].aTile = [] ∧
          ms[j].aSlot = Memory.reads s.mem (cisternKey (refCore s.cpu (k.q8.getD j 0)) (refOff (k.q8.getD j 0))) (aSlotLen cfg) ∧
          ms[j].aScales = if f = 3 then (k.f10.drop (16 * j)).take 16 else []) ∧
    (s.tileReady a → s0.toNat + n.toNat ≤ 32 / depth →
      let i := Instr.mmat c d a n s0
      ∃ (ms : List MmaStep) (t : State), exec i s = .next t ∧ ms.length = n.toNat ∧
        t = { (s.putCore { k with q9 := k.q9.drop n.toNat, f11 := f11, fmt := { k.fmt with pending := k.fmt.pending ++ ms } }).advance i.len with
              events := s.events ++ List.replicate n.toNat (.mmaTileWrite s.cpu.coreId) } ∧
        ∀ j, (h : j < ms.length) → step ms[j] j ∧ ms[j].aScales = [] ∧ ms[j].aTile.length = 32 * depth ∧
          ∀ x < 32, ∀ y < depth, ms[j].aTile[depth * x + y]? = some (k.fmt.elemAt a x (depth * (s0.toNat + j) + y)))

/-- R113, R338: MMA_TILE_WRITE applies the oldest pending step to its destination tile alone. For an FP32 step, element (i, j) becomes C
plus, each rounded once to nearest, the exact sum of A[i][0] B[0][j] and A[i][1] B[1][j].

R330, R333, R336: MMA_ACCEPT lets the matrix instruction that waits on the core go on once its queues hold what it consumes: the
references are taken, its steps are pending, and the thread is Ready behind it. The tiles it names hold no error. -/
def Obligations.MatrixEvents : Prop :=
  (∀ (k : Nat) (s : State) (m : MmaStep) (ms : List MmaStep), (s.core k).fmt.pending = m :: ms →
     ∃ t f, exec (.mmaTileWrite k) s = .next t ∧ t = s.putCore { s.core k with fmt := f } ∧ f.pending = ms ∧ f.holder = (s.core k).fmt.holder ∧
       f.cfg = (s.core k).fmt.cfg ∧ (∀ d : Tile, d ≠ m.dst → ∀ r q, f.elemAt d r q = (s.core k).fmt.elemAt d r q) ∧
       (m.cfg = 5 → m.aTile = [] → m.aScales = [] → m.bScales = [] → m.aSlot.length = 256 → m.bSlot.length = 256 →
         ∀ i < 32, ∀ j < 32,
           let a (q : Nat) : F32 := wordOf m.aSlot (2 * i + q)
           let b (q : Nat) : F32 := wordOf m.bSlot (32 * q + j)
           expF (a 0) ≠ 255 → expF (a 1) ≠ 255 → expF (b 0) ≠ 255 → expF (b 1) ≠ 255 →
           let e := unitsF (a 0) * unitsF (b 0) + unitsF (a 1) * unitsF (b 1)
           ∃ x : F32, f.elemAt m.dst i j = (fadd 0 ((s.core k).fmt.elemAt m.dst i j) x).1 ∧
             (expF x ≠ 255 → ∀ z : F32, expF z ≠ 255 → (unitsF x * 2 ^ 149 - e).natAbs ≤ (unitsF z * 2 ^ 149 - e).natAbs))) ∧
  (∀ (k h : Nat) (c : Chain) (d a : Tile) (n : BitVec 5) (s0 : BitVec 4) (s : State),
     let s1 := s.focus h
     let q := s.core k
     let f := q.fmt.cfg.toNat % 4
     1 ≤ n.toNat → n.toNat ≤ 16 → guardOn c s1.cpu.p = true → s1.holdsFmt → s1.cpu.coreId = k → d.toNat ∉ q.fmt.badTiles →
     let goes (i : Instr) (q8 : List Word) : Prop := ∃ t u, exec (.mmaAccept k) s = .next t ∧ t.mem = s.mem ∧
       (t.core k).q8 = q8 ∧ (t.core k).q9 = q.q9.drop n.toNat ∧ (t.core k).fmt.pending.length = q.fmt.pending.length + n.toNat ∧
       t.thread? h = some u ∧ u = s1.cpu.goTo (s1.cpu.pc + BitVec.ofNat 64 i.len)
     (s.waitingMma k = some (h, .mma c d n) → q.fmt.cfg.getLsbD 4 = false → s1.stepsReady n.toNat = true → goes (.mma c d n) (q.q8.drop n.toNat)) ∧
     (s.waitingMma k = some (h, .mmasp c d n) → q.fmt.cfg.getLsbD 4 = true → s1.stepsReady n.toNat = true →
       goes (.mmasp c d n) (q.q8.drop n.toNat)) ∧
     (s.waitingMma k = some (h, .mmat c d a n s0) → s1.queueReady f n.toNat (slotLen f) q.q9 q.f11 = true → s1.tileReady a →
       s0.toNat + n.toNat ≤ 32 / (if f = 3 then 32 else if f = 2 then 8 else 2) → goes (.mmat c d a n s0) q.q8))

/-- R349, R351, R352: TZERO clears a tile, TRD reads piece k, its elements 16k to 16k + 15 row by row, into a vector and TWR writes one
from a vector, QBLK gives the scale of a block, and VQNT and VDQNT convert sixteen lanes to and from quarter q of a vector's DL8 bytes.

R340, R342 to R344, R350, R354: TLD fills a tile from an image in plain pages, TST and TSTT store a tile's image, the latter
with the transpose's behind it, and RGROW moves live positions in the W and S tiles and in the mask. The images are those of the
format f: 1 FP32, 2 BF16, 3 DL8 with its block scales behind the codes. Only the tiles, the flags, the bytes and caches change. -/
def Obligations.Tiles : Prop :=
  (∀ (c : Chain) (t : Tile) (s : State), guardOn c s.cpu.p = true → s.cpu.isRill = false → s.cpu.isSluice = false →
     (s.holdsFmt → s.myCore.fmt.busy t = false →
       (∃ f, exec (.tzero c t) s = .next ((s.withFmt f).advance (Instr.tzero c t).len) ∧ 
         f = { s.myCore.fmt with tiles := f.tiles, badTiles := s.myCore.fmt.badTiles.filter fun j => j != t.toNat } ∧
         ∀ d r k, r < 32 → k < 32 → f.elemAt d r k = if d = t then 0 else s.myCore.fmt.elemAt d r k) ∧
       (∀ (a : VReg) (p : BitVec 6), s.usable [] [a] = true → s.tileReady t → ∃ z : Vec,
         exec (.trd c a t p) s = .next ((s.writtenV a z).advance (Instr.trd c a t p).len) ∧
         ∀ l < 16, z.extractLsb' (32 * l) 32 = s.myCore.fmt.elemAt t (p.toNat / 2) (16 * (p.toNat % 2) + l)) ∧
       (∀ (a : VReg) (p : BitVec 6), s.usable [] [a] = true → s.goodV [a] = true → ∃ f,
         exec (.twr c a t p) s = .next ((s.withFmt f).advance (Instr.twr c a t p).len) ∧ f = { s.myCore.fmt with tiles := f.tiles } ∧
         ∀ d r k, r < 32 → k < 32 → f.elemAt d r k = if d = t ∧ (32 * r + k) / 16 = p.toNat
           then s.cpu.v[a.toNat].extractLsb' (32 * (k % 16)) 32 else s.myCore.fmt.elemAt d r k) ∧
       (∀ (a : Reg) (blk : BitVec 4), s.usable [.wr a] [] = true → s.tileReady t →
         let r := blockScale ((List.range 64).map fun j => s.myCore.fmt.elemAt t (8 * (blk.toNat / 4) + j / 8) (8 * (blk.toNat % 4) + j % 8))
         exec (.qblk c a t blk) s = .next ((s.raised r.2).result (.qblk c a t blk) a (r.1.setWidth 64)))) ∧
     (∀ (a b : VReg) (k : RegC) (q : BitVec 2), s.usable [.rd (wide k)] [a, b] = true →
       let sc : F32 := (s.source (wide k)).setWidth 32
       (s.goodV [a, b] = true → ∃ (z : Vec) (f : Flags), exec (.vqnt c a b k q) s = .next (((s.raised f).writtenV a z).advance (Instr.vqnt c a b k q).len) ∧
         (∀ l < 64, z.extractLsb' (8 * l) 8 = if l / 16 = q.toNat then (toDL8 (s.cpu.v[b.toNat].extractLsb' (32 * (l % 16)) 32) sc).1
           else s.cpu.v[a.toNat].extractLsb' (8 * l) 8) ∧
         ∀ j < 5, f.getLsbD j = (List.range 16).any fun l => (toDL8 (s.cpu.v[b.toNat].extractLsb' (32 * l) 32) sc).2.getLsbD j) ∧
       (s.goodV [b] = true → ∃ (z : Vec) (f : Flags), exec (.vdqnt c a b k q) s = .next (((s.raised f).writtenV a z).advance (Instr.vdqnt c a b k q).len) ∧
         (∀ l < 16, z.extractLsb' (32 * l) 32 = (scaleDL8 (s.cpu.v[b.toNat].extractLsb' (8 * (16 * q.toNat + l)) 8) sc).1) ∧
         ∀ j < 5, f.getLsbD j = (List.range 16).any fun l => (scaleDL8 (s.cpu.v[b.toNat].extractLsb' (8 * (16 * q.toNat + l)) 8) sc).2.getLsbD j))) ∧
  (∀ (c : Chain) (t w : Tile) (b : Reg) (off : Word) (f : BitVec 2) (s u : State) (ps : List Place),
     let ea := s.source b + off
     let fmt := s.myCore.fmt
     f ≠ 0 → guardOn c s.cpu.p = true → s.holdsFmt → s.usable [.rd b] [] = true →
     (
       let n := if f = 3 then 1088 else if f = 2 then 2048 else 4096
       fmt.busy t = false → plainPlaces true false (piecesOf ea n) (s.popped b) = .ok (ps, u) → ea.toNat % 64 = 0 → s.rangesFree ps false = true →
       (∀ p ∈ ps, s.readable p MemMode.none = true) →
       let r := ofImage f.toNat (ps.flatMap s.bytesAt)
       ∃ (x : FmtCtx) (v : State), exec (.tld c t b off f) s = .next v ∧
         ((((s.popped b).raised r.2).withFmt x).advance (Instr.tld c t b off f).len).onlyCaches v ∧
         x = { fmt with tiles := x.tiles, badTiles := fmt.badTiles.filter fun j => j != t.toNat } ∧
         ∀ d q k, q < 32 → k < 32 → x.elemAt d q k = if d = t then (r.1[32 * q + k]?).getD 0 else fmt.elemAt d q k) ∧
     (∀ e ∈ ([(Instr.tst c t b off f, imageOf f.toNat), (Instr.tstt c t b off f, twoImages f.toNat)] :
         List (Instr × (List F32 → List Byte × Flags))),
       let r := e.2 fmt.tiles[t.toNat].toList
       s.tileReady t → plainPlaces false true (piecesOf ea r.1.length) (s.popped b) = .ok (ps, u) → ea.toNat % 64 = 0 →
       s.rangesFree ps true = true → s.modeFree MemMode.none = true → (∀ p ∈ ps, s.writable p = true) →
       ∃ v, exec e.1 s = .next v ∧ ((((s.popped b).raised r.2).storedTo ps r.1).advance e.1.len).onlyCaches v) ∧
     (w ≠ t → s.tileReady t → s.tileReady w → plainPlaces true true (piecesOf ea 128) (s.popped b) = .ok (ps, u) → ea.toNat % 32 = 0 →
       s.rangesFree ps true = true → (∀ p ∈ ps, s.readable p MemMode.none = true) → s.modeFree MemMode.none = true →
       (∀ p ∈ ps, s.writable p = true) →
       let r := regrowAll (s.cpu.rgspan.setWidth 32) fmt.tiles[w.toNat].toList fmt.tiles[t.toNat].toList (ps.flatMap s.bytesAt)
       ∃ v, exec (.rgrow c w t b off) s = .next v ∧
         ((((s.popped b).withFmt ((fmt.setTile w (tileOf r.1)).setTile t (tileOf r.2.1))).storedTo ps r.2.2).advance
           (Instr.rgrow c w t b off).len).onlyCaches v))

/-! Tasks (spec/21_tasks_and_tenants.md). -/

/-- R413 to R415, R419, R420, R424 to R427: TQADD enqueues an unqueued task whose DEP is 0, and DEPADD adds to DEP, leaves the old value
in ga, and enqueues the task when DEP reaches 0 from above; STATE becomes 1 and the entry goes to the thread's own cluster while that
lies in the partition and has room. A change of DEP that is refused traps PROT with the old value in AUX. CANCEL enters the instance in
the cancel table once. -/
def Obligations.TaskInstructions : Prop :=
  ∀ (c : Chain) (s : State), guardOn c s.cpu.p = true → s.cpu.isRill = false → s.cpu.isSluice = false →
    let ok (u : State) (v : Word) (x : Xlat) : Prop := v.toNat % 64 = 0 ∧ u.pageAt v true true = some x ∧ x.plainDevice = true ∧
      s.badAt x.key 64 = false ∧ s.testing x.key 64 = false ∧ s.owedAt x.key 64 = false ∧
      s.updating s.cpu.id = false ∧ (s.taskRec x.key).valid = true ∧ ((s.taskRec x.key).sup = true → (s.contextD s.cpu.ctx).priv = true) ∧
      s.rangesFree [rmwPlace x v 64] true = true ∧ s.hostFree x.key 64 = true ∧ s.modeFree MemMode.none = true
    let room : Prop := ∃ k ∈ s.partition s.cpu.tenant, (s.queued k s.cpu.tenant).length < 1024
    let queued (t : State) (v : Word) : Prop := ∃ q, t.queues = s.queues ++ [q] ∧ q.task = v ∧ q.tenant = s.cpu.tenant ∧ q.ctx = s.cpu.ctx ∧
      q.launch = s.cpu.launch ∧ q.rootSup = false ∧ q.resume = none ∧ q.cluster ∈ s.partition s.cpu.tenant ∧
      (s.cpu.clusterId ∈ s.partition s.cpu.tenant → (s.queued s.cpu.clusterId s.cpu.tenant).length < 1024 → q.cluster = s.cpu.clusterId) ∧
      (s.cpu.launch < 64 → (t.launch s.cpu.launch).sent =
        assocSet s.cpu.coreId (assocD 0 s.cpu.coreId (s.launch s.cpu.launch).sent + 1) (s.launch s.cpu.launch).sent)
    (∀ (a : Reg) (x : Xlat), let v := s.source a
      s.usable [.rd a] [] = true → ok (s.popped a) v x → (s.taskRec x.key).state % 4 = 0 → (s.taskRec x.key).dep = 0 → room →
      ∃ t, exec (.tqadd c a) s = .next t ∧ t.cpu = ((s.popped a).advance (Instr.tqadd c a).len).cpu ∧ queued t v ∧
        t.dwordAt (x.key + 0x38) = 1 ∧ s.sameOutside t (x.key + 0x38) 8) ∧
    (∀ (a b : Reg) (x : Xlat), let v := s.source b
      let old := (s.taskRec x.key).dep
      let new := old + ((s.source a).setWidth 32).toInt
      s.usable [.rw a, .rd b] [] = true → ok (s.popped b) v x →
      (0 ≤ new → new < 2 ^ 31 → (s.taskRec x.key).state % 4 = 0 → (new = 0 → old ≠ 0 → room) →
        ∃ t, exec (.depadd c a b) s = .next t ∧ t.cpu = ((s.popped b).result (.depadd c a b) a (BitVec.ofInt 64 old)).cpu ∧
          (t.taskRec x.key).dep = new ∧ (if new = 0 ∧ old ≠ 0 then queued t v ∧ t.dwordAt (x.key + 0x38) = 1 else t.queues = s.queues) ∧
          ∀ p, (p < x.key + 0x24 ∨ x.key + 0x28 ≤ p) → (p < x.key + 0x38 ∨ x.key + 0x40 ≤ p) → Memory.lookup t.mem p = Memory.lookup s.mem p) ∧
      ((new < 0 ∨ 2 ^ 31 ≤ new ∨ (s.taskRec x.key).state % 4 ≠ 0) →
        exec (.depadd c a b) s = .next (takeTrap s 0x05 v (BitVec.ofInt 32 old) (Instr.depadd c a b).len))) ∧
    (∀ a : Reg, s.usable [.rd a] [] = true →
      let inst : BitVec 32 := (s.source a).setWidth 32
      (s.cancelled s.cpu.tenant inst = true → exec (.cancel c a) s = .next ((s.popped a).advance (Instr.cancel c a).len)) ∧
      (s.cancelled s.cpu.tenant inst = false → (s.cancels.filter fun e => e.tenant == s.cpu.tenant).length < 64 →
        ∃ t, exec (.cancel c a) s = .next t ∧ t = { (s.popped a).advance (Instr.cancel c a).len with cancels := t.cancels } ∧
          t.cancels = s.cancels ++ [{ tenant := s.cpu.tenant, inst := inst, launch := s.cpu.launch }] ∧ t.cancelled s.cpu.tenant inst = true))

/-! Multicast (spec/22_links_and_peers.md). -/

/-- R443, R446 to R448: MCST, once no store to their bytes is on its way, sends four vector registers to every peer of its group but
its own, each of which writes them where it grants that, and owes one answer; MCWAIT writes the aggregate and clears it; FFENCE
stores its flag once everything before it is performed at fabric scope. When the targets perform the write and how the bitmap is
read is the model's reading (notes/assumptions/26.md).

R444, R447: MCST_ANSWER counts the positive and the negative answers, keeps the least number of a peer that answered negatively, and
leaves one answer less owed. -/
def Obligations.Multicast : Prop :=
  (∀ (c : Chain) (s : State), guardOn c s.cpu.p = true → s.cpu.isRill = false →
     (∀ (a : VReg) (b : Reg) (k : RegC) (off : Word) (rel : Bool) (x : Xlat) (va : Word) (ps : List Nat) (u : State),
       let ea := s.source b + off
       let targets := ps.filter fun p => p != s.selfNum.toNat
       let line := (List.range 4).flatMap fun j => vecBytes ((s.cpu.v.toList[(a.toNat + j) % 16]?).getD 0)
       a.toNat ≤ 12 → s.usable [.rd b, .rd (wide k)] [a, a + 1, a + 2, a + 3] = true → s.goodV [a, a + 1, a + 2, a + 3] = true → ea.toNat % 256 = 0 → (s.popped b).pageAt ea false true = some x →
       x.entry.kind = 0 → x.home = 3 → (s.source (wide k)).toNat < 1024 → s.groupBitmap s.cpu.ctx (s.source (wide k)).toNat = some va →
       s.cpu.mcOwed < 16 → s.rangesFree [x.place ea 256] true = true →
       (if rel then s.releaseFree .fabric else s.modeFree MemMode.none) = true → readBitmap va ((s.popped b).cached x) = .ok (ps, u) →
       (∀ p ∈ targets, s.owedAt (peerKey p x.pa) 256 = false) →
       ∃ t, exec (.mcst c a b k off rel) s = .next t ∧
         t.cpu = { ((s.popped b).advance (Instr.mcst c a b k off rel).len).cpu with
           homeCoh := true, front := s.cpu.heard, mcOwed := if targets = [] then s.cpu.mcOwed else s.cpu.mcOwed + 1 } ∧
         (∀ p ∈ targets, p < 4096 → x.pa + 256 ≤ 2 ^ 40 → s.peerGrants s.cpu.ctx p x.pa 256 false true = true → Memory.reads t.mem (peerKey p x.pa) 256 = line) ∧
         (∀ q, (∀ p ∈ targets, s.peerGrants s.cpu.ctx p x.pa 256 false true = true → q < peerKey p x.pa ∨ peerKey p x.pa + 256 ≤ q) →
           Memory.lookup t.mem q = Memory.lookup s.mem q) ∧
         (targets ≠ [] → ∃ ok no, Instr.mcstAnswer s.cpu.id ok no ∈ t.events ∧
           (∀ p, p ∈ ok ↔ p ∈ targets ∧ s.peerGrants s.cpu.ctx p x.pa 256 false true = true) ∧
           ∀ p, p ∈ no ↔ p ∈ targets ∧ s.peerGrants s.cpu.ctx p x.pa 256 false true = false)) ∧
     (∀ a : Reg, s.usable [.wr a] [] = true → s.cpu.mcOwed = 0 → s.owesNote s.cpu = false →
       ∃ x : Word, exec (.mcwait c a) s = .next (({ s.written a x with
           cpu := { (s.written a x).cpu with mcPos := 0, mcNeg := 0, mcLow := 0 } } : State).advance (Instr.mcwait c a).len) ∧
         x.extractLsb' 0 16 = s.cpu.mcPos ∧ x.extractLsb' 16 16 = s.cpu.mcNeg ∧ x.getLsbD 44 = (s.cpu.mcNeg != 0) ∧
         x.extractLsb' 32 12 = if s.cpu.mcNeg = 0 then 0 else s.cpu.mcLow) ∧
     (∀ (a b : Reg) (off : Word) (x : Xlat), let ea := (s.sources a b).2 + off
       s.usable [.rd a, .rd b] [] = true → ea.toNat % 8 = 0 → (s.popped2 a b).pageAt ea false true = some x → x.entry.kind = 0 →
       s.rangesFree [x.place ea 8] true = true → s.cpu.batch.unfin = 0 → s.releaseFree .fabric = true → s.storable x 8 = true →
       ∃ t, exec (.ffence c a b off) s = .next t ∧
         (((s.popped2 a b).stored x x.key (leBytes 8 (s.sources a b).1.toNat)).advance (Instr.ffence c a b off).len).onlyCaches t)) ∧
  (∀ (pos neg : List Nat) (s : State), s.cpu.state ≠ .free → (∀ p ∈ neg, p < 4096) →
     ∃ t, exec (.mcstAnswer s.cpu.id pos neg) s = .next { s with cpu := t } ∧
       t = { s.cpu with mcPos := s.cpu.mcPos + BitVec.ofNat 16 pos.length, mcNeg := s.cpu.mcNeg + BitVec.ofNat 16 neg.length,
                        mcLow := t.mcLow, mcOwed := s.cpu.mcOwed - 1 } ∧
       (∀ p ∈ neg, t.mcLow.toNat ≤ p) ∧ (s.cpu.mcNeg ≠ 0 → t.mcLow.toNat ≤ s.cpu.mcLow.toNat) ∧
       (t.mcLow.toNat ∈ neg ∨ t.mcLow = s.cpu.mcLow))

/-! Where the system, aged, cistern, matrix and Turnout forms complete (spec/04_thread_slots.md and the files of their families). -/

/-- R88, R89, R90, R92, R254, R262, R263: GBAR goes on in the sluice slot, and elsewhere once every live member has arrived; END
takes its slot to Draining once no refused store of the thread is still to be reported; MFS and MTS go on for every register at the
level it needs, but MTS not for one that it may not name (R73), and one that moves the tables not before the context's walks end
(R491); ITADV goes on; STA and VSTA go on in a writable aged page, whether their bytes are accepted or discarded. -/
def Obligations.SystemForms : Prop :=
  ∀ (c : Chain) (s : State), guardOn c s.cpu.p = true → s.cpu.isRill = false →
    (s.updating s.cpu.id = false → s.cpu.isSluice = true ∨ (∀ u ∈ s.fellows s.cpu, u.arrived = true) → ∃ t, exec (.gbar c) s = .next t ∧ s.goesOn t (.gbar c)) ∧
    (s.cpu.isSluice = false → s.owesNote s.cpu = false → ∃ t, exec (.endThread c) s = .next t ∧ t.cpu.state = .draining) ∧
    (∀ (a : Reg) (k : BitVec 5), (24 ≤ k.toNat → s.cpu.sup = true) →
      (WellFormed (.mfs c a k) = true → s.usable [.wr a] [] = true → ∃ t, exec (.mfs c a k) s = .next t ∧ s.goesOn t (.mfs c a k)) ∧
      (WellFormed (.mts c a k) = true → s.usable [.rd a] [] = true → ((k = 26 ∨ k = 27) → s.walking s.cpu.ctx = false) → ∃ t, exec (.mts c a k) s = .next t ∧ s.goesOn t (.mts c a k))) ∧
    (∀ n ≠ 0, ∃ t, exec (.itadv c n) s = .next t ∧ s.goesOn t (.itadv c n)) ∧
    (∀ (a b : Reg) (off : Word) (x : Xlat), let ea := (s.sources a b).2 + off
      s.usable [.rd a, .rd b] [] = true → ea.toNat % 4 = 0 → (s.popped2 a b).pageAt ea false true = some x → x.agedPage = true →
      s.rangesFree [agedPlace x ea 4] true = true → s.modeFree MemMode.none = true → s.hostFree x.pa 4 = true → s.testing x.pa 4 = false →
      ∃ t, exec (.sta c a b off) s = .next t ∧ s.goesOn t (.sta c a b off)) ∧
    (∀ (a : VReg) (b : Reg) (off : Word) (x : Xlat), let ea := s.source b + off
      s.usable [.rd b] [a] = true → s.goodV [a] = true → ea.toNat % 64 = 0 → (s.popped b).pageAt ea false true = some x → x.agedPage = true →
      s.rangesFree [agedPlace x ea 64] true = true → s.modeFree MemMode.none = true → s.hostFree x.pa 64 = true → (∀ g ∈ vectorGrains x.entry, s.testing (x.pa + g.1) g.2 = false) →
      ∃ t, exec (.vsta c a b off) s = .next t ∧ s.goesOn t (.vsta c a b off))

/-- R192 to R195, R323 to R325: SMAP goes on with a legal window that meets no other, SUNMAP and SFLUSH for a window of the thread or
one that is not mapped, PFS and PFX always; HCFG goes on with a legal ring, CPOST, CADV, CWAIT and CFREE on a ring with that many
slots empty, filled, filled and empty; XPUSH goes on in the sluice slot with an aligned reference and room in the queue. CPOST, CADV and
XPUSH are release writes, and here wait for no earlier access (R202, R291, R314). That no address stops PFX, one in the handle aperture
among them, is the model's reading (notes/assumptions/53.md). -/
def Obligations.CisternForms : Prop :=
  ∀ (c : Chain) (s : State), guardOn c s.cpu.p = true → s.cpu.isRill = false →
    let mine (w : BitVec 3) : Prop := ∀ x, s.window? s.cpu.coreId w.toNat = some x → x.owner = s.cpu.id
    let goes (i : Instr) : Prop := ∃ t, exec i s = .next t ∧ s.goesOn t i
    (∀ (a b : Reg) (w : BitVec 3), let va := (s.sources a b).1.toNat
      let f := (s.sources a b).2.toNat % 2 ^ 8
      let n := (s.sources a b).2.toNat / 2 ^ 8 % 2 ^ 9
      s.usable [.rd a, .rd b] [] = true → s.windowFree w.toNat = true → va % 512 = 0 → va + 512 * n ≤ 2 ^ 58 → 0 < n → f + n ≤ 256 →
      (∀ x ∈ s.myCore.windows, x.num ≠ w.toNat → overlaps f n x.f x.n = false ∧ overlaps va (512 * n) x.va (512 * x.n) = false) →
      s.linesFailed s.cpu.coreId f n = false → s.linesTested s.cpu.coreId f n = false → s.linesUnpinned s.cpu.coreId f n = true →
      goes (.smap c a b w)) ∧
    (∀ w : BitVec 3, (s.windowFree w.toNat = true → goes (.sunmap c w)) ∧ (mine w → goes (.sflush c w))) ∧
    (∀ (a : Reg) (n : BitVec 4) (cis : Bool), 1 ≤ a.toNat → a.toNat ≤ 122 → s.usable [.run a.toNat, .run (a.toNat + 1), .run (a.toNat + 2), .run (a.toNat + 3)] [] = true →
      s.goodG [a.toNat, a.toNat + 1, a.toNat + 2, a.toNat + 3] = true → goes (.pfs c a n cis)) ∧
    (∀ (b : Reg) (off : Word) (cis : Bool), s.usable [.rd b] [] = true → goes (.pfx c b off cis)) ∧
    (∀ (h : BitVec 3) (b : Reg), let x := (s.source b).toNat
      let base := x % 2 ^ 17
      let size := x / 2 ^ 17 % 2 ^ 18
      let count := x / 2 ^ 35
      let y : Handle := { base := base, size := size, count := count, ch := 0, filled := 0 }
      s.usable [.rd b] [] = true → x < 2 ^ 48 →
      (count = 0 ∨ size % 32 = 0 ∧ 32 ≤ size ∧ size ≤ 131072 ∧ base % 32 = 0 ∧
        badRange s s.cpu.coreId 1 (BitVec.ofNat 64 base) (BitVec.ofNat 64 (size * count)) = false) →
      s.unpinned (8 + h.toNat) = true →
      (∀ j < 256, y.meets j 1 = true → s.linesFailed s.cpu.coreId j 1 = false ∧ s.linesTested s.cpu.coreId j 1 = false) → goes (.hcfg c h b)) ∧
    (∀ (h : BitVec 3) (n : Word), n ≠ 0 → let x := s.myCore.handles[h.toNat]
      x.count ≠ 0 →
      (s.unpinned (8 + h.toNat) = true → s.releaseFree .core = true → s.modeFree MemMode.none = true →
        (n.toNat ≤ x.count - x.filled → goes (.cpost c h n)) ∧ (n.toNat ≤ x.filled → goes (.cadv c h n))) ∧
      (n.toNat ≤ x.count → (n.toNat ≤ x.filled → goes (.cwait c h n)) ∧ (n.toNat ≤ x.count - x.filled → goes (.cfree c h n)))) ∧
    (∀ (a : BitVec 5) (q d : Bool), let x := (s.cpu.reg a.toNat).toNat
      let k := if d then s.cpu.id / 512 * 8 + (s.cpu.ring + 1) % 8 else s.cpu.coreId
      s.cpu.isSluice = true → s.usable [.run a.toNat] [] = true → s.goodG [a.toNat] = true → x < 2 ^ 20 → x % 32 = 0 →
      s.releaseFree .cluster = true → s.modeFree MemMode.none = true →
      (if q then (s.core k).q9 else (s.core k).q8).length < 16 → goes (.xpush c a q d))

/-- R329, R346, R347, R353, R355, R382 to R386, R390 to R394: FMTSET goes on with a free context or, with nothing pending, with the
thread's own; FMTSET #0 with nothing pending or without the context; FMTRD always; MSYNC for the holder with nothing pending; SCPUSH
with a positive finite scale and room, once it waits for no earlier access (R202, R291). With a descriptor of the context, CBPUSH
goes on with bodies that exist, before the sweep is sealed or full, when the die has an entry for it; CBSEAL with a sweep not
running; CBNEXT with a constraint to hand out, or after the end of the sweep; CBDONE with a constraint handed out and not done. -/
def Obligations.MatrixForms : Prop :=
  ∀ (c : Chain) (s : State), guardOn c s.cpu.p = true → s.cpu.isRill = false →
    let goes (i : Instr) : Prop := ∃ t, exec i s = .next t ∧ s.goesOn t i
    (s.cpu.isSluice = false → s.matrixTest s.cpu.clusterId = false →
      (∀ cfg, cfgLegal cfg = true → s.myCore.fmt.holder = none ∨ s.myCore.fmt.holder = some s.cpu.id ∧ s.myCore.fmt.pending = [] → goes (.fmtset c cfg)) ∧
      (s.myCore.fmt.holder ≠ some s.cpu.id ∨ s.myCore.fmt.pending = [] → goes (.fmtsetRelease c)) ∧
      (∀ a, s.usable [.wr a] [] = true → goes (.fmtrd c a)) ∧
      (s.myCore.fmt.holder = some s.cpu.id → s.myCore.fmt.pending = [] → goes (.msync c))) ∧
    (∀ (a : Reg) (q : Bool), let x : F32 := (s.source a).setWidth 32
      s.cpu.isSluice = false → s.usable [.rd a] [] = true → expF x ≠ 255 → 0 < unitsF x → s.releaseFree .core = true → s.modeFree MemMode.none = true →
      (if q then s.myCore.f11 else s.myCore.f10).length < 256 → goes (.scpush c a q)) ∧
    (∀ (a b : Reg) (k : RegC) (home : Nat) (table : List Nat) (entry : Nat) (u v : State),
      let g := s.cpu.reg k.toNat
      let h := s.cpu.reg (k.toNat + 1)
      let dw (j : Nat) : Nat := (s.dwordAt (home + 8 * j)).toNat
      let n := ((s.sweep? home).map fun w => w.items.length).getD 0
      1 ≤ k.toNat → k.toNat ≤ 62 → s.usable [.wr a, .rd b, .run k.toNat, .run (k.toNat + 1)] [] = true → s.goodG [k.toNat, k.toNat + 1] = true →
      s.releaseFree .device = true → s.modeFree MemMode.none = true → (s.popped b).descriptorAt home u → g.toNat < 2 ^ 50 → h.toNat < 2 ^ 48 →
      (∀ w, s.sweep? home = some w → w.running = false) → (s.sweep? home = none →
        dw 4 % 4 = 0 ∧ (s.sweeps.filter fun x => x.home / 2 ^ 37 == home / 2 ^ 37).length < 8) →
      0 < dw 1 → dw 1 ≤ 2 ^ 24 → 0 < dw 3 → dw 3 ≤ 2 ^ 24 → dw 2 % 32 = 0 → n ≠ dw 3 → (∀ x ∈ bodiesOf g h, x < dw 1) →
      u.placesOf ((bodiesOf g h).map (fun x => BitVec.ofNat 64 (dw 0 + x)) ++ [BitVec.ofNat 64 (dw 2 + 32 * n)]) = some (table ++ [entry], v) →
      (∀ p ∈ table, s.badAt p 1 = false ∧ s.testing p 1 = false ∧ s.owedAt p 1 = false ∧ s.hostFree p 1 = true) →
      s.hostFree entry 32 = true → s.testing entry 32 = false → s.hostFree (home + 32) 16 = true → s.testing (home + 32) 16 = false → goes (.cbpush c a b k)) ∧
    (∀ (home : Nat) (u : State) (w : Sweep), s.descriptorAt home u → s.sweep? home = some w → w.running = false → s.sweepFree w → goes (.cbseal c)) ∧
    (∀ (a : Reg) (home : Nat) (u : State), s.descriptorAt home u → s.usable [.run a.toNat, .run (a.toNat + 1)] [] = true →
      s.sweep? home = none ∧ (s.dwordAt (home + 32)).toNat % 4 = 3 ∨
        (∃ w l i x, s.sweep? home = some w ∧ w.running = true ∧ w.openLevel = some l ∧ nextOf l w.items 0 = some (i, x) ∧
          s.badAt x.entry 8 = false ∧ s.testing x.entry 8 = false ∧ s.owedAt x.entry 8 = false) → goes (.cbnext c a)) ∧
    (∀ (a : Reg) (home : Nat) (u : State) (w : Sweep) (x : Constraint), s.usable [.rd a] [] = true → (s.popped a).descriptorAt home u →
      s.sweep? home = some w → w.running = true → w.items[(s.source a).toNat]? = some x → x.handed = true → x.done = false → s.sweepFree w →
      goes (.cbdone c a))

/-! The context supervisor (spec/10_traps_and_preemption.md). -/

/-- R227, R229, R403: NOTIFICATION_RECORD writes the record at its place in the context's ring and raises HEAD by 1; nothing else of
memory changes, a record of kind 1, 3 or 5 awaits its ACTION, and one of kind 1 or 3 is counted in its launch. The record waits for
the updates of its thread (R225, R291) and while the ring is full; and while the host holds a copy of a line that it writes, it
waits for the host's answer (R432). The record goes to the supervisor block in which its writing has begun, or else to that of
SUPVEC (R226, R491). Which doublewords are written and when an ACTION is seen is the model's reading (notes/assumptions/24.md).

R228, R240: an ACTION of 1, 2 or 3 makes the halted thread go on at the record's TRAPPC, past its chain, or at NEWPC, with HND
cleared when the record's cause is TRAPNEST; a NEWPC that R37 forbids gets a new record; any other ACTION removes the thread, which
drains. An ACTION for a member whose gang is away waits (R237). Bit 0 of the PC stays 0 (R26; notes/assumptions/43.md). An ACTION or
a NEWPC that is not delivered is not taken, which is the model's choice (notes/assumptions/63.md). The record stands in the
supervisor block in which it was written (R226, R491).

R228, R238: for a record of kind 3 an ACTION of 1 to 3 queues the spilled gang for restore again, or the queued task for another
try; action 4 or above removes it, which completes its task. Here the task has no successors, the gang waits for no page future, and
the host holds no copy of its record. -/
def Obligations.SupervisorRecords : Prop :=
  (∀ (n : Note) (s : State) (c : Context), s.context? n.ctx = some c → n.block.getD c.supBlock + 65536 ≤ Config.deviceBytes →
     let b := n.block.getD c.supBlock
     let head := s.dwordAt b
     let a := b + 0x4000 + 64 * (head.toNat % 256)
     let full : Bool := decide (256 ≤ (head - s.dwordAt (b + 8)).toNat)
     (s.noteWaits n = true ∨ s.badAt b 16 = false ∧ full = true →
       exec (.notificationRecord n) s = .next { s with events := s.events ++ [.notificationRecord n] }) ∧
     (s.noteWaits n = false → s.badAt b 16 = false → full = false → (s.dirs.map DirEntry.grain).Nodup → s.hostFree b 8 = false ∨ s.hostFree a 8 = false →
       ∃ t, exec (.notificationRecord n) s = .next t ∧ t = { s with events := t.events } ∧
         .notificationRecord { n with block := some b } ∈ t.events ∧
         ∃ d ∈ s.dirs, (d.hostA = true ∨ d.hostB = true) ∧ .backInvalidationAnswer (if d.hostA then .a else .b) d.grain ∈ t.events) ∧
     (s.noteWaits n = false → s.badAt b 16 = false → full = false → s.hostFree b 8 = true → s.hostFree a 64 = true → ∃ t, exec (.notificationRecord n) s = .next t ∧ t.dwordAt b = head + 1 ∧
       t.dwordAt a = BitVec.ofNat 64 (n.kind.toNat + n.cause.toNat * 2 ^ 8 + n.rank.toNat * 2 ^ 16) ∧
       t.dwordAt (a + 0x08) = n.taskid ∧ t.dwordAt (a + 0x10) = n.trappc ∧ t.dwordAt (a + 0x18) = n.trapval ∧
       t.dwordAt (a + 0x20) = BitVec.ofNat 64 (n.aux.toNat + n.len.toNat * 2 ^ 40) ∧ t.dwordAt (a + 0x30) = n.savearea ∧
       t.dwordAt (a + 0x28) = s.dwordAt (a + 0x28) ∧ (n.cause = 0x14 → t.dwordAt (a + 0x38) = n.newpc) ∧
       (∀ q, (q < a ∨ a + 64 ≤ q) → (q < b ∨ b + 8 ≤ q) → Memory.lookup t.mem q = Memory.lookup s.mem q) ∧
       t.records = (if n.kind = 1 ∨ n.kind = 3 ∨ n.kind = 5 then s.records ++ [{ ctx := n.ctx, k := head.toNat, block := b, note := n }]
         else s.records) ∧
       (∀ k, k < 64 → (t.launch k).escal = (s.launch k).escal + if (n.kind = 1 ∨ n.kind = 3) ∧ n.launch = k then 1 else 0) ∧
       t.cpu = s.cpu ∧ t.others = s.others)) ∧
  (∀ (ctx k : Nat) (s : State) (c : Context) (r : OutRec) (t : Thread),
     s.context? ctx = some c → s.awaiting ctx k = some r → r.note.kind ≠ 3 →
     let a := r.block + 0x4000 + 64 * (r.k % 256)
     s.badAt (a + 0x28) 8 = false →
     (s.memberAway r.note.target = true → s.dwordAt (a + 0x28) ≠ 0 →
       exec (.supervisorAction ctx k) s = .next { s with events := s.events ++ [.supervisorAction ctx k] }) ∧
     (s.memberAway r.note.target = false → s.haltedThread r.note.target = some t → s.thread? t.id = some t →
     let action := s.dwordAt (a + 0x28)
     let newpc := s.dwordAt (a + 0x38)
     let closed : State := { s with records := s.records.filter fun x => !(x.ctx == r.ctx && x.k == r.k && x.block == r.block) }
     let on (pc : Word) : Thread :=
       { t.goTo (pc &&& ~~~1#64) with trapcause := if r.note.cause = 0x14 then t.trapcause &&& ~~~(1#64 <<< 16) else t.trapcause }
     (action = 1 → exec (.supervisorAction ctx k) s = .next (closed.putThread (on r.note.trappc))) ∧
     (action = 2 → exec (.supervisorAction ctx k) s = .next (closed.putThread (on (r.note.trappc + r.note.len.setWidth 64)))) ∧
     let good := s.badAt (a + 0x38) 8 = false
     (action = 3 → good → legalTarget newpc = true → exec (.supervisorAction ctx k) s = .next (closed.putThread (on newpc))) ∧
     (action = 3 → good → legalTarget newpc = false → exec (.supervisorAction ctx k) s = .next { closed with
       events := s.events ++ [.notificationRecord { r.note with
         kind := 1, cause := if newpc.getLsbD 0 then 0x04 else 0x05, trapval := newpc, aux := 0, newpc := 0, block := none }] }) ∧
     (3 < action.toNat → t.isSluice = false → ∃ u v, exec (.supervisorAction ctx k) s = .next u ∧ u.thread? t.id = some v ∧
       v = { t.unwait with state := .draining, ended := true, lastSealed := false, counted := 0 } ∧
       .endDrainComplete t.id ∈ u.events))) ∧
  (∀ (ctx k : Nat) (s : State) (c : Context) (r : OutRec), s.context? ctx = some c →
     s.awaiting ctx k = some r → r.note.kind = 3 → s.badAt (r.block + 0x4000 + 64 * (r.k % 256) + 0x28) 8 = false →
     let action := s.dwordAt (r.block + 0x4000 + 64 * (r.k % 256) + 0x28)
     let closed : State := { s with records := s.records.filter fun x => !(x.ctx == r.ctx && x.k == r.k && x.block == r.block) }
     (∀ id g, r.note.target = .gang id → s.gang? id = some g → 1 ≤ action.toNat → action.toNat ≤ 3 →
       exec (.supervisorAction ctx k) s = .next ((closed.putGang { g with state := .restore }).post (.gangRestore id))) ∧
     (∀ id g h, r.note.target = .gang id → s.gang? id = some g → 3 < action.toNat →
       s.engineReach (g.home / 64) g.ctx g.task 64 true true = some h → (s.taskRec h).nsucc = 0 →
       (∀ f ∈ g.faulters, 1024 ≤ f.2.2) → s.hostFree (h + 0x38) 8 = true →
       ∃ u, exec (.supervisorAction ctx k) s = .next u ∧ u.gang? id = none ∧ u.dwordAt (h + 0x38) = 3 ∧ s.sameOutside u (h + 0x38) 8 ∧
         (∀ j, j < 64 → (u.launch j).tasks = (s.launch j).tasks + if g.launch = j then 1 else 0)) ∧
     (∀ cl ten va q, r.note.target = .task cl ten va →
       first? (fun q => q.cluster == cl && q.tenant == ten && q.task.toNat == va && q.reported) s.queues = some q →
       1 ≤ action.toNat → action.toNat ≤ 3 → ∃ u, exec (.supervisorAction ctx k) s = .next u ∧ u = { closed with queues := u.queues } ∧
         u.queues.length = s.queues.length ∧ { q with reported := false } ∈ u.queues))

/-- R231, R232: FUTURE_COMPLETE queues every gang that waits for the entry, or for any, for restore, and lets the threads that wait in
their slots go on; those that waited for this entry take NOMAP if it was refused. STATE and the count of waiting gangs become 0, and a
gang that waited for other entries too leaves their counts, each of which is one less for each such gang.
How STATE is tested and what a wait for any entry does is the model's reading (notes/assumptions/23.md). -/
def Obligations.Futures : Prop :=
  ∀ (ctx idx : Nat) (s : State) (c : Context), s.context? ctx = some c → c.num = ctx → idx < 1024 → (s.gangs.map Gang.id).Nodup →
    s.hostFree (c.supBlock + 0x8000) 0x4000 = true → s.badAt (c.supBlock + 0x8000 + 16 * idx) 8 = false →
    let f := c.supBlock + 0x8000 + 16 * idx
    let waits (g : Gang) : Bool := g.ctx == ctx && (g.state == .future idx || g.state == .anyFuture)
    let d := (s.dwordAt f).toNat
    2 ≤ d % 4 → ∃ t, exec (.futureComplete ctx idx) s = .next t ∧ t.dwordAt f = BitVec.ofNat 64 (d / 4 * 4) ∧ t.dwordAt (f + 8) = 0 ∧
      (∀ q, (q < f ∨ f + 16 ≤ q) → (∀ j < 1024, q < c.supBlock + 0x8008 + 16 * j ∨ c.supBlock + 0x8010 + 16 * j ≤ q) →
        Memory.lookup t.mem q = Memory.lookup s.mem q) ∧
      (∀ j < 1024, j ≠ idx → t.dwordAt (c.supBlock + 0x8008 + 16 * j) = BitVec.ofNat 64 ((s.dwordAt (c.supBlock + 0x8008 + 16 * j)).toNat -
        s.gangs.countP fun g => waits g && g.faulters.any fun x => x.2.2 == j)) ∧
      (∀ g ∈ s.gangs, waits g = true → .gangRestore g.id ∈ t.events ∧
        ∃ g' ∈ t.gangs, g' = { g with state := .restore, faulters := g'.faulters } ∧ ∀ x, x ∈ g'.faulters ↔
          x.2.2 = 1025 ∧ (x ∈ g.faulters ∨ d % 4 = 3 ∧ (x.1, x.2.1, idx) ∈ g.faulters)) ∧
      (∀ g ∈ s.gangs, waits g = false → ∃ g' ∈ t.gangs, g' = { g with faulters := g'.faulters } ∧ (g.ctx ≠ ctx → g' = g)) ∧
      (∀ u ∈ s.threads, u.ctx = ctx → (u.future = some idx ∨ u.future = some 1024) →
        { u with future := none, nomap := (if d % 4 = 3 ∧ u.future = some idx then u.nomap else none),
                 state := (if u.state = .parked then .ready else u.state) } ∈ t.threads)

/-! Spill and restore (spec/10_traps_and_preemption.md). -/

/-- R230 to R235, R417, R490: a spill waits while a member cannot be saved; a record that fails its check halts every member instead, each
with a record of its own that names the first failing record by rank; otherwise every member leaves its slot, and the gang waits for the
first page future that a member met, or else for a restore or, pre-empted, at the head of its queue. The PC, the predicate word, the
registers and the vectors of a gang's only member stand in its record, and nothing else of memory has changed.
What makes a spill wait and what a refused one leaves is the model's reading (notes/assumptions/22.md). -/
def Obligations.GangSpills : Prop :=
  ∀ (id : Nat) (why : SpillWhy) (s : State) (g : Gang), s.gang? id = some g → (g.state = .running ∨ g.state = .loading) →
    let s1 := s.stopGang id
    let ts := s1.membersOf id
    let pages (t : Thread) := s1.savePages t.die t.ctx (saveVa t.savearea t.rank.toNat) false true
    (ts.any s1.unsavable = true → exec (.gangSpill id why) s = .next { s1 with events := s1.events ++ [.gangSpill id why] }) ∧
    (ts.any s1.unsavable = false → (∃ t ∈ ts, pages t = none) → (∀ f ∈ g.faulters, 1024 ≤ f.2.2) → (ts.map Thread.id).Nodup →
      ∃ u, exec (.gangSpill id why) s = .next u ∧ u.mem = s.mem ∧
      (∃ g', u.gang? id = some g' ∧ g'.state = g.state ∧ g'.faulters = []) ∧ (∀ e ∈ u.events, isSpillOf id e = false) ∧
      ∃ bad ∈ ts, pages bad = none ∧ (∀ t ∈ ts, pages t = none → bad.rank.toNat ≤ t.rank.toNat) ∧
        ∀ t ∈ ts, u.thread? t.id = some { t with state := .halted } ∧ ∃ n, .notificationRecord n ∈ u.events ∧ n.kind = 1 ∧ n.cause = 0x05 ∧
          n.rank = t.rank ∧ n.trappc = t.pc ∧ n.trapval = saveVa bad.savearea bad.rank.toNat) ∧
    (ts.any s1.unsavable = false → (∀ t ∈ ts, pages t ≠ none) → s.hostless → ∃ u, exec (.gangSpill id why) s = .next u ∧
      (∀ t ∈ ts, u.thread? t.id = none) ∧
      (∃ g', u.gang? id = some g' ∧
        (∀ f, f ∈ g'.faulters ↔ f ∈ g.faulters ∨ ∃ t ∈ ts, ∃ va, t.nomap = some va ∧ f = (t.rank.toNat, va, 1025)) ∧
        ((∃ f ∈ g.faulters, f.2.2 ≤ 1024) →
          ∃ f ∈ g.faulters, f.2.2 ≤ 1024 ∧ g'.state = if f.2.2 = 1024 then .anyFuture else .future f.2.2) ∧
        ((∀ f ∈ g.faulters, 1024 < f.2.2) →
          (why ≠ .preempt → g'.state = .restore ∧ .gangRestore id ∈ u.events) ∧
          (why = .preempt → g'.state = .resume ∧ ∃ q, u.queues = q :: s.queues ∧ q.resume = some id ∧ q.cluster = g.home ∧ q.tenant = g.tenant))) ∧
      (∀ t p, ts = [t] → pages t = some p → (p.lo + 0x4000 ≤ p.hi ∨ p.hi + 0x4000 ≤ p.lo) →
        u.dwordAt (p.lo + 8) = t.pc ∧ u.dwordAt (p.lo + 0x10) = t.p.setWidth 64 ∧ (u.dwordAt p.lo).getLsbD 0 = true ∧
        ((u.dwordAt p.lo).getLsbD 1 = true ↔ t.state = .halted) ∧
        (∀ j, j < 128 → u.dwordAt (p.lo + 0x200 + 8 * j) = if j < t.nregs then t.reg j else 0) ∧
        (∀ j, (h : j < 16) → Memory.reads u.mem (p.lo + 0x600 + 64 * j) 64 = vecBytes t.v[j]) ∧
        ∀ q, (q < p.lo ∨ p.lo + 0x4000 ≤ q) → (q < p.hi ∨ p.hi + 0x4000 ≤ q) → Memory.lookup u.mem q = Memory.lookup s.mem q))

/-- R236, R237: once every live member can be placed the gang is restored, each loaded thread becomes Ready when its load ends, and a
gang that cannot be placed yet stays queued; every member in a slot is what its record gives, at the place it was given: its PC,
predicate word, registers and vectors. A register or vector that the record does not deliver holds an error (R18); a header that is not
delivered halts the member (notes/assumptions/40.md); bit 0 of a restored PC is 0 (R26; notes/assumptions/43.md).
Where a gang is placed, and when it never can be, is the model's reading (notes/assumptions/22.md).

R52, R68, R237: THREAD_LOAD_COMPLETE makes the slot Ready; the members of a restored gang become Ready together, at the last load. -/
def Obligations.GangRestores : Prop :=
  (∀ (id : Nat) (s : State) (g : Gang), s.gang? id = some g → g.state = .restore →
     (∀ u, s.restoreGang g (g.home :: s.partition g.tenant) = some u → exec (.gangRestore id) s = .next u ∧
       (∃ g', u.gang? id = some g' ∧ g'.faulters = [] ∧
         (g'.state = .running ∨ g'.state = .loading) ∧ (g'.state = .running → ∀ t ∈ u.membersOf id, t.state = .halted)) ∧
       (∀ t ∈ u.membersOf id, t.state = .loading → .threadLoadComplete t.id ∈ u.events) ∧
       (s.membersOf id = [] → ∀ t ∈ u.membersOf id, ∃ m ∈ g.members, ∃ p, m.live = true ∧
         s.savePages (m.slot / 2 ^ 15 % 8) g.ctx (saveVa m.save m.rank) true false = some p ∧
         t = { s.loadThread g m p with id := t.id, rbase := t.rbase, vbase := t.vbase }) ∧
       (s.membersOf id = [] → (g.members.map Member.rank).Nodup → ∀ m ∈ g.members, m.live = true → m.rank < 2016 →
         ∃ t ∈ u.membersOf id, t.rank.toNat = m.rank)) ∧
     (s.restoreGang g (g.home :: s.partition g.tenant) = none → s.seatsOf g g.members = none →
       exec (.gangRestore id) s = .next { s with events := s.events ++ [.gangRestore id] }) ∧
     (∀ m ms, s.restoreGang g (g.home :: s.partition g.tenant) = none → s.seatsOf g g.members = some (m :: ms) →
       s.neverFits g (m :: ms) = true → ∃ u n, exec (.gangRestore id) s = .next u ∧ (∃ g', u.gang? id = some g' ∧ g'.state = .unplaceable) ∧
         .notificationRecord n ∈ u.events ∧ n.kind = 3 ∧ n.cause = 0x16 ∧ n.taskid = g.task) ∧
     ∀ (m : Member) (p : SavePages), let t := s.loadThread g m p
       (s.badHeader p = false → t.pc = s.dwordAt (p.lo + 8) &&& ~~~1#64 ∧ t.p = ((s.dwordAt (p.lo + 0x10)).setWidth 16 ||| 1)) ∧
       t.gang = g.id ∧ t.ctx = g.ctx ∧
       (t.state = .halted ↔ (s.dwordAt p.lo).getLsbD 1 = true ∨ s.badHeader p = true) ∧ (t.state ≠ .halted → t.state = .loading) ∧
       (∀ j, j < 128 → (j ∈ t.badG ↔ 0 < j ∧ j < g.nregs ∧ s.badAt (p.lo + 0x200 + 8 * j) 1 = true)) ∧
       (∀ j, 0 < j → j < g.nregs → j < 128 → s.badAt (p.lo + 0x200 + 8 * j) 1 = false → t.reg j = s.dwordAt (p.lo + 0x200 + 8 * j)) ∧
       (∀ j, j ∈ t.badV ↔ j < g.nvregs ∧ s.badAt (p.lo + 0x600 + 64 * j) 64 = true) ∧
       ∀ j, (h : j < 16) → j < g.nvregs → s.badAt (p.lo + 0x600 + 64 * j) 64 = false →
         vecBytes t.v[j] = Memory.reads s.mem (p.lo + 0x600 + 64 * j) 64) ∧
  (∀ (slot : Nat) (s : State) (t : Thread) (g : Gang), s.thread? slot = some t → t.state = .loading → s.gang? t.gang = some g →
     (g.state ≠ .loading → exec (.threadLoadComplete slot) s = .next (s.putThread { t with state := .ready })) ∧
     (g.state = .loading → s.loading g.id = true → exec (.threadLoadComplete slot) s = .next s) ∧
     (g.state = .loading → s.loading g.id = false → ∃ u, exec (.threadLoadComplete slot) s = .next u ∧
       (∃ g', u.gang? g.id = some g' ∧ g' = { g with state := .running }) ∧
       ∀ x ∈ s.membersOf g.id, x.state = .loading → { x with state := .ready } ∈ u.membersOf g.id))

/-- R92, R93, R318, R319, R329, R412, R413: the steps of a drain. END_DRAIN_COMPLETE seals the open batch once and comes back
while a batch is unfinished; reports the oldest failure of a thread that executed END; then waits for the pending matrix steps; then
frees the format context and drops the reservation, and waits while a record of the thread is owed, an update of it is on its way, or a
gather that waits has checked what it holds. Then the slot becomes Free, and when no
other member was left the task completes: STATE becomes 3, it is counted, and its successors are counted down, a successor whose DEP
reaches 0 being enqueued.
Which member completes the task, what an unreadable record does, and that an open batch without requests is sealed too, are the model's
readings (notes/assumptions/21.md, 25.md, 64.md). -/
def Obligations.DrainEnds : Prop :=
  ∀ (slot : Nat) (s : State) (t : Thread), s.thread? slot = some t → t.state = .draining →
    let dw (a : Nat) : Nat := (s.dwordAt a).toNat
    let back (u : State) : Prop := exec (.endDrainComplete slot) s = .next { u with events := u.events ++ [.endDrainComplete slot] }
    let mine := s.core t.coreId
    let finished : Prop := t.lastSealed = true ∧ t.batch.unfin = 0 ∧ (t.held.isSome = true → t.batch.failed 64 = none)
    (t.lastSealed = true → t.batch.unfin ≠ 0 → back s) ∧
    (t.lastSealed = false → t.batch.unfin = 64 → back s) ∧
    (t.lastSealed = false → t.batch.unfin < 64 → (t.held.isSome = true → batchFail (t.batch.at t.batch.sealedNo.toNat) = 0) →
      back (s.putThread { t with batch := t.batch.sealOpen, lastSealed := true })) ∧
    (∀ i, t.lastSealed = false → t.batch.unfin < 64 → t.held = some i → batchFail (t.batch.at t.batch.sealedNo.toNat) ≠ 0 →
      exec (.endDrainComplete slot) s = .next (s.reportDrain t (t.batch.reportOf (t.batch.back 64)).1 (t.batch.reportOf (t.batch.back 64)).2.1
        (t.batch.reportOf (t.batch.back 64)).2.2 (t.batch.back 64))) ∧
    (∀ i k, t.lastSealed = true → t.batch.unfin = 0 → t.held = some i → t.batch.failed 64 = some k →
      exec (.endDrainComplete slot) s = .next (s.reportDrain t (t.batch.reportOf k).1 (t.batch.reportOf k).2.1 (t.batch.reportOf k).2.2 k)) ∧
    (finished → mine.fmt.holder = some t.id → mine.fmt.pending ≠ [] → back s) ∧
    (finished → (mine.fmt.holder = some t.id → mine.fmt.pending = []) →
      (s.drainWaits t = true → ∃ u, back u ∧ u.thread? slot = some t ∧ (u.core t.coreId).fmt.holder ≠ some t.id ∧
        ∀ r ∈ u.resvs, r.holder ≠ t.id) ∧
      (s.drainWaits t = false → s.hostless →
        ((t.isRill = true ∨ ∀ g, s.gang? t.gang = some g → g.completer ≠ some t.id) →
          ∃ u, exec (.endDrainComplete slot) s = .next u ∧ u.thread? slot = none ∧ u.mem = s.mem) ∧
        (∀ g h, t.isRill = false → s.gang? t.gang = some g → g.completer = some t.id → t.counted = 0 →
          s.engineReach t.die t.ctx g.task 64 true true = some h →
          ((s.taskRec h).nsucc = 0 → ∃ u, exec (.endDrainComplete slot) s = .next u ∧ u.thread? slot = none ∧ u.dwordAt (h + 0x38) = 3 ∧
            s.sameOutside u (h + 0x38) 8 ∧ ∀ j, j < 64 → (u.launch j).tasks = (s.launch j).tasks + if g.launch = j then 1 else 0) ∧
          (∀ l k, (s.taskRec h).nsucc = 1 → s.engineReach t.die t.ctx (s.taskRec h).succ 8 true false = some l → dw l % 64 = 0 →
            s.engineReach t.die t.ctx (s.dwordAt l) 64 true true = some k → (k + 64 ≤ h ∨ h + 64 ≤ k) →
            1 ≤ (s.taskRec k).dep → (s.taskRec k).state % 4 = 0 →
            ((s.taskRec k).dep ≠ 1 ∨ (∃ cl ∈ s.partition t.tenant, (s.queued cl t.tenant).length < 1024) →
              ∃ u, exec (.endDrainComplete slot) s = .next u ∧ u.thread? slot = none ∧ u.dwordAt (h + 0x38) = 3 ∧
                (u.taskRec k).dep = (s.taskRec k).dep - 1 ∧
                ((s.taskRec k).dep = 1 → (u.taskRec k).state = 1 ∧ ∃ q, u.queues = s.queues ++ [q] ∧ q.task = s.dwordAt l ∧
                  q.tenant = t.tenant ∧ q.ctx = t.ctx ∧ q.launch = t.launch ∧ q.cluster ∈ s.partition t.tenant) ∧
                ((s.taskRec k).dep ≠ 1 → u.queues = s.queues)) ∧
            ((s.taskRec k).dep = 1 → (∀ cl ∈ s.partition t.tenant, 1024 ≤ (s.queued cl t.tenant).length) →
              ∃ u v, back u ∧ u.thread? slot = some v ∧ v = { t with counted := v.counted } ∧ u.mem = s.mem)))))

/-- R299, R422, R484, R486: a core that changes context comes out empty: no window, handle, queued reference, stream, format context or
untracked copy is left and its cistern reads 0, its sluice slot starts the standard program, and the scrub is logged. -/
def Obligations.CoreScrubs : Prop :=
  ∀ (core ctx : Nat) (s : State) (c : Context), s.context? ctx = some c → core < 3072 → (s.core core).ctx ≠ some ctx → s.coreEmpty core = true →
    ∃ u, exec (.coreContextScrub core ctx) s = .next u ∧ u.core core = { Core.fresh core with cycle := (s.core core).cycle, ctx := some ctx } ∧
      (∀ o, o < Config.cisternBytes → Memory.lookup u.mem (cisternKey core o) = 0) ∧
      (∀ a, a < cisternKey core 0 ∨ cisternKey core Config.cisternBytes ≤ a → Memory.lookup u.mem a = Memory.lookup s.mem a) ∧
      (∀ x ∈ u.copies, x.holder ≠ core) ∧ (∀ h ∈ u.tracked, h.core ≠ core) ∧
      (∃ t, u.thread? (64 * core + 63) = some t ∧ t.pc = BitVec.ofNat 64 Config.sluiceCode ∧ t.state = .ready ∧ t.sup = true ∧ t.ctx = ctx ∧
        ∀ j, t.reg j = 0) ∧ .scrubComplete ctx 1 core ∈ u.events

/-! Answers to waiting instructions, walks and rills on the move (spec/04, spec/07, spec/13). -/

/-- R50, R251, R276 to R278, R303, R433 to R438: an answer or a timeout of a request is kept for the instruction that waits for it,
for a copy's source and its destination apart, and a completion from the host passes no posted write; for a thread that waits for
none, an answer is for its oldest store to a peer, which is performed, or dropped and reported; a loss notice, with every other one
on its way to the same core, ends the reservations they name and no later ones; the limit of a WAITR or of an aged load, once it has
passed, is noted for the parked instruction, and the entries of the aged load are withdrawn from the weir. What else may change is
said with each. That a peer acknowledges the stores of a slot in the order sent, and that one completion brings in the posted writes
of both ports, are the model's readings (notes/assumptions/26.md, 27.md); a dropped update counts as received
(notes/assumptions/5.md).

R176, R177, R281, R282, R292, R420: a slice core with a free slot that no earlier ticket is for accepts a rill in the
lowest-numbered one (notes/assumptions/35.md), which starts with the state of a spawn; else the rill is refused, which is counted,
and comes back. A rill that migrates keeps all of its state but its slot and its reservation, what is owed to it follows it, and no
other thread changes. Both count as messages of the launch. -/
def Obligations.Replies : Prop :=
  (∀ (slot : Nat) (s : State) (t : Thread), s.thread? slot = some t →
     (t.reply = .waiting →
       (t.awaits ≠ none ∨ s.portA.posts = [] ∧ s.portB.posts = [] →
         exec (.accessReply slot .ok) s = .next (s.putThread { t with reply := .done })) ∧
       (∃ u, exec (.accessReply slot .ok) s = .next u ∧ u.thread? slot = some { t with reply := .done } ∧
         (t.awaits = none → u.portA.posts = [] ∧ u.portB.posts = [])) ∧
       exec (.accessReply slot .unsupported) s = .next (s.putThread { t with reply := .unsupported }) ∧
       exec (.accessReply slot .error) s = .next (s.putThread { t with reply := .failed }) ∧
       exec (.completionTimeout slot) s = .next (s.putThread { t with reply := .failed })) ∧
     (∀ f, t.reply = .ending f →
       (∃ u, exec (.accessReply slot .ok) s = .next u ∧ u.thread? slot = some { t with reply := .ended f }) ∧
       (∀ a, a ≠ .ok → exec (.accessReply slot a) s = .next (s.putThread { t with reply := .endFailed f })) ∧
       exec (.completionTimeout slot) s = .next (s.putThread { t with reply := .endFailed f })) ∧
     (∀ o, t.reply.out = false → first? (fun o => o.slot == slot) s.owedStores = some o →
       let rest : State := { s with owedStores := dropFirst (fun o => o.slot == slot) s.owedStores }
       let dropped : State := { rest with events := s.events ++ [.notificationRecord o.note] }
       (∀ k bs, o.what = .bytes k bs → exec (.accessReply slot .ok) s = .next (rest.homeWrite k bs) ∧
         exec (.accessReply slot .error) s = .next dropped) ∧
       (∀ q, o.what = .update q → exec (.accessReply slot .error) s = .next (dropped.modLaunch q.launch fun l =>
         { l with received := assocSet (8192 + sliceOf q.addr) (assocD 0 (8192 + sliceOf q.addr) l.received + 1) l.received }))) ∧
     (∀ rid, ∃ u, exec (.lossNotice slot rid) s = .next u ∧ u = { s with cpu := u.cpu, others := u.others, events := u.events } ∧
       (∀ e, e ∈ u.events ↔ e ∈ s.events ∧ ∀ n r, e = .lossNotice n r → n / 64 ≠ slot / 64) ∧
       (∀ n, n / 64 ≠ slot / 64 → u.thread? n = s.thread? n) ∧
       ∀ n v, n / 64 = slot / 64 → s.thread? n = some v →
         ((∃ r g, v.resv = some (r, g) ∧ (n = slot ∧ r = rid ∨ .lossNotice n r ∈ s.events)) → u.thread? n = some { v with resv := none }) ∧
         ((∀ r g, v.resv = some (r, g) → ¬(n = slot ∧ r = rid) ∧ .lossNotice n r ∉ s.events) → u.thread? n = some v)) ∧
     (∀ c a, t.state = .parked → t.held = some (.waitr c a) → t.wake = .none → ∃ u, exec (.waitrTimeout slot) s = .next u ∧
       u = { s with cpu := u.cpu, others := u.others } ∧ (∀ n, n ≠ slot → u.thread? n = s.thread? n) ∧
       u.thread? slot = some { t with
         wake := if t.reg a.toNat ≠ 0 ∧ t.since + (t.reg a.toNat).toNat ≤ s.cycleOf t then .timeout else .none }) ∧
     (∀ i, t.state = .parked → t.held = some i → (∃ c a b k off lag, i = .ldaw c a b k off lag) ∨ (∃ c a b k off lag, i = .vlda c a b k off lag) →
       (t.weirlim = 0 ∨ s.cycleOf t < t.since + t.weirlim.toNat → exec (.weirlimExpire slot) s = .next s) ∧
       (t.weirlim ≠ 0 → t.since + t.weirlim.toNat ≤ s.cycleOf t → ∃ u, exec (.weirlimExpire slot) s = .next u ∧
         u = { s with cpu := u.cpu, others := u.others, weir := u.weir } ∧ (∀ w, w ∈ u.weir ↔ w ∈ s.weir ∧ w.slot ≠ slot) ∧
         (∀ n, n ≠ slot → u.thread? n = s.thread? n) ∧ u.thread? slot = some { t with wake := .timeout }))) ∧
  ((∀ (r : RillSeed) (s : State) (id : Nat), s.freeRillSlot (64 * r.die + r.slice) = some id →
     s.mayServe (2 ^ 20 + 4096 + r.spawner) (.rill (64 * r.die + r.slice)) = true →
     ∃ u t, exec (.rillAccept r) s = .next u ∧ u.thread? id = some t ∧ (∀ n, n ≠ id → u.thread? n = s.thread? n) ∧ u.mem = s.mem ∧
       t.state = .ready ∧ t.pc = r.pc ∧ t.p = 1 ∧ t.nregs = 24 ∧ t.sup = r.sup ∧ t.ctx = r.ctx ∧ t.task = r.task ∧ t.launch = r.launch ∧
       t.reg 1 = r.g1 ∧ t.reg 2 = r.g2 ∧ (∀ n, n ≠ 1 → n ≠ 2 → t.reg n = 0) ∧
       ∀ k, k < 64 → (u.launch k).received = if r.launch = k
         then assocSet (4096 + 64 * r.die + r.slice) (assocD 0 (4096 + 64 * r.die + r.slice) (s.launch k).received + 1) (s.launch k).received
         else (s.launch k).received) ∧
   (∀ (r : RillSeed) (s : State), let slot := 2 ^ 20 + 4096 + r.spawner
     let w := Want.rill (64 * r.die + r.slice)
     s.freeRillSlot (64 * r.die + r.slice) = none ∨ s.mayServe slot w = false →
     ∃ t x, exec (.rillAccept r) s = .next t ∧ t = { s with refused := t.refused, events := s.events ++ [.rillAccept r] } ∧
       x ∈ t.refused ∧ x.slot = slot ∧ x.want = w ∧
       x.count = (match first? (fun y => y.slot == slot && y.want.same w) s.refused with | some y => y.count | none => 0) + 1) ∧
   (∀ (slot slice id : Nat) (s : State) (t : Thread), s.thread? slot = some t → t.state ≠ .free → t.isRill = true → t.clusterId ≠ slice →
     s.freeRillSlot slice = some id → (∀ x ∈ s.others, x.id ≠ s.cpu.id) →
     ∃ u, exec (.rillMigrate slot slice) s = .next u ∧ u.thread? id = some { t with id := id, resv := none } ∧ u.mem = s.mem ∧
       u.thread? slot = none ∧ (∀ n, n ≠ slot → n ≠ id → u.thread? n = s.thread? n) ∧
       (∀ o ∈ s.owedStores, (if o.slot = slot then { o with slot := id, note := { o.note with target := .slot id } } else o) ∈ u.owedStores) ∧
       (∀ q, .rupdApply q ∈ s.events → .rupdApply { q with slot := if q.slot = slot then id else q.slot } ∈ u.events) ∧
       (∀ r, r ∈ u.resvs ↔ r ∈ s.resvs ∧ r.holder ≠ slot) ∧
       ∀ k, k < 64 → (u.launch k).received = if t.launch = k
         then assocSet (4096 + id / 512 % 512) (assocD 0 (4096 + id / 512 % 512) (s.launch k).received + 1) (s.launch k).received
         else (s.launch k).received))

/-- R145 to R151, R155: a walk of four levels takes bits 57 to 47, 46 to 36, 35 to 25 and 24 to 14 of the VA; when every entry is
present, the first three are pointers homed on the device and the last is a leaf of a span up to 10 in a frame that the device has,
it gives the translation of the leaf and of its region entry, which TLB_WALK_COMPLETE caches in the die's TLB and the core's
micro-TLB, each bounded, unless an entry there covers as much (R155 to R157). The registers are those with which the walk began
(R491). That every entry is kept while the die's TLB is not full is the model's choice (notes/assumptions/8.md). -/
def Obligations.WalkCompletes : Prop :=
  ∀ (slot : Nat) (va : Word) (s : State) (t : Thread), s.thread? slot = some t →
    let c := s.contextOf t.walker
    let bits (x : Word) (lo n : Nat) : Nat := x.toNat / 2 ^ lo % 2 ^ n
    let a0 := bits c.pageroot 14 38 * 2 ^ 14 + 8 * bits va 47 11
    let a1 := bits (s.dwordAt a0) 26 38 * 2 ^ 14 + 8 * bits va 36 11
    let a2 := bits (s.dwordAt a1) 26 38 * 2 ^ 14 + 8 * bits va 25 11
    let a3 := bits (s.dwordAt a2) 26 38 * 2 ^ 14 + 8 * bits va 14 11
    let pte := s.dwordAt a3
    let span := bits pte 13 5
    let region := bits c.regiontab 11 41 * 2048 + 32 * bits pte 18 6
    va.toNat < 2 ^ 58 → (∀ a ∈ [a0, a1, a2, a3], a + 8 ≤ Config.deviceBytes ∧ s.badAt a 8 = false ∧ (s.dwordAt a).getLsbD 0 = true) →
    (∀ a ∈ [a0, a1, a2], (s.dwordAt a).getLsbD 1 = false ∧ bits (s.dwordAt a) 24 2 = 0) → pte.getLsbD 1 = true → span ≤ 10 →
    (bits pte 24 2 = 0 → bits pte 26 38 / 2 ^ span * 2 ^ span * 2 ^ 14 + 2 ^ (14 + span) ≤ Config.deviceBytes) →
    region + 32 ≤ Config.deviceBytes → s.badAt region 32 = false →
    let e : TlbEntry := { die := t.die, ctx := c.num, va := va.toNat / 2 ^ (14 + span) * 2 ^ (14 + span), span := span, pte := pte,
                          dw0 := s.dwordAt region, dw1 := s.dwordAt (region + 8), dw2 := s.dwordAt (region + 16) }
    ∃ u, exec (.tlbWalkComplete slot va) s = .next u ∧ u = { s with cores := u.cores, tlb := u.tlb, free := u.free, used := u.used } ∧ e ∈ u.used ∧
      (∀ k, u.core k = { s.core k with micro := (u.core k).micro }) ∧ (∃ x ∈ u.tlb, x.serves e.die e.ctx e.va = true ∧ e.span ≤ x.span) ∧
      ((∀ x ∈ s.tlb, x.serves e.die e.ctx e.va = true → x.span < e.span) → e ∈ u.tlb) ∧
      ((s.tlb.countP fun x => x.die == e.die) < 16384 → ∀ x ∈ s.tlb, x ∈ u.tlb) ∧
      ((s.tlb.countP fun x => x.die == e.die) ≤ 16384 → (u.tlb.countP fun x => x.die == e.die) ≤ 16384) ∧
      (t.isRill = false → (∃ x ∈ (u.core t.coreId).micro, x.serves e.die e.ctx e.va = true ∧ e.span ≤ x.span) ∧
        ((s.core t.coreId).micro.length ≤ 64 → (u.core t.coreId).micro.length ≤ 64))

/-! Operations at a home as events (spec/11, spec/13, spec/16). -/

/-- R271, R275, R288 to R290: RMW_AT_HOME performs the read-modify-write in one step: a fetch-and-op writes the new doubleword, CAS and
CASX write exactly when the value there is the expected one, SC stores exactly when the holder's reservation stands, which goes, and LR
leaves the holder one reservation, on the granule. An owned copy is recalled first (R175), and an operation that meets an error changes
nothing (R287). The host holds no copy of what is written (R432).
That each of these is one step is the model's choice (notes/assumptions/5.md).

R154, R274, R287, R420: RUPD_APPLY counts the update as received and replaces the cell by the function's result; a Q64 sum that
saturates sets OVF of the region entry, and an update that meets a bad check is discarded and leads to a self-test. It waits while the
host holds a copy of what it writes (R432).

R242, R246, R250, R254: a stamped store older than the grain's stamp is discarded and counted; any other writes its bytes, sets the
stamp and serves the weir entries whose least stamp it reaches: each of their loads keeps the state that the store has made; the host
holds no copy of the bytes (R432). -/
def Obligations.HomeEvents : Prop :=
  (∀ (h k : Nat) (x e : BitVec 128) (s : State),
     let req (op : RmwOp) : RmwReq := { op := op, holder := h, addr := k, x := x, e := e }
     let v : Word := x.setWidth 64
     let old := s.dwordAt k
     let r := s.recallOwned k 8
     let r' := s.recallOwned k 16
     (∀ op, k + 16 ≤ Config.deviceBytes → s.badAt k (rmwWidth op) = true → ∃ t u b, exec (.rmwAtHome (req op)) s = .next t ∧
       t = { s with events := s.events ++ [.selfTestVerdict u b], free := t.free }) ∧
     (s.badAt k 8 = false → s.hostFree k 8 = true → (∀ p ∈ ([(.add, old + v), (.and, old &&& v), (.or, old ||| v), (.xor, old ^^^ v), (.swp, v),
         (.min, if old.toInt ≤ v.toInt then old else v), (.max, if old.toInt ≤ v.toInt then v else old)] : List (RmwOp × Word)),
       exec (.rmwAtHome (req p.1)) s = .next ((r.homeWrite k (leBytes 8 p.2.toNat)).syncFor h k 8)) ∧
     exec (.rmwAtHome (req .cas)) s = .next ((if old = e.setWidth 64 then r.homeWrite k (leBytes 8 v.toNat) else r).syncFor h k 8)) ∧
     (s.badAt k 16 = false → s.hostFree k 16 = true → exec (.rmwAtHome (req .casx)) s =
       .next ((if s.dwordAt (k + 8) ++ old = e then r'.homeWrite k (leBytes 16 x.toNat) else r').syncFor h k 16)) ∧
     (s.badAt k 8 = false → s.hostFree k 8 = true → let u := r.dropResv fun r => r.holder == h
      exec (.rmwAtHome (req .sc)) s = .next ((if (s.resvs.any fun r => r.holder == h && r.granule == k / 64 * 64) = true
        then u.homeWrite k (leBytes 8 v.toNat) else u).syncFor h k 8)) ∧
     (s.badAt k 8 = false → ∃ t, exec (.rmwAtHome (req .lr)) s = .next t ∧
       t = { r with resvs := t.resvs, nextRid := s.nextRid + 1, events := t.events, copies := t.copies } ∧
       (∃ r ∈ t.resvs, r.holder = h) ∧ (∀ r ∈ t.resvs, r.holder = h → r.granule = k / 64 * 64 ∧ r.rid = s.nextRid) ∧
       ((s.resvs.filter fun r => r.slice == sliceOf k).length < 128 → ∀ r ∈ s.resvs, r.holder ≠ h → r ∈ t.resvs))) ∧
  (∀ (r : RupdReq) (s : State),
     let u := s.modLaunch r.launch fun l =>
       { l with received := assocSet (8192 + sliceOf r.addr) (assocD 0 (8192 + sliceOf r.addr) l.received + 1) l.received }
     let old := s.dwordAt r.addr
     let w := if r.fn = 2 then 4 else 8
     (s.badAt r.addr w = true → r.addr + 8 ≤ Config.deviceBytes → ∃ t x y, exec (.rupdApply r) s = .next t ∧
       t = { u with events := u.events ++ [.selfTestVerdict x y], free := t.free, copies := t.copies }) ∧
     (s.badAt r.addr w = false → (s.dirs.map DirEntry.grain).Nodup → s.hostFree r.addr w = false → ∃ t, exec (.rupdApply r) s = .next t ∧
       t = { s with events := t.events } ∧ .rupdApply r ∈ t.events ∧
       ∃ d ∈ s.dirs, (d.hostA = true ∨ d.hostB = true) ∧ .backInvalidationAnswer (if d.hostA then .a else .b) d.grain ∈ t.events) ∧
     (s.badAt r.addr w = false → s.hostFree r.addr w = true → (∀ o, r.ovf = some o → s.hostFree (o + 1) 1 = true) →
       (∀ p ∈ ([(2, (fadd 0 (old.setWidth 32) (r.x.setWidth 32)).1.setWidth 64), (3, old + r.x), (4, if old.toInt ≤ r.x.toInt then old else r.x),
           (5, if old.toInt ≤ r.x.toInt then r.x else old), (6, old ||| r.x), (7, old &&& r.x)] : List (BitVec 3 × Word)),
         r.fn = p.1 → exec (.rupdApply r) s = .next ((u.homeWrite r.addr (leBytes w p.2.toNat)).syncUpdate r.slot r)) ∧
       (r.fn.toNat ≤ 1 →
         let x : F32 := if r.fn = 0 then r.x.setWidth 32 else r.x.extractLsb' 32 32
         let sum := q64Add (s.signedAt r.addr) x (if r.fn = 0 then r.q else (r.x.setWidth 8).toInt)
         ∃ t, exec (.rupdApply r) s = .next t ∧ t.cpu = s.cpu ∧
           ((∀ o, r.ovf = some o → o + 1 < r.addr ∨ r.addr + 8 ≤ o + 1) → t.signedAt r.addr = sum.1) ∧
           (∀ o, r.ovf = some o → sum.2 = true → (Memory.lookup t.mem (o + 1)).getLsbD 7 = true) ∧
           ∀ q, (q < r.addr ∨ r.addr + 8 ≤ q) → (sum.2 = false ∨ ∀ o, r.ovf = some o → q ≠ o + 1) → Memory.lookup t.mem q = Memory.lookup s.mem q))) ∧
  (∀ (r : StampedStore) (s : State),
     let slice := sliceOf r.grain
     ((r.stamp - s.stampOf r.grain r.base).toInt < 0 → ∃ t, exec (.stampedStoreHome r) s = .next t ∧ t = { s with discards := t.discards } ∧
       ∀ k, assocD 0 k t.discards = assocD 0 k s.discards + if k = slice then 1 else 0) ∧
     (0 ≤ (r.stamp - s.stampOf r.grain r.base).toInt → s.hostFree r.addr r.len = true → ∃ t, exec (.stampedStoreHome r) s = .next t ∧
       t.mem = (s.homeWrite r.addr (leBytes r.len r.data.toNat)).mem ∧ (∀ b, t.stampOf r.grain b = r.stamp) ∧
       (∀ g b, g ≠ r.grain → t.stampOf g b = s.stampOf g b) ∧
       (∀ w, w ∈ t.weir ↔ w ∈ s.weir ∧ ¬(w.grain = r.grain ∧ 0 ≤ (r.stamp - w.least).toInt)) ∧
       (∀ n v, s.thread? n = some v → t.thread? n = some
         (if (s.weir.any fun w => w.slot == n && w.grain == r.grain && decide (0 ≤ (r.stamp - w.least).toInt)) = true
           then { v with agedWait := v.agedWait.map fun k => { k with served := some (t.homeGrain k.entry r.grain) } } else v)) ∧
       t.discards = s.discards))

/-! The directory (spec/08_caches_and_cisterns.md). -/

/-- R170 to R177, R432: a home slice serves a request when no transaction of the grain is in flight and no other request holds an earlier
ticket: the requester becomes a sharer or the owner, every sharer is sent an invalidation by a write, and each message raises the line
sequence number; otherwise the request is refused and, when its timer expires, sent again. A write of a grain that the host holds waits
for the host.
A copy in state E may have been written since, which its entry learns now (R175). The transactions are the model's
(notes/assumptions/16.md).

R171, R173, R174, R176, R184: an invalidation removes the grain from the caches and windows of its cluster and is acknowledged; a
fill that is newer than the last invalidation its cluster received is installed, where a way of its set is left, and no other is; the
transaction is over when nothing of it is on its way. Memory is as before. -/
def Obligations.Directory : Prop :=
  (∀ (core grain size : Nat) (write : Bool) (s : State),
     let d := s.dirEntry grain size
     let me := core / 8 % 64
     let slot := 2 ^ 20 + core
     let host : Prop := write = true ∧ s.hostFree grain size = false
     let serves : Prop := d.busy = false ∧ s.mayServe slot (.grain grain write) = true
     (host → ∃ t, exec (.homeRequest core ⟨grain, size⟩ write) s = .next t ∧ t = { s with events := t.events } ∧
       .homeRequest core ⟨grain, size⟩ write ∈ t.events) ∧
     (¬host → serves → ∃ t e, exec (.homeRequest core ⟨grain, size⟩ write) s = .next t ∧ t.dirEntry grain size = e ∧ e.busy = true ∧
       e.seq = d.seq + BitVec.ofNat 16 ((if write then (sharersOf d).length else 0) + 1) ∧ t.mem = s.mem ∧ t.cpu = s.cpu ∧ t.others = s.others ∧
       (∃ f ∈ t.fills, f.core = core ∧ f.grain = grain ∧ f.size = size ∧ f.seq = e.seq ∧ f.write = write) ∧ .fillArrive core grain ∈ t.events ∧
       (write = true → e.state = .modified ∧ e.owner = some core ∧ (∀ j, e.sharers.getLsbD j = decide (j = me)) ∧
         ∀ j, j < 64 → d.sharers.getLsbD j = true → .invalidationArrive (64 * (grain / 2 ^ 37) + j) grain ∈ t.events ∧
           ∃ i ∈ t.invals, i.cluster = 64 * (grain / 2 ^ 37) + j ∧ i.grain = grain) ∧
       (write = false → t.invals = s.invals ∧ e.sharers.getLsbD me = true ∧
         e.state = (match d.state with
           | .invalid => .exclusive | .modified | .owned => .owned | .shared => .shared
           | .exclusive => if d.owner.any (s.holdsDirty · grain) then .owned else .shared))) ∧
     (¬host → ¬serves → ∃ t r, exec (.homeRequest core ⟨grain, size⟩ write) s = .next t ∧
       t = { s with refused := t.refused, events := s.events ++ [.retryTimerExpire core ⟨grain, size⟩] } ∧
       r ∈ t.refused ∧ r.slot = slot ∧ r.want = .grain grain write) ∧
     (∀ r g, first? (fun r => r.slot == slot && r.want.same (.grain grain false)) s.refused = some r → r.want = .grain g write →
       exec (.retryTimerExpire core ⟨grain, size⟩) s = .next { s with events := s.events ++ [.homeRequest core ⟨grain, size⟩ write] })) ∧
  (∀ (grain : Nat) (s : State),
     (∀ core f, first? (fun f => f.core == core && f.grain == grain) s.fills = some f →
       let last := first? (fun i => i.cluster == core / 8 && i.grain == grain) s.lastInval
       let newer (i : Inval) : Prop := 1 ≤ (f.seq - i.seq).toNat ∧ (f.seq - i.seq).toNat ≤ 32767
       ∃ t, exec (.fillArrive core grain) s = .next t ∧
         t = { s with fills := t.fills, tracked := t.tracked, dirs := t.dirs, copies := t.copies, free := t.free } ∧
         t.fills.length + 1 = s.fills.length ∧ (∀ h ∈ t.tracked, h ∈ s.tracked ∨ h.core = core ∧ h.grain = grain) ∧
         ((last = none ∨ ∃ i, last = some i ∧ newer i) → s.waysLeft core (grain / 512 % 16) 0 8 ≠ 0 →
           ∃ h ∈ t.tracked, h.core = core ∧ h.grain = grain ∧ (f.write = true → h.state = .modified)) ∧
         ((∃ i, last = some i ∧ ¬newer i) → ∀ h ∈ t.tracked, h.core = core → h.grain = grain → h.size ≠ f.size)) ∧
     (∀ cluster i, first? (fun i => i.cluster == cluster && i.grain == grain) s.invals = some i →
       let n := s.sizeInFlight grain
       ∃ t, exec (.invalidationArrive cluster grain) s = .next t ∧ t.mem = s.mem ∧ t.invals.length + 1 = s.invals.length ∧
         .invalidationAck cluster grain ∈ t.events ∧ (∀ x ∈ t.tracked, overlaps grain n x.grain x.size = true → x.core / 8 ≠ cluster) ∧
         first? (fun i => i.cluster == cluster && i.grain == grain) t.lastInval = some i ∧
         (∀ x ∈ t.copies, x.trackedAged = true → overlaps grain n x.home x.size = true → x.holder / 8 ≠ cluster) ∧
         ∀ c ∈ t.cores, c.id / 8 = cluster → ∀ w ∈ c.windows, ∀ g ∈ w.fills, overlaps grain n g.home g.size = false) ∧
     (∀ cluster, (∀ x ∈ s.fills, x.grain ≠ grain) → (∀ x ∈ s.invals, x.grain ≠ grain) →
       (∀ e ∈ s.events, ∀ k, e ≠ .invalidationAck k grain) →
       ∃ t, exec (.invalidationAck cluster grain) s = .next t ∧ t = { s with dirs := t.dirs } ∧ t.dirs.length = s.dirs.length ∧
         ∀ d ∈ t.dirs, d.grain = grain → d.busy = false))

/-! The Headgate (spec/21_tasks_and_tenants.md). -/

/-- R402 to R407: LAUNCH_PARSE accepts a new SEQ byte of an idle slot; the first check that fails gives the completion code, 1 to 5,
and otherwise every root gets STATE 1 and, while the queues have room, a queue entry, root j at the partition cluster of index j mod
P; roots that find every queue full stay with the launch, to be enqueued later. The host holds no copy of what is written (R432).
What a full queue does to a root is the model's reading (notes/assumptions/15.md), and code 4 for a record that is not delivered is
its choice (notes/assumptions/63.md).

R403, R404, R407, R419, R421: the second successive sweep that finds every agent idle and the same equal sums of the agents'
counts completes the launch with code 0 and its counts, and frees its cancel entries, once no posted write is on its way to the host
(notes/assumptions/27.md); a first such sweep is remembered and any other forgets it. A launch of a context that is being released is
ended by the release (R483). -/
def Obligations.Launches : Prop :=
  (∀ (k : Nat) (s : State),
     let a := s.island.lwin + 128 * k
     let seq := Memory.lookup s.mem (a + 0x7F)
     let ctxw := s.dwordAt a
     let n := leNat (Memory.reads s.mem (a + 0x10) 4)
     let ctx := (ctxw.extractLsb' 0 12).toNat
     let ten := (ctxw.extractLsb' 16 4).toNat
     let list := s.dwordAt (a + 8)
     let p := s.partition ten
     k < 64 → s.island.recovery = false → (s.launch k).running = false → seq ≠ (s.launch k).accepted → s.hostless →
     s.badAt (a + 0x7F) 1 = false →
     let fails (code : Word) : Prop := ∃ t, exec (.launchParse k) s = .next t ∧ t.dwordAt (a + 0x40) = code ∧
       Memory.lookup t.mem (a + 0x7E) = seq ∧ (t.launch k).running = false ∧ (t.launch k).accepted = seq ∧ t.queues = s.queues
     (s.badAt a 0x14 = true → fails 4) ∧
     (s.badAt a 0x14 = false → (s.context? ctx = none ∨ ctxw &&& ~~~0x1000F0FFF ≠ 0) → fails 1) ∧
     (∀ c, s.badAt a 0x14 = false → s.context? ctx = some c → ctxw &&& ~~~0x1000F0FFF = 0 →
       let on : Prop := c.closing = false ∧ c.tenant = ten
       let enabled : Prop := (s.tenant ten).getLsbD 0 = true ∧ p ≠ []
       let level : Prop := ctxw.getLsbD 32 = true → c.priv = true
       let shape : Prop := 0 < n ∧ n ≤ 65536 ∧ list.toNat % 8 = 0
       (¬on → fails 1) ∧ (on → ¬enabled → fails 2) ∧ (on → enabled → ¬level → fails 3) ∧ (on → enabled → level → ¬shape → fails 4) ∧
       (on → enabled → level → shape → s.roots ctx list (List.range n) = none → fails 4) ∧
       (∀ rs, on → enabled → level → shape → s.roots ctx list (List.range n) = some rs →
         let good (h : Nat) : Prop := (s.taskRec h).valid = true ∧ ((s.taskRec h).sup = true → c.priv = true) ∧
           (s.taskRec h).state % 4 = 0 ∧ (s.taskRec h).dep = 0
         ((∃ x ∈ rs, ¬good x.2) → fails 5) ∧
         ((∀ x ∈ rs, good x.2) → (∀ cl ∈ p, (s.queued cl ten).length + rs.length ≤ 1024) → ∃ t qs, exec (.launchParse k) s = .next t ∧ t.queues = s.queues ++ qs ∧ qs.length = rs.length ∧
           (∀ j, (h : j < qs.length) → (g : j < rs.length) → qs[j].task = rs[j].1 ∧ qs[j].launch = k ∧ qs[j].tenant = ten ∧ qs[j].ctx = ctx ∧
             qs[j].rootSup = ctxw.getLsbD 32 ∧ qs[j].resume = none ∧ p[j % p.length]? = some qs[j].cluster) ∧
           (∀ x ∈ rs, (∀ y ∈ rs, y.2 = x.2 ∨ y.2 + 64 ≤ x.2 ∨ x.2 + 64 ≤ y.2) → t.dwordAt (x.2 + 0x38) = 1) ∧
           (t.launch k).running = true ∧ (t.launch k).accepted = seq ∧ (t.launch k).ctx = ctx ∧ (t.launch k).tenant = ten ∧
           (t.launch k).sup = ctxw.getLsbD 32 ∧ (t.launch k).sent = [(16384, rs.length)] ∧ (t.launch k).received = [] ∧
           (t.launch k).roots = []) ∧
         ((∀ x ∈ rs, good x.2) → (∀ cl ∈ p, 1024 ≤ (s.queued cl ten).length) → ∃ t, exec (.launchParse k) s = .next t ∧ t.queues = s.queues ∧
           (t.launch k).running = true ∧ (t.launch k).roots.map Prod.snd = rs.map Prod.fst ∧ .launchParse k ∈ t.events)))) ∧
  (∀ (k : Nat) (s : State),
     let l := s.launch k
     let a := s.island.lwin + 128 * k
     let sum (xs : List (Nat × Nat)) : Nat := (xs.map Prod.snd).sum
     l.running = true → (∀ c, s.context? l.ctx = some c → c.closing = false) →
     (s.idleFor k = true → sum l.sent = sum l.received → l.sweep = some (sum l.sent) → s.portA.posts = [] → s.portB.posts = [] →
       s.hostFree (a + 0x40) 0x40 = true → ∃ t, exec (.launchSweep k) s = .next t ∧
       t.dwordAt (a + 0x40) = 0 ∧ t.dwordAt (a + 0x48) = BitVec.ofNat 64 l.thrcyc ∧ t.dwordAt (a + 0x50) = BitVec.ofNat 64 l.tasks ∧
       t.dwordAt (a + 0x58) = BitVec.ofNat 64 l.dropped ∧ t.dwordAt (a + 0x60) = BitVec.ofNat 64 l.deperr ∧
       t.dwordAt (a + 0x68) = BitVec.ofNat 64 l.escal ∧ Memory.lookup t.mem (a + 0x7E) = l.accepted ∧
       (t.launch k).running = false ∧ (∀ e, e ∈ t.cancels ↔ e ∈ s.cancels ∧ e.launch ≠ k) ∧
       ∀ q, (q < a + 0x40 ∨ a + 0x70 ≤ q) → q ≠ a + 0x7E → Memory.lookup t.mem q = Memory.lookup s.mem q) ∧
     (s.idleFor k = true → sum l.sent = sum l.received → l.sweep = some (sum l.sent) → (s.portA.posts ≠ [] ∨ s.portB.posts ≠ []) →
       exec (.launchSweep k) s = .next s) ∧
     (s.idleFor k = true → sum l.sent = sum l.received → l.sweep ≠ some (sum l.sent) →
       exec (.launchSweep k) s = .next (s.modLaunch k fun x => { x with sweep := some (sum l.sent) })) ∧
     (s.idleFor k = false ∨ sum l.sent ≠ sum l.received → exec (.launchSweep k) s = .next (s.modLaunch k fun x => { x with sweep := none })))

/-- R60, R416 to R420: a round of admission at a cluster. With every head's deficit at or below 0 each gets its quantum; a cancelled
head is dropped, its STATE 7; a head that fits starts its gang: STATE becomes 2, the entry is gone, a gang of the task's shape
stands, and its members are loaded with the record's entry and argument and everything else cleared, at supervisor level only in a
privileged context (notes/assumptions/42.md). The host holds no copy of what is written (R432). The order of a round is the model's
reading (notes/assumptions/25.md).

R417, R418: a gang's thread-cycles are charged to its launch and to its tenant's deficit at the admitting cluster; a head that
cannot be admitted gets a reservation of the clusters it spans once it has waited 2^16 cycles, and none before; an idle cluster
takes the first head of its victims that it can admit. Reservations stand in the order in which the waits reached 2^16 cycles. That
a head whose clusters do not exist reserves its own alone is the model's choice (notes/assumptions/71.md). -/
def Obligations.Headgate : Prop :=
  (∀ (cl : Nat) (s : State) (q : QEntry) (r : TaskRec) (h : Nat),
     s.heads cl = [q] → q.resume = none → s.engineReach (cl / 64) q.ctx q.task 64 true true = some h → s.taskRec h = r → r.valid = true → s.hostless →
     let seats := launchSeats q r (s.taskSup q r) s.nextGang
     (s.cancelled q.tenant r.graphno = true → r.nsucc = 0 → ∃ t, exec (.taskAdmit cl) s = .next t ∧ t.dwordAt (h + 0x38) = 7 ∧
       s.sameOutside t (h + 0x38) 8 ∧ t.queues.length + 1 = s.queues.length ∧
       ∀ k, k < 64 → (t.launch k).dropped = (s.launch k).dropped + if q.launch = k then 1 else 0) ∧
     (s.cancelled q.tenant r.graphno = false → s.reportHead q = none →
       (s.deficit cl q.tenant ≤ 0 → ∃ t, exec (.taskAdmit cl) s = .next t ∧ t = { s with deficits := t.deficits } ∧
         t.deficit cl q.tenant = s.deficit cl q.tenant + (tenQuantum (s.tenant q.tenant) : Int)) ∧
       (∀ cs u, 0 < s.deficit cl q.tenant → q.reported = false → s.spanFrom q.tenant cl (spanOf r.size) = some cs →
         s.unreserved q cs = true → s.seatGang q.ctx cs seats = some u →
         ∃ t g, exec (.taskAdmit cl) s = .next t ∧ t.dwordAt (h + 0x38) = 2 ∧ t.queues.length + 1 = s.queues.length ∧
           t.nextGang = s.nextGang + 1 ∧ g ∈ t.gangs ∧ g.id = s.nextGang ∧ g.task = q.task ∧ g.size = r.size ∧ g.clusters = cs ∧
           g.launch = q.launch ∧ g.state = .running ∧
           (∀ x ∈ u.membersOf s.nextGang, .threadLoadComplete x.id ∈ t.events ∧ t.thread? x.id = u.thread? x.id) ∧
           (∀ k, k < 64 → (t.launch k).received = if q.launch = k
             then assocSet (12288 + cl) (assocD 0 (12288 + cl) (s.launch k).received + 1) (s.launch k).received else (s.launch k).received))) ∧
     seats.length = r.size ∧
     ∀ m ∈ seats, (m.thread.sup = true ↔ q.rootSup = true ∨ r.sup = true ∧ (s.contextD q.ctx).priv = true) ∧ m.windows = [] ∧ m.fmt = none ∧ m.thread.state = .loading ∧ m.thread.pc = r.entry ∧ m.thread.p = 1 ∧
       m.thread.reg 1 = r.arg ∧ (∀ j, j ≠ 1 → m.thread.reg j = 0) ∧ m.thread.nregs = r.nregs ∧ m.thread.nvregs = r.nvregs ∧
       m.thread.savearea = r.save ∧ m.thread.gang = s.nextGang ∧ m.thread.task = q.task) ∧
  ((∀ (id : Nat) (s : State) (g : Gang), s.gang? id = some g → ∃ t, exec (.deficitCharge id) s = .next t ∧
     t = { s with launches := t.launches, deficits := t.deficits, gangs := t.gangs, events := t.events } ∧
     t.deficit g.home g.tenant = s.deficit g.home g.tenant - (g.accrued : Int) ∧
     (∀ c n, (c, n) ≠ (g.home, g.tenant) → t.deficit c n = s.deficit c n) ∧
     (∀ k, k < 64 → (t.launch k).thrcyc = (s.launch k).thrcyc + if g.launch = k then g.accrued else 0) ∧
     (t.gang? id).map Gang.accrued = some 0) ∧
   (∀ (c ten : Nat) (s : State) (q : QEntry), s.head c ten = some q → (∀ h ∈ s.holds, h.isFor q = false) → s.admitTask c q = none →
     q.reported = false → ∀ since, q.since = some since →
     (s.now < since + 65536 → exec (.reservationStart c ten) s = .next s) ∧
     (since + 65536 ≤ s.now → ∃ hd xs ys, s.holds = xs ++ ys ∧ exec (.reservationStart c ten) s = .next { s with holds := xs ++ hd :: ys } ∧
       hd.since = since + 65536 ∧ (∀ x ∈ xs, x.since ≤ hd.since) ∧ (∀ y, ys.head? = some y → hd.since < y.since) ∧ hd.cluster = c ∧ hd.tenant = ten ∧
       hd.launch = q.launch ∧ hd.task = q.task ∧ hd.resume = q.resume ∧
       ∀ r, q.resume = none → s.queuedRec q = some r → hd.clusters = (s.spanFrom ten c (spanOf r.size)).getD [c])) ∧
   (∀ (c v : Nat) (rest : List Nat) (s t : State) (q : QEntry), s.hostless → (∀ h ∈ s.holds, c ∉ h.clusters) → s.heads c = [] →
     s.victims c = v :: rest → (∀ h ∈ s.holds, h.isFor q = false) → q.tenant < 16 → tenPart (s.tenant q.tenant) = s.partOf c →
     s.head v q.tenant = some q → (∀ n, n < q.tenant → s.head v n = none) →
     (∀ r, s.queuedRec q = some r → s.cancelled q.tenant r.graphno = false) → s.admitTask c q = some t →
     exec (.workSteal c) s = .next t ∧ t.queues.length + 1 = s.queues.length))

/-! Hosts and peers (spec/22_links_and_peers.md). -/

/-- R196, R430, R431, R435, R451, R472: the host writes, reads and compares and swaps, in one step, its own memory and, through a
CXL port's HDM range or a PCIe port's BAR2, the device's, at the home, while the port is up and, for the device's, outside recovery;
BAR0 gives the locator block; a snoop drops every copy of its line and is acknowledged, a back-invalidation answer drops the host's
own; a link goes down, where each posted write has arrived or is counted as lost, and comes up. What the model keeps of the ports is
its own (notes/assumptions/27.md).

R436 to R439, R441: a message of another incarnation is dropped; an access that no export entry allows is refused; one that an
entry allows, to a plain page of the device, is performed at its home, after the host's copy of what it writes is gone (R432); in
recovery each is refused (R472). A refused store is reported by a record of kind 4, and a change of the peer table that ends a
peer's incarnation makes the answers it owes negative, and drops those on their way, no other peer's among them: a load or
read-modify-write that waits for it fails, a store it has not acknowledged is reported. Whose tables translate the address, and that a
peer acknowledges the stores of a slot in the order sent, are the model's readings (notes/assumptions/26.md). -/
def Obligations.HostAndPeers : Prop :=
  (∀ (p : Port) (addr n : Nat) (d : Word) (s : State),
     let op (sp : HostSpace) (write : Bool) : HostOp := { port := p, space := sp, addr := addr, write := write, width := n, data := d.setWidth 128, expect := none }
     let answers (i : Instr) (x : Nat) : Prop := ∃ t, exec i s = .next t ∧ t.answers = some (BitVec.ofNat 128 x) :: s.answers ∧ t.mem = s.mem ∧
       t.cpu = s.cpu ∧ t.others = s.others
     let value (a : Nat) : Nat := leNat (Memory.reads s.mem a n)
     ((s.port p).up = true → s.island.recovery = true → ∀ r : HostOp, r.port = p → r.space ≠ .own →
       exec (.hostAccess r) s = .next (if r.write then s else { s with answers := none :: s.answers })) ∧
     ((s.port p).up = true → ∀ e : BitVec 128, n ≤ 16 →
       let old := value (hostKey addr)
       let u : State := { s with answers := some (BitVec.ofNat 128 old) :: s.answers }
       exec (.hostAccess { op .own true with expect := some e }) s =
         .next (if old = e.toNat % 2 ^ (8 * n) then u.homeWrite (hostKey addr) (leBytes n d.toNat) else u)) ∧
     ((s.port p).up = true → s.island.recovery = false →
       exec (.hostAccess (op .own true)) s = .next (s.homeWrite (hostKey addr) (leBytes n d.toNat)) ∧
       answers (.hostAccess (op .own false)) (value (hostKey addr)) ∧
       ((s.port p).pcie = false → (s.port p).hdmBase + addr + n ≤ Config.deviceBytes →
         exec (.hostAccess (op .hdm true)) s = .next (s.homeWrite ((s.port p).hdmBase + addr) (leBytes n d.toNat)) ∧
         (s.badAt ((s.port p).hdmBase + addr) n = false → answers (.hostAccess (op .hdm false)) (value ((s.port p).hdmBase + addr)))) ∧
       ((s.port p).pcie = true → ∀ a, (addr + n ≤ 0x2000 ∧ a = s.island.lwin + addr ∨
             0x2000 ≤ addr ∧ addr + n ≤ 0x3000 ∧ 0 < n ∧ a = s.island.mbox + (addr - 0x2000) ∨
             0x3000 ≤ addr ∧ addr + n ≤ 0x4000 ∧ 0 < n ∧ a = s.island.ctrl + (addr - 0x3000)) → a + n ≤ Config.deviceBytes →
         exec (.hostAccess (op .bar2 true)) s = .next (s.homeWrite a (leBytes n d.toNat)) ∧
         (s.badAt a n = false → answers (.hostAccess (op .bar2 false)) (value a))) ∧
       (n = 8 → s.island.lwin < 2 ^ 64 → (addr = 0 → answers (.hostAccess (op .bar0 false)) 1) ∧
         (addr = 8 → answers (.hostAccess (op .bar0 false)) s.island.lwin))) ∧
     ((s.port p).up = false → ∀ r : HostOp, r.port = p → exec (.hostAccess r) s = .next s) ∧
     (∃ t, exec (.hostSnoop p addr) s = .next t ∧ t.answers = some 0 :: s.answers ∧ t.mem = s.mem ∧ t.cpu = s.cpu ∧ t.others = s.others ∧
       (∀ x ∈ t.tracked, overlaps (hostKey addr / 512 * 512) 512 x.grain x.size = false) ∧
       ∀ k, ∀ w ∈ (t.core k).windows, ∀ f ∈ w.fills, overlaps (hostKey addr / 512 * 512) 512 f.home f.size = false) ∧
     (∃ t, exec (.backInvalidationAnswer p addr) s = .next t ∧ t = { s with dirs := t.dirs } ∧ t.dirs.length = s.dirs.length ∧
       ∀ x ∈ t.dirs, x.grain = addr → (match p with | .a => x.hostA | .b => x.hostB) = false) ∧
     ((s.port p).posts = [] → ∃ t, exec (.linkDown p) s = .next t ∧ t.port p = { s.port p with up := false } ∧
       t = { s with portA := t.portA, portB := t.portB } ∧ ∀ x, x ≠ p → t.port x = s.port x) ∧
     (∃ t, exec (.linkDown p) s = .next t ∧ (t.port p).up = false ∧ (t.port p).posts = [] ∧ (s.port p).errlog ≤ (t.port p).errlog ∧
       (t.port p).errlog ≤ (s.port p).errlog + (s.port p).posts.length ∧
       ((t.port p).errlog = (s.port p).errlog + (s.port p).posts.length → t.mem = s.mem)) ∧
     (∃ t, exec (.hostLinkUp p) s = .next t ∧ t.port p = { s.port p with up := true } ∧ t = { s with portA := t.portA, portB := t.portB } ∧
       ∀ x, x ≠ p → t.port x = s.port x)) ∧
  ((∀ (r : PeerReq) (s : State),
     let rd : Bool := match r.what with | .store _ _ => false | _ => true
     let wr : Bool := match r.what with | .load _ => false | _ => true
     let w : Nat := match r.what with | .load w => w | .store w _ => w | .rmw op _ _ => rmwWidth op | .rupd fn _ => rupdWidth fn
     let allowed : Prop := ∃ e ∈ s.exports, e.peer = r.src ∧ e.inc = r.srcInc ∧ e.ctx = r.ctx ∧ e.lo ≤ r.addr ∧ r.addr + w ≤ e.hi ∧
       (rd = true → e.rd = true) ∧ (wr = true → e.wr = true)
     ((s.peer r.src).inc ≠ r.srcInc ∨ r.dstInc ≠ s.selfInc → exec (.peerRequest r) s = .next s) ∧
     ((s.peer r.src).inc = r.srcInc → r.dstInc = s.selfInc → s.island.recovery = true →
       exec (.peerRequest r) s = .next { s with answers := none :: s.answers }) ∧
     ((s.peer r.src).inc = r.srcInc → r.dstInc = s.selfInc → s.island.recovery = false →
       (¬allowed → exec (.peerRequest r) s = .next { s with answers := none :: s.answers }) ∧
       (∀ x a, s.exportFor r = some x → s.engineReach 0 x.tables (BitVec.ofNat 64 r.addr) 0 rd wr = some a →
         (∀ n, r.what = .load n → s.badAt a n = false → exec (.peerRequest r) s =
           .next { s with answers := some (BitVec.ofNat 128 (leNat (Memory.reads s.mem a n))) :: s.answers }) ∧
         (∀ n d, r.what = .store n d → s.hostFree a n = true → ∃ t, exec (.peerRequest r) s = .next t ∧ t.mem = Memory.writes s.mem a (leBytes n d.toNat) ∧
           t.answers = some 0 :: s.answers ∧ t.cpu = s.cpu ∧ t.others = s.others) ∧
         (∀ x e, r.what = .rmw .add x e → s.badAt a 8 = false → s.hostFree a 8 = true → ∃ t, exec (.peerRequest r) s = .next t ∧
           t.mem = Memory.writes s.mem a (leBytes 8 (s.dwordAt a + x.setWidth 64).toNat) ∧
           t.answers = some ((s.dwordAt a).setWidth 128) :: s.answers ∧ t.cpu = s.cpu ∧ t.others = s.others) ∧
         (∀ x, r.what = .rupd 3 x → s.badAt a 8 = false → s.hostFree a 8 = true → ∃ t, exec (.peerRequest r) s = .next t ∧
           t.mem = Memory.writes s.mem a (leBytes 8 (s.dwordAt a + x).toNat) ∧ t.answers = some 0 :: s.answers)))) ∧
   (∀ (slot : Nat) (va : Word) (peer : BitVec 12) (s : State) (t : Thread), s.thread? slot = some t → ∃ n,
     exec (.peerStoreRefused slot va peer) s = .next { s with events := s.events ++ [.notificationRecord n] } ∧
     n.kind = 4 ∧ n.cause = 0x12 ∧ n.ctx = t.ctx ∧ n.trappc = va ∧ n.trapval = peer.setWidth 64 ∧ n.taskid = t.taskId) ∧
   (∀ (peer : BitVec 12) (inc : BitVec 8) (up : Bool) (s : State), ∃ t, exec (.peerTableUpdate peer inc up) s = .next t ∧
     t = { s with peers := t.peers, events := t.events, cpu := t.cpu, others := t.others, owedStores := t.owedStores, launches := t.launches } ∧
     (t.peer peer).num = peer ∧ (t.peer peer).inc = inc ∧ (t.peer peer).up = up ∧ (∀ n, n ≠ peer → t.peer n = s.peer n) ∧
     ((up = false ∨ inc ≠ (s.peer peer).inc) →
       (∀ n a, (∀ x ∈ s.dueReplies n, x = some peer.toNat) → s.events.countP (repliesTo n) ≤ (s.dueReplies n).length →
         .accessReply n a ∉ t.events) ∧
       (∀ n a, some peer.toNat ∉ s.dueReplies n → .accessReply n a ∈ s.events → .accessReply n a ∈ t.events) ∧
       (∀ n u, s.thread? n = some u → t.thread? n = some { u with
         reply := if u.awaits = some peer.toNat then (match u.reply with | .waiting => .failed | .ending f => .endFailed f | x => x) else u.reply }) ∧
       (∀ o, o ∈ t.owedStores ↔ o ∈ s.owedStores ∧ o.peer ≠ peer.toNat) ∧
       ∀ o ∈ s.owedStores, o.peer = peer.toNat → .notificationRecord o.note ∈ t.events) ∧
     ∀ slot pos neg, .mcstAnswer slot pos neg ∈ s.events → peer.toNat ∈ pos → (up = false ∨ inc ≠ (s.peer peer).inc) →
       .mcstAnswer slot (pos.filter fun q => q != peer.toNat) (peer.toNat :: neg) ∈ t.events))

/-! Trust, upkeep and bring-up (spec/25_trust_and_upkeep.md). -/

/-- R472, R484, R486: COLD_RESET empties every slot, table, queue, cache and memory of the device, keeps the retirements and what is
not the device's, measures each boot image, and puts the standard sluice program, if verified, into every code store;
else the device is in recovery. That memory reads 0 then is the model's choice (notes/assumptions/1.md).

R471, R475: an extend replaces one register by the digest of its old bytes and the new ones and no other; every append raises
SEQ by 1, chains the head over the 64-byte entry, and writes it to its place in the ring; one by firmware of another kind than 7 is
empty. The layout is the model's (notes/assumptions/14.md). An append waits while the host holds a copy of its place (R432).

R474, R480: a report holds its version, the nonce, every measurement register, the audit head and SEQ as they were, and the
signature of their digest; one key-use entry is appended. It also goes to the mailbox once that is placed (notes/assumptions/45.md).
A nonce not delivered (R18) makes no report (notes/assumptions/63.md).

R478, R479: a failure takes a spare row for an HBM bank that has one left, and otherwise retires a unit that nobody uses and
keeps one in use until its release; a retired bank is reported. A success counts a transient. Either is logged; a unit that failed
before is counted no more. A core that fails halts its threads, each after its Stalled instruction (R50): its gang is spilled, or it
is removed with a record. The number of further spare rows is free (notes/assumptions/36.md).

R3, R401, R402, R428, R434, R436, R438, R443, R473, R481, R485: the management path sets the register, table or place that its
write names, less reserved bits; a port's mode and the places of the three areas hold from the end of bring-up on, when waiting
launch slots are parsed; a frequency change changes nothing else. Whether completions of a port and answers of a peer arrive at once
are the model's own switches (notes/assumptions/26.md, 27.md). -/
def Obligations.Upkeep : Prop :=
  (∀ s : State, ∃ t, exec .coldReset s = .next t ∧ t.cpu = Thread.free 0 ∧ t.others = [] ∧ t.cores = [] ∧ t.contexts = [] ∧ t.tlb = [] ∧
     t.copies = [] ∧ t.dirs = [] ∧ t.stamps = [] ∧ t.resvs = [] ∧ t.gangs = [] ∧ t.queues = [] ∧ t.sweeps = [] ∧ t.peers = [] ∧ t.exports = [] ∧
     t.island.booted = false ∧ t.island.seq = 15 ∧ (∀ u, u ∈ t.retired ↔ u ∈ s.retired ∨ u ∈ s.failing) ∧
     t.failing = [] ∧ t.island.spares = s.island.spares ∧ t.answers = s.answers ∧
     (∀ a, a < 2 ^ 52 → Memory.lookup t.mem a = 0) ∧ (∀ a, 2 ^ 54 ≤ a → a < 2 ^ 56 → Memory.lookup t.mem a = 0) ∧
     (∀ a, (2 ^ 52 ≤ a ∧ a < 2 ^ 53) ∨ 2 ^ 56 ≤ a → Memory.lookup t.mem a = Memory.lookup s.mem a) ∧
     (∀ d, d < 6 → Memory.reads t.mem (sluiceKey d 0) 24 = if Config.imageVerifies 3 = true
       then standardProgram.flatMap fun (h : Half) => leBytes 2 h.toNat else List.replicate 24 0) ∧
     (∀ j, (h : j < 48) → t.island.mr[j] = if j % 8 ≤ 1 ∨ j ≤ 4
       then Config.sha512 (List.replicate 64 0 ++ leBytes 64 (Config.imageDigest j).toNat) else 0) ∧
     (t.island.recovery = true ↔ ∃ n ∈ [2, 3, 4, 0, 1, 8, 9, 16, 17, 24, 25, 32, 33, 40, 41], Config.imageVerifies n = false)) ∧
  ((∀ s : State, s.island.ringSize ≠ 0 → s.hostFree (s.island.ringBase + 64 * (s.island.seq.toNat % s.island.ringSize)) 64 = false →
     (s.dirs.map DirEntry.grain).Nodup → ∀ die reg (x : BitVec 512) kind (y : BitVec 384) ctx scope num, die < 6 → reg < 8 →
     ∀ i ∈ [Instr.measurementExtend die reg x, .auditAppend kind y, .scrubComplete ctx scope num], ∃ t, exec i s = .next t ∧
       t = { s with events := t.events } ∧ i ∈ t.events ∧
       ∃ d ∈ s.dirs, (d.hostA = true ∨ d.hostB = true) ∧ .backInvalidationAnswer (if d.hostA then .a else .b) d.grain ∈ t.events) ∧
   ∀ s : State, (s.island.ringSize ≠ 0 → s.hostFree (s.island.ringBase + 64 * (s.island.seq.toNat % s.island.ringSize)) 64 = true) →
     let entry (kind source ctx : Nat) (payload : List Byte) : List Byte :=
       leBytes 8 (s.island.seq + 1).toNat ++ leBytes 2 kind ++ leBytes 2 source ++ leBytes 4 ctx ++ (payload ++ List.replicate 48 0).take 48
     let logged (t : State) (e : List Byte) : Prop := t.island.seq = s.island.seq + 1 ∧
       t.island.head = Config.sha512 (leBytes 64 s.island.head.toNat ++ e) ∧ t.cpu = s.cpu ∧ t.others = s.others ∧
       t.mem = if s.island.ringSize = 0 then s.mem
         else Memory.writes s.mem (s.island.ringBase + 64 * (s.island.seq.toNat % s.island.ringSize)) e
     (∀ die reg (x : BitVec 512), (h : die < 6 ∧ reg < 8) → ∃ t, exec (.measurementExtend die reg x) s = .next t ∧
       logged t (entry 6 0xFFFF 0 (leBytes 8 (8 * die + reg) ++ (leBytes 64 x.toNat).take 32)) ∧
       ∀ j, (g : j < 48) → t.island.mr[j] =
         if j = 8 * die + reg then Config.sha512 (leBytes 64 s.island.mr[j].toNat ++ leBytes 64 x.toNat) else s.island.mr[j]) ∧
     (∀ kind (x : BitVec 384), ∃ t, exec (.auditAppend kind x) s = .next t ∧ t.island.mr = s.island.mr ∧
       logged t (entry 7 0xFFFF 0 (if kind = 7 then leBytes 48 x.toNat else []))) ∧
     (∀ ctx scope num, ∃ t, exec (.scrubComplete ctx scope num) s = .next t ∧ t.island.mr = s.island.mr ∧
       logged t (entry 3 (if scope = 1 then num / 8 else if scope = 0 then num / 512 % 512 else 0xFFFF) ctx (leBytes 8 scope ++ leBytes 8 num)))) ∧
  ((∀ s : State, ∃ t, exec (.attestationRequest none) s = .next t ∧ t = { s with events := t.events, free := t.free }) ∧
   ∀ (nonce : BitVec 512) (s : State), s.hostless → ∃ t, exec (.attestationRequest (some nonce)) s = .next t ∧
     let r := t.island.report
     let body := r.take 0xCB0
     let sig := Config.signature (Config.sha512 body)
     r.length = 0xCB0 + 132 ∧ r.take 8 = leBytes 8 1 ∧ (r.drop 0x20).take 64 = leBytes 64 nonce.toNat ∧
     (∀ j, (h : j < 48) → (r.drop (0x60 + 64 * j)).take 64 = leBytes 64 s.island.mr[j].toNat) ∧
     (r.drop 0xC60).take 64 = leBytes 64 s.island.head.toNat ∧ (r.drop 0xCA0).take 8 = leBytes 8 s.island.seq.toNat ∧
     (r.drop 0xCB0).take 66 = (leBytes 66 sig.1.toNat).reverse ∧ r.drop (0xCB0 + 66) = (leBytes 66 sig.2.toNat).reverse ∧
     (s.island.booted = true → s.island.ringSize = 0 → Memory.reads t.mem s.island.mbox r.length = r) ∧
     t.island.seq = s.island.seq + 1 ∧ t.island.mr = s.island.mr ∧ t.cpu = s.cpu ∧ t.others = s.others) ∧
  (∀ (u : TestUnit) (s : State), s.hostless →
     let spare : Prop := ∃ d b, u = .bank d b ∧ assocD 0 (d, b) s.island.spares ≤ Config.furtherSpareRows (64 * d + b)
     (∃ t, exec (.selfTestVerdict u true) s = .next t ∧ t.island.transients =
         assocSet u (assocD 0 u s.island.transients + 1) s.island.transients ∧ t.island.seq = s.island.seq + 1 ∧
       t.retired = s.retired ∧ t.failing = s.failing ∧ t.cpu = s.cpu ∧ t.others = s.others) ∧
     (u ∈ s.retired ∨ u ∈ s.failing → ∃ t, exec (.selfTestVerdict u false) s = .next t ∧ t.island.seq = s.island.seq + 1 ∧
       t.island.spares = s.island.spares ∧ t.island.reported = s.island.reported ∧
       ∀ x, x ∈ t.retired ∨ x ∈ t.failing ↔ x ∈ s.retired ∨ x ∈ s.failing) ∧
     (u ∉ s.retired → u ∉ s.failing →
     (∀ d b, u = .bank d b → spare → ∃ t, exec (.selfTestVerdict u false) s = .next t ∧ t.island.seq = s.island.seq + 1 ∧
       t.island.spares = assocSet (d, b) (assocD 0 (d, b) s.island.spares + 1) s.island.spares ∧ t.cpu = s.cpu ∧ t.others = s.others) ∧
     (¬spare → ∃ t, exec (.selfTestVerdict u false) s = .next t ∧ t.island.seq = s.island.seq + 1 ∧
       (∀ d b, u = .bank d b → t.island.reported = s.island.reported ++ [(d, b)]) ∧ (u ∈ t.retired ∨ u ∈ t.failing) ∧
       (u ∈ t.failing ↔ s.unitInUse u = true) ∧ (s.unitInUse u = false → u ∈ t.retired) ∧ t.cpu = s.cpu ∧ t.others = s.others ∧
       (∀ k, u = .core k → ∀ x ∈ s.threads, x.isRill = false → x.coreId = k → x.id ∈ t.halting))) ∧
     ∀ t, s.halting = [t.id] → s.thread? t.id = some t →
       ((t.state = .stalled ∨ t.state = .loading) → s.haltFailed = s) ∧
       (t.state = .ready → t.isSluice = false → s.haltFailed.halting = [] ∧ ∃ v, s.haltFailed.thread? t.id = some v ∧
         (v.state = .spilling ∧ (∃ w, .gangSpill t.gang w ∈ s.haltFailed.events) ∨
           v.state = .draining ∧ ∃ n, .notificationRecord n ∈ s.haltFailed.events ∧ n.kind = 1 ∧ n.cause = 0x19 ∧ n.trappc = t.pc))) ∧
  (∀ s : State,
     let wr (w : MgmtWrite) := exec (.managementRegisterWrite w) s
     (∀ c p, (h : c < 384) → ∃ v, wr (.clupart c p) = .next { s with clupart := v } ∧ ∀ j, (g : j < 384) → v[j] = if j = c then p else s.clupart[j]) ∧
     (∀ n x, (h : n < 16) → ∃ v, wr (.tencfg n x) = .next { s with tencfg := v } ∧ ∀ j, (g : j < 16) → v[j] = if j = n then x &&& 0x1FFFF else s.tencfg[j]) ∧
     (∀ n a b, ∃ t, wr (.group n a b) = .next t ∧ t = { s with groups := t.groups } ∧
       let x := a &&& 0x03FFFFFFFFFFFE01
       let y := b &&& 0xFFF
       first? (fun e => e.num == n) t.groups = (if x = 0 ∧ y = 0 then none else some { num := n, dw0 := x, dw1 := y })) ∧
     (∀ p m, ∃ t, wr (.portMode p m) = .next t ∧ (t.port p).pcie = if s.island.booted then (s.port p).pcie else m) ∧
     (∀ p on, ∃ t, wr (.atomicEnable p on) = .next t ∧ t.port p = { s.port p with atomics := on }) ∧
     (∀ n i, wr (.self n i) = .next { s with selfNum := n, selfInc := i }) ∧
     (∀ p i c tables lo hi rd w, ∃ e, wr (.exportAdd p i c tables lo hi rd w) = .next { s with exports := s.exports ++ [e] } ∧
       e.peer = p ∧ e.inc = i ∧ e.ctx = c ∧ e.tables = tables ∧ e.lo = lo ∧ e.hi = hi ∧ e.rd = rd ∧ e.wr = w) ∧
     (∀ p c, ∃ l, wr (.exportRemove p c) = .next { s with exports := l } ∧ ∀ e, e ∈ l ↔ e ∈ s.exports ∧ ¬(e.peer = p ∧ e.ctx = c)) ∧
     (∀ p c lo hi rd w, ∃ e, wr (.grant p c lo hi rd w) = .next { s with grants := s.grants ++ [e] } ∧
       e.peer = p ∧ e.ctx = c ∧ e.lo = lo ∧ e.hi = hi ∧ e.rd = rd ∧ e.wr = w) ∧
     (∀ p c, ∃ l, wr (.revoke p c) = .next { s with grants := l } ∧ ∀ e, e ∈ l ↔ e ∈ s.grants ∧ ¬(e.peer = p ∧ e.ctx = c)) ∧
     (∀ b n, wr (.auditRing b n) = .next { s with island := { s.island with ringBase := b, ringSize := n } }) ∧
     (∃ t, wr .bootDone = .next t ∧ t = { s with island := { s.island with booted := !s.island.recovery }, events := t.events } ∧
       (s.island.recovery = true → t.events = s.events) ∧
       (s.island.recovery = false → ∀ k, k < 64 → Memory.lookup s.mem (s.island.lwin + 128 * k + 0x7F) ≠ (s.launch k).accepted →
         .launchParse k ∈ t.events)) ∧
     (∀ p, wr (.errorLog p) = .next { s with answers := some (BitVec.ofNat 128 (s.port p).errlog) :: s.answers }) ∧
     (∀ p on, ∃ t, wr (.portAnswers p on) = .next t ∧ (t.port p).answers = on ∧ (on = true → (t.port p).posts = []) ∧ t.cpu = s.cpu) ∧
     (∀ p on, ∃ t, wr (.peerAnswers p on) = .next t ∧ (on = false → t = { s with peers := t.peers }) ∧
       (∀ e ∈ s.peers, e.num = p → (t.peer p).answers = on) ∧ (on = true → ∀ o ∈ t.owedStores, o.peer ≠ p.toNat) ∧
       ∀ o k bs, on = true → (s.owedStores.filter fun o => o.peer == p.toNat) = [o] → o.what = .bytes k bs → t.mem = Memory.writes s.mem k bs) ∧
     (wr .certificate = .next { s with island := { s.island with certificate := Config.certificate } }) ∧
     (∀ l m c a b, s.island.booted = true → wr (.place l m c a b) = .next s) ∧
     (∀ l m c a b, s.island.booted = false → l % 0x2000 = 0 → m % 0x1000 = 0 → c % 0x1000 = 0 → l + 0x2000 ≤ 2 ^ 37 → m + 0x1000 ≤ 2 ^ 37 →
       c + 0x1000 ≤ 2 ^ 37 → ∃ t, wr (.place l m c a b) = .next t ∧ t.island.lwin = l ∧ t.island.mbox = m ∧ t.island.ctrl = c ∧ t.portA.hdmBase = a ∧
       t.portB.hdmBase = b ∧ ∀ q, (l ≤ q ∧ q < l + 0x2000) ∨ (m ≤ q ∧ q < m + 0x1000) ∨ (c ≤ q ∧ q < c + 0x1000) → Memory.lookup t.mem q = 0) ∧
     ∀ die mhz, (h : die < 6) → ∃ v, exec (.frequencyChange die mhz) s = .next { s with island := { s.island with freq := v } } ∧
       ∀ j, (g : j < 6) → v[j] = if j = die then mhz else s.island.freq[j])

/-- R482, R483: a create request with the device up is answered with STATUS 1 when it is malformed, 2 when no context is free, and
otherwise STATUS 0 and the least free number, which exists from then on with the registers of the request; DONESEQ becomes SEQ. The host
holds no copy of what is written (R432).

R158, R422, R476, R482, R483: a release removes the context's threads, gangs and queue entries; once none of its copies runs,
its frames are zeroed, its translations dropped and its scrubs started; when they are logged the context is gone and STATUS is 0. A
request for a context that does not exist is answered with STATUS 3. The phases and their order are the model's reading
(notes/assumptions/32.md), as is what a step of the release that slot k has asked for is called, CONTEXT_RELEASE of k + 32. The host
holds no copy of what is written (R432). -/
def Obligations.Contexts : Prop :=
  (∀ (k : Nat) (s : State),
     let a := s.island.ctrl + 128 * k
     let seq := Memory.lookup s.mem (a + 0x7F)
     let dw (o : Nat) : Word := s.dwordAt (a + o)
     k < 32 → s.island.recovery = false → s.island.booted = true → seq ≠ s.accepted k → (∀ c ∈ s.contexts, c.closing = false) → dw 0 ≠ 2 → s.hostless →
     s.badAt a 0x40 = false → s.badAt (a + 0x7F) 1 = false →
     let answered (t : State) (status : Word) : Prop := t.dwordAt (a + 0x40) = status ∧ Memory.lookup t.mem (a + 0x7E) = seq ∧ t.accepted k = seq
     (dw 0 ≠ 1 ∨ s.createOk k = false → ∃ t, exec (.contextCreate k) s = .next t ∧ answered t 1 ∧ t.contexts = s.contexts) ∧
     (dw 0 = 1 → s.createOk k = true → (∀ n, n < 4096 → s.context? n ≠ none) →
       ∃ t, exec (.contextCreate k) s = .next t ∧ answered t 2 ∧ t.contexts = s.contexts) ∧
     (∀ n, dw 0 = 1 → s.createOk k = true → n < 4096 → s.context? n = none → (∀ m, m < n → s.context? m ≠ none) →
       ∃ t c, exec (.contextCreate k) s = .next t ∧ answered t 0 ∧ t.dwordAt (a + 0x48) = BitVec.ofNat 64 n ∧ t.contexts = s.contexts ++ [c] ∧
         c.num = n ∧ c.tenant = ((dw 8).extractLsb' 0 4).toNat ∧ c.priv = (dw 8).getLsbD 8 ∧ c.pageroot = dw 0x10 ∧ c.regiontab = dw 0x18 ∧
         c.supvec = dw 0x20 ∧ c.hctx = dw 0x28 ∧ t.island.seq = s.island.seq + 1)) ∧
  (∀ (k : Nat) (s : State),
     let a := s.island.ctrl + 128 * k
     let seq := Memory.lookup s.mem (a + 0x7F)
     let dw (o : Nat) : Word := s.dwordAt (a + o)
     let n := ((dw 8).extractLsb' 0 12).toNat
     let nfr := (dw 0x38).toNat
     let answered (t : State) (status : Word) : Prop := t.dwordAt (a + 0x40) = status ∧ Memory.lookup t.mem (a + 0x7E) = seq ∧ t.accepted k = seq
     k < 32 → s.hostless →
     (s.badAt a 0x40 = false → s.badAt (a + 0x7F) 1 = false → s.island.recovery = false → s.island.booted = true → seq ≠ s.accepted k → (∀ c ∈ s.contexts, c.closing = false) → dw 0 = 2 →
       (dw 8 &&& ~~~0xFFF ≠ 0 ∨ 65536 < nfr ∨ Config.deviceBytes < (dw 0x30).toNat + 16 * nfr →
         ∃ t, exec (.contextRelease k) s = .next t ∧ answered t 1 ∧ t.contexts = s.contexts) ∧
       (dw 8 &&& ~~~0xFFF = 0 → nfr ≤ 65536 → (dw 0x30).toNat + 16 * nfr ≤ Config.deviceBytes →
         (s.context? n = none → ∃ t, exec (.contextRelease k) s = .next t ∧ answered t 3 ∧ t.contexts = s.contexts) ∧
         (∀ c, s.context? n = some c → ∃ t, exec (.contextRelease k) s = .next t ∧ t.accepted k = seq ∧
           t.context? n = some { c with closing := true, releaser := k, frames := (dw 0x30).toNat, nframes := nfr } ∧ .contextRelease (k + 32) ∈ t.events ∧
           (∀ j, j < 64 → (t.launch j).running = (s.launch j).running) ∧ (∀ g ∈ t.gangs, g.ctx ≠ n) ∧
           (∀ q ∈ t.queues, q.ctx ≠ n) ∧ (∀ u ∈ s.threads, u.ctx = n → u.isSluice = false → t.thread? u.id = none) ∧
           ∀ u, s.thread? u.id = some u → u.ctx ≠ n → (∀ x ∈ s.threads, x.ctx = n → x.id ≠ u.id) → t.thread? u.id ≠ none))) ∧
     (∀ c, s.releasing k = some c → s.context? c.num = some c →
       let n := c.num
       let back := exec (.contextRelease (k + 32)) s = .next { s with events := s.events ++ [.contextRelease (k + 32)] }
       (c.scrubbing = false → s.copying n = true → back) ∧ (c.scrubbing = true → s.scrubPending n = true → back) ∧
       (c.scrubbing = false → s.copying n = false →
         ∃ t, exec (.contextRelease (k + 32)) s = .next t ∧ t.context? n = some { c with scrubbing := true } ∧ t.portA.posts = [] ∧ t.portB.posts = [] ∧
           (∀ j, j < 64 → (s.launch j).running = true → (s.launch j).ctx = n → (t.launch j).running = false) ∧ (∀ e ∈ t.tlb, e.ctx ≠ n) ∧
           (∀ x ∈ t.cores, ∀ e ∈ x.micro ++ x.microI, e.ctx ≠ n) ∧
           (∀ x ∈ t.cores, x.ctx ≠ some n) ∧ (∀ scope ∈ [2, 3, 4], .scrubComplete n scope 0 ∈ t.events) ∧ .contextRelease (k + 32) ∈ t.events ∧
           (s.island.ringSize = 0 → s.portA.posts = [] → s.portB.posts = [] →
           (c.frames + 16 * c.nframes ≤ s.island.lwin ∨ s.island.lwin + 0x2000 ≤ c.frames) → ∀ j, j < c.nframes → s.badAt (c.frames + 16 * j) 16 = false →
             let f := (s.dwordAt (c.frames + 16 * j)).toNat
             let m := (s.dwordAt (c.frames + 16 * j + 8)).toNat
             ∀ q, f ≤ q → q < f + m * 16384 → q < Config.deviceBytes → Memory.lookup t.mem q = 0)) ∧
       (c.scrubbing = true → s.scrubPending n = false → ∃ t, exec (.contextRelease (k + 32)) s = .next t ∧ t.context? n = none ∧
         t.dwordAt (a + 0x40) = 0 ∧ Memory.lookup t.mem (a + 0x7E) = s.accepted k)))

/-! The machine as a whole. -/

/-- R62, R72, R242, R402, R475, R484: after reset every slot is Free and clear, WEIRLIM is 0x0010_0000 and p0 is 1, every table and
queue is empty, every launch slot is idle, memory is in its canonical form, and no thread's p0 is 0. Where the spec gives no value
after reset the value here is the model's choice (notes/assumptions/1.md, 2.md). -/
def Obligations.ResetState : Prop :=
  let s := State.reset
  s.threads = [] ∧ s.cpu.weirlim = 0x00100000 ∧ s.cpu.p = 1 ∧ s.cpu.iter = 0 ∧ s.cpu.pc = 0 ∧ (∀ n, s.cpu.reg n = 0) ∧ s.contexts = [] ∧
  s.tlb = [] ∧ s.copies = [] ∧ s.resvs = [] ∧ s.weir = [] ∧ s.stamps = [] ∧ s.gangs = [] ∧ s.queues = [] ∧ s.sweeps = [] ∧ s.records = [] ∧
  (∀ k, (s.launch k).running = false ∧ (s.launch k).accepted = 0) ∧ (∀ k, (s.core k).ctx = none ∧ (s.core k).cycle = 0 ∧
    (s.core k).windows = [] ∧ (s.core k).fmt.holder = none ∧ (s.core k).mailbox = [] ∧ ∀ h ∈ (s.core k).handles.toList, h.count = 0) ∧
  (∀ a, Memory.lookup s.mem a = 0) ∧ s.memOk ∧ s.p0Ok

/-- R39, R48, R281: when it is the turn of a core or slice core, the ready thread whose turn comes first issues: the instruction
that its fetch decodes is executed as exec says, and then the cycle ends; what follows is the same for every step (afterMove). With
no ready thread the cycles pass. An event is handled as exec says, unless it needs memory while a bank or way is under test: then it
comes back. Whose turn it is, is the model's choice (notes/assumptions/3.md), as is which events wait for a test
(notes/assumptions/37.md). Around exec stand what the model keeps of an instruction under way, its translations (anew, fetched;
R491, notes/assumptions/8.md), and the data flow of its registers (flowed; R201, notes/assumptions/46.md), of which neither is a
register or memory. -/
def Obligations.StepRunsDecoded : Prop :=
  (∀ (s s1 : State) (k : Nat), s.nextMove = some (.core k, s1) →
    (∀ t i u, s1.nextThread k = some t → (s1.turnOf k t).cpu.nomap = none → fetch (s1.turnOf k t).anew = .ok i u →
      step s = afterMove (match exec i u.fetched with | .next v => .next ((u.fetched.flowed i v).endTurn k) | r => r)) ∧
    (∀ t e u, s1.nextThread k = some t → (s1.turnOf k t).cpu.nomap = none → fetch (s1.turnOf k t).anew = .illegal e u →
      step s = afterMove (.next ((takeTrap u.fetched 0x01 (BitVec.ofNat 64 (e.pos * 2 ^ 16) ||| e.half.setWidth 64) 0 e.len).endTurn k))) ∧
    (s1.nextThread k = none → step s = afterMove (.next (s1.idle k)))) ∧
  (∀ (s s1 : State) (e : Instr), s.nextMove = some (.event e, s1) →
    (needsMemory e = false ∨ s1.memTested = false → step s = afterMove (exec e s1.anew)) ∧
    (needsMemory e = true → s1.memTested = true → step s = afterMove (.next (s1.postAgain e)))) ∧
  ∀ (i : Instr) (u v : State), u.anew = { u with used := [] } ∧
    u.fetched = { u with used := [], cpu := { u.cpu with walks := [], asked := none, reply := .none, awaits := none } } ∧
    u.flowed i v = { v with cpu := (u.flowed i v).cpu, others := (u.flowed i v).others } ∧
    ∀ n t, v.thread? n = some t → ∃ w, (u.flowed i v).thread? n = some w ∧ w = { t with flow := w.flow, flumeFlow := w.flumeFlow, got := w.got }

/-- R25, R33, R39, R43, R160: where the thread's context maps the halfwords of a chain to executable pages of the device, all in one
page or each by a translation that the core holds already, and no line that the instruction cache holds says otherwise, a fetch at
the pc decodes exactly those halfwords and changes no more than what caches hold. That a cached translation is used, and what an
instruction cache may hold, is the model's reading (notes/assumptions/8.md, 11.md). -/
def Obligations.FetchReadsEncoding : Prop :=
  ∀ (i : Instr) (s : State) (e : Nat → TlbEntry), WellFormed i = true → s.cpu.isSluice = false → s.cpu.pc.getLsbD 0 = false →
    let t := s.cpu
    let w : Walker := { t.walker with fetch := true }
    let va (j : Nat) : Word := t.pc + BitVec.ofNat 64 (2 * j)
    let n := (encode i).length
    (∀ j, j < n → (va j).toNat < 2 ^ 58 ∧ inAperture (va j) = false ∧
      lookup s w (va j).toNat = .leaf (e j) ∧ ((tlbFind s w (va j).toNat).isSome = true ∨ s.walkWaits w = false) ∧ (e j).exec = true ∧ (t.sup = true ∨ (e j).user = true) ∧
      (e j).invalid = false ∧ (e j).home = 0 ∧ s.badAt ((e j).physical (va j).toNat) 2 = false ∧
      s.testing ((e j).physical (va j).toNat) 2 = false ∧ s.owedAt ((e j).physical (va j).toNat) 2 = false ∧
      s.instrTested t.agent ((e j).physical (va j).toNat) = false ∧
      (∀ l, (s.core t.agent).iline? ((e j).physical (va j).toNat) = some l → l.data.length = 512 ∧
        let o := (e j).physical (va j).toNat % 512
        halfOfBytes (l.data.getD o 0) (l.data.getD (o + 1) 0) =
          halfOfBytes (Memory.lookup s.mem ((e j).physical (va j).toNat)) (Memory.lookup s.mem ((e j).physical (va j).toNat + 1)) ∧
        (e j).physical (va j).toNat / 32 ∉ l.bad) ∧
      (encode i)[j]? = some (halfOfBytes (Memory.lookup s.mem ((e j).physical (va j).toNat)) (Memory.lookup s.mem ((e j).physical (va j).toNat + 1)))) →
    ((∀ j, j < n → e j = e 0) ∨ (∀ j, j < n → tlbFind s w (va j).toNat = some (e j) ∧
      s.cacheLeaf w (e j) = { s with used := (s.cacheLeaf w (e j)).used })) →
    ∃ u, fetch s = .ok i u ∧ u = { s with cores := u.cores, tlb := u.tlb, copies := u.copies, tracked := u.tracked, free := u.free, used := u.used } ∧
      ∀ k, u.core k = { s.core k with microI := (u.core k).microI, icache := (u.core k).icache }

/-- The worked encodings of spec/03_instruction_words.md, spec/15_copies_and_buffers.md (the standard sluice program, R486) and
spec/24_assembler_reference.md (BL, JR) decode to the instructions that they are given for, and the malformed chains are refused at the
halfword that the table names. -/
def Obligations.DecodeWords : Prop :=
  let plain : Chain := { guard := 0, inv := false, hasXQ := false, hasXR := false, nxi := 0 }
  decode [0xF802, 0xF402, 0xFC02, 0x0026] = .ok (.ldaw { plain with hasXQ := true, hasXR := true } 1 6 2 0 2) [] ∧
  decode [0xF785, 0x1086] = .ok (.add { plain with hasXR := true } 100 70 5) [] ∧
  decode [0xF3FC, 0x187C] = .ok (.addi { plain with nxi := 1 } 3 (-100)) [] ∧
  decode [0xF007, 0x443F] = .ok (.andi { plain with nxi := 1 } 1 0xFF) [] ∧
  decode [0xF001, 0x5C48] = .ok (.shli { plain with nxi := 1 } 2 40) [] ∧
  decode [0xFCCA, 0xF004, 0xF000, 0xD126] = .ok (.std { plain with guard := 3, hasXQ := true, nxi := 2 } 9 6 0x1000 ⟨.ordered, .device⟩) [] ∧
  decode [0xF802, 0x6500] = .ok (.mbget plain 8) [] ∧ decode [0xF802, 0x690D] = .ok (.xfer plain 8 13) [] ∧
  decode [0xF802, 0x6D8D] = .ok (.mbpost plain 12 13) [] ∧ decode [0x7D60] = .ok (.cne plain 11 0 0) [] ∧
  decode [0xFC40, 0xAC00] = .ok (.endThread { plain with guard := 1, hasXQ := true }) [] ∧ decode [0x9FF5] = .ok (.br plain (-11)) [] ∧
  decode [0xF000, 0xA1F0] = .ok (.bl { plain with nxi := 1 } 15 16) [] ∧ decode [0xA40F] = .ok (.jr plain 0 15) [] ∧
  decode [0xFC20, 0x0400] = .ok (.nop { plain with inv := true, hasXQ := true }) [] ∧
  (∀ p ∈ ([([0xFC40, 0xFC02, 0x0861], 1), ([0xF001, 0xF801, 0x3C01], 1), ([0xF805, 0x3C01], 0), ([0xF811, 0x3C01], 0),
      ([0xF000, 0xF000, 0xF000, 0xF000, 0x0C20], 3), ([0xF802, 0xF400, 0xFC00, 0xF000, 0xF000, 0x0026], 4), ([0xF001, 0x1041], 1),
      ([0xF002, 0x5C40], 1), ([0xF801, 0x7C00], 1), ([0xFC41, 0x0C25], 1)] : List (List Half × Nat)),
    match decode p.1 with | .illegal e => e.pos = p.2 | _ => False)

/-- R26 to R36, R40: decoding the encoding of a well-formed instruction gives it back, with every operand, and uses no halfword more. -/
def Obligations.DecodeEncode : Prop :=
  ∀ (i : Instr) (rest : List Half), WellFormed i = true → decode (encode i ++ rest) = .ok i rest

/-- R26 to R36, R44: whatever decodes is well formed, and its encoding is the halfwords that were decoded: each chain of halfwords has one
meaning and each instruction's chain one spelling. -/
def Obligations.EncodeDecode : Prop :=
  ∀ (hs : List Half) (i : Instr) (rest : List Half), decode hs = .ok i rest → WellFormed i = true ∧ encode i ++ rest = hs

/-- Every step keeps memory in its canonical form, so that equal memories are equal data: the form is the model's choice
(notes/assumptions/2.md). -/
def Obligations.MemoryKept : Prop := ∀ s t : State, s.memOk → step s = .next t → t.memOk

/-- R62: p0 reads 1 in every thread, whatever step the machine takes. -/
def Obligations.P0Kept : Prop := ∀ s t : State, s.p0Ok → step s = .next t → t.p0Ok

/-- No step is refused: the meaning of every instruction and event of the table has an outcome of its own in every state. -/
def Obligations.NeverRefused : Prop := ∀ (i : Instr) (s : State) (r : Refusal), exec i s ≠ .refused r ∧ step s ≠ .refused r
end

