-- ==== Sys2Proof/Laws/Exec.lean ====
section
/-!
SUPPORT. How a meaning runs: the computations of `Exec` one by one, the checks that pass, and the reads and writes of
register fields. A meaning's next state is read off with these, without unfolding the operations.
-/
namespace Sys2Proof.Machine

/-! `Exec`. -/

@[simp] theorem exec_pure {α : Type} (a : α) (s : State) : (pure a : Exec α) s = .ok (a, s) := rfl

theorem exec_bind {α β : Type} (m : Exec α) (f : α → Exec β) (s : State) :
    (m >>= f) s = match m s with | .ok (a, s') => f a s' | .error e => .error e := by
  show (StateT.bind m f) s = _
  unfold StateT.bind
  cases m s <;> rfl

theorem exec_map {α β : Type} (f : α → β) (m : Exec α) (s : State) :
    (f <$> m) s = match m s with | .ok (a, s') => .ok (f a, s') | .error e => .error e := by
  show (StateT.map f m) s = _
  unfold StateT.map
  cases m s <;> rfl

theorem exec_ite {α : Type} (c : Prop) [Decidable c] (m n : Exec α) (s : State) :
    (if c then m else n) s = if c then m s else n s := by split <;> rfl

/-- Go on after a computation that answers. -/
theorem exec_bind_ok {α β : Type} {m : Exec α} {f : α → Exec β} {s s' : State} {a : α} (h : m s = .ok (a, s')) :
    (m >>= f) s = f a s' := by rw [exec_bind, h]

/-- A computation that stops ends the whole. -/
theorem exec_bind_error {α β : Type} {m : Exec α} {f : α → Exec β} {s : State} {e : Stop} (h : m s = .error e) :
    (m >>= f) s = .error e := by rw [exec_bind, h]

/-- What a sequence that answers did. -/
theorem exec_bind_inv {α β : Type} {m : Exec α} {f : α → Exec β} {s t : State} {b : β} (h : (m >>= f) s = .ok (b, t)) :
    ∃ a s', m s = .ok (a, s') ∧ f a s' = .ok (b, t) := by
  rw [exec_bind] at h
  cases hm : m s with
  | error e => rw [hm] at h; cases h
  | ok r => exact ⟨r.1, r.2, rfl, by rw [hm] at h; exact h⟩

@[simp] theorem exec_get (s : State) : (get : Exec State) s = .ok (s, s) := rfl
@[simp] theorem exec_set (t s : State) : (set t : Exec Unit) s = .ok ((), t) := rfl
@[simp] theorem exec_modify (f : State → State) (s : State) : (modify f : Exec Unit) s = .ok ((), f s) := rfl
@[simp] theorem exec_throw {α : Type} (e : Stop) (s : State) : (throw e : Exec α) s = .error e := rfl
@[simp] theorem getCpu_ok (s : State) : getCpu s = .ok (s.cpu, s) := rfl
@[simp] theorem getCore_ok (s : State) : getCore s = .ok (s.myCore, s) := rfl
@[simp] theorem modCpu_ok (f : Thread → Thread) (s : State) : modCpu f s = .ok ((), { s with cpu := f s.cpu }) := rfl
@[simp] theorem modCore_ok (f : Core → Core) (s : State) : modCore f s = .ok ((), s.putCore (f s.myCore)) := rfl
@[simp] theorem trap_error {α : Type} (c : BitVec 8) (v : Word) (x : BitVec 32) (s : State) :
    (trap c v x : Exec α) s = .error (.trap c v x) := rfl
@[simp] theorem park_error {α : Type} (r : WaitRec) (s : State) : (park r : Exec α) s = .error (.wait true r []) := rfl
@[simp] theorem stall_error {α : Type} (r : WaitRec) (s : State) : (stall r : Exec α) s = .error (.wait false r s.used) := rfl
@[simp] theorem done_ok (i : Instr) (s : State) : done i s = .ok ((), s.advance i.len) := rfl
@[simp] theorem choose_ok (s : State) : choose s = .ok (Config.freeBit s.free, { s with free := s.free + 1 }) := rfl

theorem trapIf_ok {b : Bool} (h : b = false) (c : BitVec 8) (v : Word) (x : BitVec 32) (s : State) :
    trapIf b c v x s = .ok ((), s) := by subst h; rfl

theorem trapIf_error {b : Bool} (h : b = true) (c : BitVec 8) (v : Word) (x : BitVec 32) (s : State) :
    trapIf b c v x s = .error (.trap c v x) := by subst h; rfl

theorem memErrIf_ok {b : Bool} (h : b = false) (u : Option TestUnit) (v : Word) (s : State) : memErrIf b u v s = .ok ((), s) := by
  subst h; rfl

theorem first?_none {α : Type} {p : α → Bool} {l : List α} (h : ∀ x ∈ l, p x = false) : first? p l = none := by
  induction l with
  | nil => rfl
  | cons x xs ih => simp [first?, h x (by simp), ih fun y hy => h y (by simp [hy])]

/-! A chain. -/

/-- A meaning whose guard holds and whose body answers completes in the state the body reaches. -/
theorem runChain_ok {c : Chain} {i : Instr} {body : Exec Unit} {s t : State} (hg : guardOn c s.cpu.p = true)
    (hb : body s = .ok ((), t)) : runChain c i body s = .next t := by
  simp [runChain, hg, finish, hb]

/-- A chain whose guard is false does nothing but go on (R38). -/
theorem runChain_off {c : Chain} {i : Instr} {body : Exec Unit} {s : State} (hg : guardOn c s.cpu.p = false) :
    runChain c i body s = .next (s.advance i.len) := by
  simp [runChain, hg]

/-- A meaning that traps enters the trap in the state before the chain (R39). -/
theorem runChain_trap {c : Chain} {i : Instr} {body : Exec Unit} {s : State} {k : BitVec 8} {v : Word} {x : BitVec 32}
    (hg : guardOn c s.cpu.p = true) (hb : body s = .error (.trap k v x)) :
    runChain c i body s = .next (takeTrap s k v x i.len) := by
  simp [runChain, hg, finish, hb]

/-- A meaning that waits leaves the chain to be tried again (R50, R51). -/
theorem runChain_wait {c : Chain} {i : Instr} {body : Exec Unit} {s : State} {p : Bool} {r : WaitRec} {w : List TlbEntry}
    (hg : guardOn c s.cpu.p = true) (hb : body s = .error (.wait p r w)) :
    runChain c i body s = .next (s.hold (some i) p r w) := by
  simp [runChain, hg, finish, hb]

/-- The first checks pass (R39, R283). -/
theorem gate_ok {i : Instr} {rillOk : Bool} {l : Level} {s : State} (hr : s.cpu.isRill = false ∨ rillOk = true)
    (hl : l.denies s.cpu = false) : gate i rillOk l s = .ok ((), s) := by
  have h1 : (s.cpu.isRill && !rillOk) = false := by rcases hr with h | h <;> simp [h]
  simp only [gate, exec_bind, getCpu_ok, trapIf_ok h1, trapIf_ok hl]

@[simp] theorem level_any (t : Thread) : Level.any.denies t = false := rfl

/-! Register fields. -/

theorem checkVregs_ok {vs : List VReg} {s : State} (h : vs.all (fun v => decide (v.toNat < s.cpu.nvregs)) = true) :
    checkVregs vs s = .ok ((), s) := by
  induction vs with
  | nil => rfl
  | cons v vs ih =>
    simp only [List.all_cons, Bool.and_eq_true, decide_eq_true_eq] at h
    have h1 : decide (s.cpu.nvregs ≤ v.toNat) = false := by simp; omega
    simp only [checkVregs, exec_bind, getCpu_ok, trapIf_ok h1, ih h.2]

/-- With entries to pop the queue upstream is not short (R64). -/
theorem short_false {us : List Use} {s : State} (hp : us.countP Use.pops ≤ s.cpu.flume.length) : s.short us = false := by
  simp [State.short]; omega

/-- With room for what is pushed the queue downstream is not full (R64). -/
theorem full_false {us : List Use} {s : State}
    (hq : (!us.any Use.pushes || s.partner s.cpu s.cpu.downstream &&
      match s.thread? s.cpu.downstream with | some d => decide (d.flume.length < 8) | none => true) = true) : s.full us = false := by
  unfold State.full
  cases hu : us.any Use.pushes with
  | false => rfl
  | true =>
    simp only [hu, Bool.not_true, Bool.false_or, Bool.and_eq_true] at hq
    cases ht : s.thread? s.cpu.downstream with
    | none => rfl
    | some d => have := hq.2; rw [ht] at this; simp at this; simp; omega

theorem checkPartners_ok {us : List Use} {s : State} (hp : us.countP Use.pops ≤ s.cpu.flume.length)
    (hq : (!us.any Use.pushes || s.partner s.cpu s.cpu.downstream &&
      match s.thread? s.cpu.downstream with | some d => decide (d.flume.length < 8) | none => true) = true) :
    checkPartners us s = .ok ((), s) := by
  have h2 : (us.any Use.pushes && !s.partner s.cpu s.cpu.downstream) = false := by
    cases hu : us.any Use.pushes with
    | false => rfl
    | true =>
      simp only [hu, Bool.not_true, Bool.false_or, Bool.and_eq_true] at hq
      simp [hq.1]
  simp only [checkPartners, exec_bind, exec_get, short_false hp, Bool.false_and, trapIf_ok rfl, trapIf_ok h2]

theorem waitFlume_ok {us : List Use} {s : State} (hp : s.short us = false) (hq : s.full us = false) : waitFlume us s = .ok ((), s) := by
  simp only [waitFlume, exec_bind, exec_get, hp, hq, Bool.or_self, Bool.false_eq_true, if_false, exec_pure]

/-- Usable operands pass the register checks, whatever check that passes stands before the wait for the queues. -/
theorem checkOperands_ok {us : List Use} {vs : List VReg} {mid : Exec Unit} {s : State} (h : s.usable us vs = true)
    (hm : mid s = .ok ((), s)) : checkOperands us vs mid s = .ok ((), s) := by
  simp only [State.usable, Bool.and_eq_true, decide_eq_true_eq] at h
  obtain ⟨⟨⟨⟨h1, h2⟩, h3⟩, h4⟩, -⟩ := h
  have hf : firstFault s.cpu us = none := by simpa using h1
  simp only [checkOperands, exec_bind, getCpu_ok, hf, checkVregs_ok h2, checkPartners_ok h3 h4, hm, waitFlume_ok (short_false h3) (full_false h4)]

theorem checkUses_ok {us : List Use} {s : State} (h : s.usable us [] = true) : checkUses us s = .ok ((), s) :=
  checkOperands_ok h rfl

/-- Usable operands hold an entry for each field that pops. -/
theorem usable_pops {us : List Use} {vs : List VReg} {s : State} (h : s.usable us vs = true) :
    us.countP Use.pops ≤ s.cpu.flume.length := by
  simp only [State.usable, Bool.and_eq_true, decide_eq_true_eq] at h
  exact h.1.1.2

/-- A field that usable operands read holds no error (R477). -/
theorem usable_good {u : Use} {us : List Use} {vs : List VReg} {s : State} (h : s.usable us vs = true) (hm : u ∈ us) :
    u.good s.cpu = true := by
  simp only [State.usable, Bool.and_eq_true, List.all_eq_true] at h
  exact h.2 u hm

theorem usable_rd {r : Reg} {us : List Use} {vs : List VReg} {s : State} (h : s.usable us vs = true) (hm : .rd r ∈ us) :
    r.toNat ∉ s.cpu.badG := by
  have := usable_good h hm
  simpa [Use.good] using this

theorem usable_rwGood {r : Reg} {us : List Use} {vs : List VReg} {s : State} (h : s.usable us vs = true) (hm : .rw r ∈ us) :
    r.toNat ∉ s.cpu.badG := by
  have := usable_good h hm
  simpa [Use.good] using this

theorem checkRegs_ok {rs : List Nat} {s : State} (h : s.goodG rs = true) : checkRegs rs s = .ok ((), s) := by
  have h1 : first? (fun i => i != 0 && s.cpu.badG.contains i) rs = none := by
    refine first?_none fun i hi => ?_
    simp only [State.goodG, Bool.not_eq_true', List.any_eq_false] at h
    have := h i hi
    simp_all
  simp only [checkRegs, exec_bind, getCpu_ok, h1, exec_pure]

/-- A read of a field that holds no error, when an entry stands in the queue for g126. -/
theorem readG_ok {r : Reg} {s : State} (h : r = 126 → s.cpu.flume ≠ []) (hb : r.toNat ∉ s.cpu.badG) :
    readG r s = .ok (s.source r, s.popped r) := by
  by_cases hr : r = 126
  · subst hr
    cases hf : s.cpu.flume with
    | nil => exact absurd hf (h rfl)
    | cons x q => simp [readG, exec_bind, exec_map, hf, State.source, State.popped]
  · have hr' : (r == 126) = false := by simpa using hr
    have hg : s.goodG [r.toNat] = true := by simp [State.goodG, hb]
    simp only [readG, exec_bind, getCpu_ok, hr', Bool.false_eq_true, if_false, exec_pure, State.source, State.popped, checkRegs_ok hg]

theorem writeG_ok (r : Reg) (x : Word) (s : State) : writeG r x s = .ok ((), s.written r x) := by
  by_cases hr : r = 127
  · subst hr; rfl
  · have hr' : (r == 127) = false := by simpa using hr
    simp only [writeG, hr', Bool.false_eq_true, if_false, modCpu_ok, State.written]

theorem writeC_ok (k : RegC) (x : Word) (s : State) :
    writeC k x s = .ok ((), if k == 0 then s else s.written (wide k) x) := by
  by_cases hk : k = 0
  · subst hk; rfl
  · have hk' : (k == 0) = false := by simpa using hk
    simp only [writeC, hk', Bool.false_eq_true, if_false, writeG_ok]

/-- A pop touches no register and no pc. -/
@[simp] theorem popped_badG (s : State) (r : Reg) : (s.popped r).cpu.badG = s.cpu.badG := by unfold State.popped; split <;> rfl
@[simp] theorem popped_pc' (s : State) (r : Reg) : (s.popped r).cpu.pc = s.cpu.pc := by unfold State.popped; split <;> rfl

/-- Two fields read. -/
theorem readG2_ok {a b : Reg} {s : State} (ha : a = 126 → s.cpu.flume ≠ []) (hb : b = 126 → (s.popped a).cpu.flume ≠ [])
    (hga : a.toNat ∉ s.cpu.badG) (hgb : b.toNat ∉ s.cpu.badG) : readG2 a b s = .ok (s.sources a b, s.popped2 a b) := by
  have hgb' : b.toNat ∉ (s.popped a).cpu.badG := by simpa using hgb
  simp only [readG2, exec_bind, readG_ok ha hga, readG_ok hb hgb', getCpu_ok, exec_pure, popped_pc', State.sources, State.popped2]

theorem readV_ok {a : VReg} {s : State} (h : a.toNat ∉ s.cpu.badV) : readV a s = .ok (s.cpu.v[a.toNat], s) := by
  have h1 : s.cpu.badV.contains a.toNat = false := by simpa using h
  simp only [readV, exec_bind, getCpu_ok, memErrIf_ok h1, exec_pure]
@[simp] theorem writeV_ok (a : VReg) (x : Vec) (s : State) : writeV a x s = .ok ((), s.writtenV a x) := rfl

/-- Register c is no flume port. -/
theorem wide_ne_126 (k : RegC) : wide k ≠ 126 := by
  intro h
  have := congrArg BitVec.toNat h
  have hk := k.isLt
  simp [wide, BitVec.toNat_setWidth] at this
  omega

theorem wide_ne_127 (k : RegC) : wide k ≠ 127 := by
  intro h
  have := congrArg BitVec.toNat h
  have hk := k.isLt
  simp [wide, BitVec.toNat_setWidth] at this
  omega

/-- A field that is read and written is no port. -/
theorem firstFault_rw {a : Reg} {us : List Use} {t : Thread} (h : firstFault t us = none) (hm : Use.rw a ∈ us) :
    a ≠ 126 ∧ a ≠ 127 := by
  induction us with
  | nil => cases hm
  | cons u us ih =>
    simp only [firstFault] at h
    cases hu : u.fault t with
    | some n => rw [hu] at h; cases h
    | none =>
      rw [hu] at h
      rcases List.mem_cons.mp hm with rfl | hm'
      · simp only [Use.fault] at hu
        split at hu
        · cases hu
        · rename_i hc; simp only [Bool.or_eq_true, not_or, beq_iff_eq] at hc; exact ⟨hc.1.2, hc.2⟩
      · exact ih h hm'

theorem usable_rw {a : Reg} {us : List Use} {vs : List VReg} {s : State} (h : s.usable us vs = true) (hm : Use.rw a ∈ us) :
    a ≠ 126 ∧ a ≠ 127 := by
  simp only [State.usable, Bool.and_eq_true] at h
  exact firstFault_rw (by simpa using h.1.1.1.1) hm

end Sys2Proof.Machine
end

