-- ==== Sys2Proof/Laws/Access.lean ====
section
/-!
SUPPORT. Translation and accesses: what a thread reaches in a page, what a place reads and writes, and that prefetching leaves
everything but the caches as it is.
-/
namespace Sys2Proof.Machine

/-! List helpers. -/

theorem first?_some {α : Type} {p : α → Bool} {l : List α} {a : α} (h : first? p l = some a) : a ∈ l ∧ p a = true := by
  induction l with
  | nil => cases h
  | cons x xs ih =>
    simp only [first?] at h
    split at h
    · cases h; exact ⟨by simp, by assumption⟩
    · exact ⟨by simp [(ih h).1], (ih h).2⟩

/-! Threads and cores by number. -/

theorem thread?_id {s : State} {id : Nat} {t : Thread} (h : s.thread? id = some t) : t.id = id := by
  unfold State.thread? at h
  split at h
  · split at h
    · cases h
    · cases h; assumption
  · simpa using (first?_some h).2

theorem core_id (s : State) (k : Nat) : (s.core k).id = k := by
  unfold State.core
  cases h : first? (fun c => c.id == k) s.cores with
  | none => rfl
  | some c => simpa using (first?_some h).2

theorem first?_insertCore (c : Core) (l : List Core) (k : Nat) :
    first? (fun d => d.id == k) (State.insertCore c l) = if c.id = k then some c else first? (fun d => d.id == k) l := by
  induction l with
  | nil => by_cases h : c.id = k <;> simp [State.insertCore, first?, h]
  | cons d ds ih =>
    simp only [State.insertCore]
    by_cases h1 : c.id < d.id
    · rw [if_pos h1]
      by_cases h : c.id = k
      · simp [first?, h]
      · simp [first?, h]
    · rw [if_neg h1]
      by_cases h2 : c.id = d.id
      · rw [if_pos h2]
        by_cases h : c.id = k
        · simp [first?, h]
        · have : d.id ≠ k := fun e => h (h2.trans e)
          simp [first?, h, this]
      · rw [if_neg h2]
        simp only [first?]
        by_cases h : d.id = k
        · have : c.id ≠ k := fun e => h2 (e.trans h.symm)
          simp [h, this]
        · simp [h, ih]

/-- What core `k` is after core `c` has been put back. -/
theorem putCore_core (s : State) (c : Core) (k : Nat) : (s.putCore c).core k = if c.id = k then c else s.core k := by
  unfold State.core State.putCore
  rw [first?_insertCore]
  by_cases h : c.id = k <;> simp [h]

/-- What core `k` is after every core has been changed in the same way. -/
theorem core_map {s : State} {f : Core → Core} (hid : ∀ c, (f c).id = c.id) (hf : ∀ k, f (Core.fresh k) = Core.fresh k) (k : Nat) :
    ({ s with cores := s.cores.map f } : State).core k = f (s.core k) := by
  unfold State.core
  have : ∀ l : List Core, (first? (fun c => c.id == k) (l.map f)).getD (Core.fresh k) = f ((first? (fun c => c.id == k) l).getD (Core.fresh k)) := by
    intro l
    induction l with
    | nil => exact (hf k).symm
    | cons c cs ih =>
      simp only [List.map_cons, first?, hid]
      split
      · rfl
      · exact ih
  exact this s.cores

/-! Only caches differ. -/

theorem onlyCaches_refl (s : State) : s.onlyCaches s :=
  ⟨rfl, fun _ => ⟨rfl, rfl⟩, fun _ h => h, fun _ h h' => absurd h h', fun _ h => h, fun _ h => Or.inl h⟩

theorem onlyCaches_trans {s t u : State} (h1 : s.onlyCaches t) (h2 : t.onlyCaches u) : s.onlyCaches u := by
  obtain ⟨a1, b1, c1, d1, e1, f1⟩ := h1
  obtain ⟨a2, b2, c2, d2, e2, f2⟩ := h2
  refine ⟨?_, fun k => ⟨?_, (b2 k).2.trans (b1 k).2⟩, fun r h => c1 r (c2 r h), fun r h h' => ?_, fun e h => e2 e (e1 e h), fun e h => ?_⟩
  · rw [a1] at a2; exact a2
  · have := (b2 k).1; rw [(b1 k).1] at this; exact this
  · by_cases hr : r ∈ t.resvs
    · exact d2 r hr h'
    · exact e2 _ (d1 r h hr)
  · rcases f2 e h with h | ⟨r, hr, he⟩
    · exact f1 e h
    · exact Or.inr ⟨r, c1 r hr, he⟩

/-- What caches do not hold stays. -/
theorem onlyCaches_cpu {s t : State} (h : s.onlyCaches t) : t.cpu = s.cpu := by rw [h.1]
theorem onlyCaches_others {s t : State} (h : s.onlyCaches t) : t.others = s.others := by rw [h.1]
theorem onlyCaches_mem {s t : State} (h : s.onlyCaches t) : t.mem = s.mem := by rw [h.1]
theorem onlyCaches_bad {s t : State} (h : s.onlyCaches t) : t.bad = s.bad := by rw [h.1]
theorem onlyCaches_contexts {s t : State} (h : s.onlyCaches t) : t.contexts = s.contexts := by rw [h.1]
theorem onlyCaches_stamps {s t : State} (h : s.onlyCaches t) : t.stamps = s.stamps := by rw [h.1]

/-- A state whose cores, reservations and events are the same. -/
theorem onlyCaches_of {s t : State}
    (h : t = { s with tlb := t.tlb, used := t.used, copies := t.copies, tracked := t.tracked, l2 := t.l2, dirs := t.dirs, lastInval := t.lastInval,
                      refused := t.refused, free := t.free }) : s.onlyCaches t := by
  have hc : t.cores = s.cores := by rw [h]
  have hr : t.resvs = s.resvs := by rw [h]
  have he : t.events = s.events := by rw [h]
  have hk : ∀ k, t.core k = s.core k := fun k => by simp only [State.core, hc]
  refine ⟨by rw [hc, hr, he]; exact h, fun k => by rw [hk]; exact ⟨rfl, rfl⟩, fun r x => by rw [← hr]; exact x,
    fun r x y => absurd (by rw [hr]; exact x) y, fun e x => by rw [he]; exact x, fun e x => Or.inl (by rw [← he]; exact x)⟩

/-- A state whose reservations and events are the same. -/
theorem onlyCaches_cores {s t : State}
    (h : t = { s with cores := t.cores, tlb := t.tlb, used := t.used, copies := t.copies, tracked := t.tracked, l2 := t.l2, dirs := t.dirs,
                      lastInval := t.lastInval, refused := t.refused, free := t.free })
    (hk : ∀ k, t.core k = { s.core k with windows := (t.core k).windows, streams := (t.core k).streams, micro := (t.core k).micro } ∧
      (t.core k).windows.map Window.frame = (s.core k).windows.map Window.frame) : s.onlyCaches t := by
  have hr : t.resvs = s.resvs := by rw [h]
  have he : t.events = s.events := by rw [h]
  refine ⟨by rw [hr, he]; exact h, hk, fun r x => by rw [← hr]; exact x,
    fun r x y => absurd (by rw [hr]; exact x) y, fun e x => by rw [he]; exact x, fun e x => Or.inl (by rw [← he]; exact x)⟩

/-- One core put back with other windows' fills, streams and micro-TLB. -/
theorem putCore_onlyCaches {s : State} {c : Core} (h : c = { s.core c.id with windows := c.windows, streams := c.streams, micro := c.micro })
    (hw : c.windows.map Window.frame = (s.core c.id).windows.map Window.frame) : s.onlyCaches (s.putCore c) := by
  refine onlyCaches_cores (t := s.putCore c) rfl fun k => ?_
  rw [putCore_core]
  split
  · rename_i hk; subst hk; exact ⟨h, hw⟩
  · exact ⟨rfl, rfl⟩

/-- Every core changed in the same way, in its windows' fills alone. -/
theorem mapCores_onlyCaches {s : State} {f : Core → Core} (hf : ∀ c, f c = { c with windows := (f c).windows } ∧ (f c).windows.map Window.frame = c.windows.map Window.frame)
    (hn : ∀ k, f (Core.fresh k) = Core.fresh k) : s.onlyCaches { s with cores := s.cores.map f } := by
  refine onlyCaches_cores (t := { s with cores := s.cores.map f }) rfl fun k => ?_
  rw [core_map (fun c => by rw [(hf c).1]) hn]
  have h1 := (hf (s.core k)).1
  have h2 : (f (s.core k)).streams = (s.core k).streams := by rw [h1]
  have h3 : (f (s.core k)).micro = (s.core k).micro := by rw [h1]
  refine ⟨?_, (hf _).2⟩
  rw [h2, h3]
  exact h1

theorem dropFills_frame (a n : Nat) (c : Core) : Core.dropFills a n c = { c with windows := (Core.dropFills a n c).windows } ∧
    (Core.dropFills a n c).windows.map Window.frame = c.windows.map Window.frame := by
  refine ⟨rfl, ?_⟩
  simp only [Core.dropFills, List.map_map]
  rfl

/-- Withdrawing tracked copies (R171, R184) touches caches alone. -/
theorem withdraw_onlyCaches (s : State) (a n : Nat) : s.onlyCaches (s.withdraw a n) :=
  onlyCaches_trans (mapCores_onlyCaches (f := Core.dropFills a n) (dropFills_frame a n) fun _ => rfl)
    (onlyCaches_of (s := { s with cores := s.cores.map (Core.dropFills a n) }) (t := s.withdraw a n) rfl)

/-- Reservations that a displaced directory entry ends (R276). -/
theorem dropResv_onlyCaches (s : State) (p : Resv → Bool) : s.onlyCaches (s.dropResv p) := by
  refine ⟨rfl, fun k => ⟨rfl, rfl⟩, fun r h => (List.mem_filter.mp h).1, fun r h h' => ?_, fun e h => List.mem_append_left _ h, fun e h => ?_⟩
  · have hp : p r = true := by
      cases hp : p r with
      | true => rfl
      | false => exact absurd (List.mem_filter.mpr ⟨h, by simp [hp]⟩) h'
    exact List.mem_append_right _ (List.mem_map.mpr ⟨r, List.mem_filter.mpr ⟨h, hp⟩, rfl⟩)
  · rcases List.mem_append.mp h with h | h
    · exact Or.inl h
    · obtain ⟨r, hr, rfl⟩ := List.mem_map.mp h
      exact Or.inr ⟨r, (List.mem_filter.mp hr).1, rfl⟩

theorem displace_onlyCaches (s : State) (d : DirEntry) : s.onlyCaches (s.displace d) := by
  unfold State.displace
  refine onlyCaches_trans (onlyCaches_trans (withdraw_onlyCaches s d.grain d.size) (dropResv_onlyCaches _ fun r => lineOf r.granule == lineOf d.grain)) ?_
  exact onlyCaches_of rfl

theorem pickFree_onlyCaches (s : State) (n : Nat) : s.onlyCaches (s.pickFree n).2 := onlyCaches_of rfl

theorem fitDir_onlyCaches (s : State) (g size : Nat) : s.onlyCaches (s.fitDir g size) := by
  unfold State.fitDir
  dsimp only
  split
  · exact onlyCaches_refl s
  · split
    · exact onlyCaches_trans (pickFree_onlyCaches s _) (displace_onlyCaches _ _)
    · exact pickFree_onlyCaches s _

theorem putDir_onlyCaches (s : State) (d : DirEntry) : s.onlyCaches (s.putDir d) := onlyCaches_of rfl

theorem keepLine_onlyCaches (s : State) (a n ctx : Nat) (dirty : Bool) : s.onlyCaches (s.keepLine a n ctx dirty) := by
  unfold State.keepLine
  dsimp only
  split
  · exact onlyCaches_of rfl
  · split
    · exact onlyCaches_refl s
    · split <;> exact onlyCaches_of rfl

theorem demote_onlyCaches (s : State) (a n : Nat) : s.onlyCaches (s.demote a n) := by
  refine onlyCaches_trans (mapCores_onlyCaches (f := fun (c : Core) => { c with windows := c.windows.map fun w =>
      { w with fills := w.fills.map fun f => if overlaps a n f.home f.size then { f with state := f.state.shared' } else f } }) (fun c => ⟨rfl, ?_⟩) fun _ => rfl)
    (onlyCaches_of (t := s.demote a n) rfl)
  simp only [List.map_map]
  rfl

/-- A grant (R171) touches caches and directories alone. -/
theorem grantNow_onlyCaches (s : State) (k g size : Nat) (write : Bool) : s.onlyCaches (s.grantNow k g size write).2 := by
  unfold State.grantNow
  dsimp only
  refine onlyCaches_trans (onlyCaches_trans (fitDir_onlyCaches s g size) (keepLine_onlyCaches _ g size s.cpu.ctx write)) ?_
  cases write with
  | true => exact onlyCaches_trans (withdraw_onlyCaches _ g size) (putDir_onlyCaches _ _)
  | false => exact onlyCaches_trans (demote_onlyCaches _ g size) (putDir_onlyCaches _ _)

theorem holdGrain_onlyCaches (s : State) (h : Held) : s.onlyCaches (s.holdGrain h) := onlyCaches_of rfl

theorem dropL1_onlyCaches (s : State) (k a : Nat) : s.onlyCaches (s.dropL1 k a) := onlyCaches_of rfl

theorem fitL1_onlyCaches {s t : State} {k a : Nat} (h : s.fitL1 k a = some t) : s.onlyCaches t := by
  unfold State.fitL1 at h
  dsimp only at h
  split at h
  · cases h; exact onlyCaches_refl s
  · split at h
    · cases h
    · split at h
      · cases h; exact onlyCaches_refl s
      · cases h; exact onlyCaches_trans (pickFree_onlyCaches s _) (dropL1_onlyCaches _ _ _)

theorem fitPart_onlyCaches {s t : State} {d a : Nat} (h : s.fitPart d a = some t) : s.onlyCaches t := by
  unfold State.fitPart at h
  dsimp only at h
  split at h
  · cases h; exact onlyCaches_refl s
  · split at h
    · cases h
    · split at h
      · cases h; exact onlyCaches_refl s
      · cases h; exact onlyCaches_of rfl

theorem fit_onlyCaches {s t : State} {h a : Nat} (e : s.fit h a = some t) : s.onlyCaches t := by
  unfold State.fit at e
  split at e
  · exact fitPart_onlyCaches e
  · exact fitL1_onlyCaches e

theorem dropCopy_onlyCaches (s : State) (h l : Nat) : s.onlyCaches (s.dropCopy h l) := onlyCaches_of rfl

theorem putCopy_onlyCaches (s : State) (h l : Nat) (d : LineData) : s.onlyCaches (s.putCopy h l d) := by
  unfold State.putCopy
  split
  · rename_i t ht
    exact onlyCaches_trans (onlyCaches_trans (dropCopy_onlyCaches s h l) (fit_onlyCaches ht)) (onlyCaches_of rfl)
  · exact dropCopy_onlyCaches _ _ _

theorem syncCopies_onlyCaches (s : State) (d k n : Nat) : s.onlyCaches (s.syncCopies d k n) := onlyCaches_of rfl

theorem dropGrain_onlyCaches (s : State) (h g : Nat) : s.onlyCaches (s.dropGrain h g) := by
  unfold State.dropGrain
  dsimp only
  split <;> exact onlyCaches_of rfl

theorem installAt_onlyCaches (s : State) (h : Nat) (i : BitVec 32) (g : Grain) : s.onlyCaches (s.installAt h i g) := by
  have hp : ∀ s : State, s.onlyCaches (State.installAt.put h g s) := by
    intro s
    unfold State.installAt.put
    split
    · rename_i t ht
      exact onlyCaches_trans (onlyCaches_trans (dropGrain_onlyCaches s h _) (fit_onlyCaches ht)) (onlyCaches_of rfl)
    · exact dropGrain_onlyCaches _ _ _
  unfold State.installAt
  split
  · split
    · exact onlyCaches_refl _
    · exact hp _
  · exact hp _

theorem installGrain_onlyCaches (s : State) (k : Nat) (i : BitVec 32) (g : Grain) : s.onlyCaches (s.installGrain k i g) := by
  unfold State.installGrain
  dsimp only
  split
  · split
    · exact onlyCaches_trans (onlyCaches_trans (installAt_onlyCaches _ _ _ _) (grantNow_onlyCaches _ _ _ _ _)) (holdGrain_onlyCaches _ _)
    · exact installAt_onlyCaches _ _ _ _
  · exact onlyCaches_trans (installAt_onlyCaches _ _ _ _) (installAt_onlyCaches _ _ _ _)

theorem served_onlyCaches (s : State) (slot : Nat) (w : Want) : s.onlyCaches (s.served' slot w) := onlyCaches_of rfl

/-! Caching a translation. -/

theorem insertEntry_onlyCaches (n : Nat) (l : List TlbEntry) (e : TlbEntry) (s : State) : s.onlyCaches (insertEntry n l e s).2 := by
  unfold insertEntry
  split
  · exact onlyCaches_refl s
  · exact pickFree_onlyCaches s l.length

theorem setMicro_onlyCaches (s : State) (k : Nat) (l : List TlbEntry) : s.onlyCaches (s.putCore ((s.core k).setMicro false l)) :=
  putCore_onlyCaches (c := { s.core k with micro := l }) (by simp only [core_id]) (by simp only [core_id])

theorem cacheLeaf_onlyCaches (s : State) (w : Walker) (e : TlbEntry) (hf : w.fetch = false) : s.onlyCaches (s.cacheLeaf w e) := by
  unfold State.cacheLeaf
  extract_lets u r
  have h0 : s.onlyCaches u := onlyCaches_of rfl
  have h1 : s.onlyCaches r := by
    refine onlyCaches_trans h0 ?_
    unfold r
    split
    · exact onlyCaches_refl u
    · split
      · exact onlyCaches_of rfl
      · exact onlyCaches_trans (insertEntry_onlyCaches _ _ _ _) (onlyCaches_of rfl)
  split
  · exact h1
  · rename_i k _
    split
    · exact h1
    · refine onlyCaches_trans h1 (onlyCaches_trans (t := (insertEntry (if w.fetch then 16 else 64) ((r.core k).microOf w.fetch) e r).2) (insertEntry_onlyCaches _ _ _ _) ?_)
      rw [hf]
      exact setMicro_onlyCaches _ _ _

@[simp] theorem walker_fetch (t : Thread) : t.walker.fetch = false := rfl

theorem cached_onlyCaches (s : State) (x : Xlat) : s.onlyCaches (s.cached x) := cacheLeaf_onlyCaches s _ _ rfl

/-- Two changes of translations and free choices alone are one. -/
theorem filled_trans {s t u : State} (h1 : t = { s with cores := t.cores, tlb := t.tlb, used := t.used, free := t.free })
    (h2 : u = { t with cores := u.cores, tlb := u.tlb, used := u.used, free := u.free }) : u = { s with cores := u.cores, tlb := u.tlb, used := u.used, free := u.free } := by
  rw [h1] at h2; exact h2

theorem insertEntry_fields (n : Nat) (l : List TlbEntry) (e : TlbEntry) (s : State) :
    (insertEntry n l e s).2 = { s with cores := (insertEntry n l e s).2.cores, tlb := (insertEntry n l e s).2.tlb, used := (insertEntry n l e s).2.used, free := (insertEntry n l e s).2.free } := by
  unfold insertEntry; split <;> rfl

/-- What a lookup does not fill stays. -/
theorem cacheLeaf_fields (s : State) (w : Walker) (e : TlbEntry) :
    s.cacheLeaf w e = { s with cores := (s.cacheLeaf w e).cores, tlb := (s.cacheLeaf w e).tlb, used := (s.cacheLeaf w e).used, free := (s.cacheLeaf w e).free } := by
  unfold State.cacheLeaf
  extract_lets u r
  have h1 : r = { s with cores := r.cores, tlb := r.tlb, used := r.used, free := r.free } := by
    refine filled_trans (t := u) rfl ?_
    unfold r
    split
    · rfl
    · split
      · rfl
      · exact filled_trans (insertEntry_fields _ _ _ _) rfl
  split
  · exact h1
  · split
    · exact h1
    · exact filled_trans h1 (filled_trans (insertEntry_fields _ _ _ _) rfl)

@[simp] theorem cached_cpu (s : State) (x : Xlat) : (s.cached x).cpu = s.cpu := by unfold State.cached; rw [cacheLeaf_fields]
@[simp] theorem cached_others (s : State) (x : Xlat) : (s.cached x).others = s.others := by unfold State.cached; rw [cacheLeaf_fields]
@[simp] theorem cached_mem (s : State) (x : Xlat) : (s.cached x).mem = s.mem := by unfold State.cached; rw [cacheLeaf_fields]
@[simp] theorem cached_bad (s : State) (x : Xlat) : (s.cached x).bad = s.bad := by unfold State.cached; rw [cacheLeaf_fields]
@[simp] theorem cached_dirs (s : State) (x : Xlat) : (s.cached x).dirs = s.dirs := by unfold State.cached; rw [cacheLeaf_fields]
@[simp] theorem cached_refused (s : State) (x : Xlat) : (s.cached x).refused = s.refused := by unfold State.cached; rw [cacheLeaf_fields]
@[simp] theorem cached_tracked (s : State) (x : Xlat) : (s.cached x).tracked = s.tracked := by unfold State.cached; rw [cacheLeaf_fields]
@[simp] theorem cached_contexts (s : State) (x : Xlat) : (s.cached x).contexts = s.contexts := by unfold State.cached; rw [cacheLeaf_fields]
@[simp] theorem cached_resvs (s : State) (x : Xlat) : (s.cached x).resvs = s.resvs := by unfold State.cached; rw [cacheLeaf_fields]
@[simp] theorem cached_events (s : State) (x : Xlat) : (s.cached x).events = s.events := by unfold State.cached; rw [cacheLeaf_fields]
@[simp] theorem cached_copies (s : State) (x : Xlat) : (s.cached x).copies = s.copies := by unfold State.cached; rw [cacheLeaf_fields]
@[simp] theorem cached_stamps (s : State) (x : Xlat) : (s.cached x).stamps = s.stamps := by unfold State.cached; rw [cacheLeaf_fields]
@[simp] theorem cached_peers (s : State) (x : Xlat) : (s.cached x).peers = s.peers := by unfold State.cached; rw [cacheLeaf_fields]
@[simp] theorem cached_grants (s : State) (x : Xlat) : (s.cached x).grants = s.grants := by unfold State.cached; rw [cacheLeaf_fields]
@[simp] theorem cached_owedStores (s : State) (x : Xlat) : (s.cached x).owedStores = s.owedStores := by unfold State.cached; rw [cacheLeaf_fields]
@[simp] theorem cached_contextD (s : State) (x : Xlat) (n : Nat) : (s.cached x).contextD n = s.contextD n := by
  simp [State.contextD, State.context?]
@[simp] theorem cached_port (s : State) (x : Xlat) (p : Port) : (s.cached x).port p = s.port p := by
  unfold State.cached; rw [cacheLeaf_fields]; rfl
@[simp] theorem cached_peer (s : State) (x : Xlat) (p : BitVec 12) : (s.cached x).peer p = s.peer p := by simp [State.peer]
@[simp] theorem cached_peerGrants (s : State) (x : Xlat) (a b c d : Nat) (r w : Bool) :
    (s.cached x).peerGrants a b c d r w = s.peerGrants a b c d r w := by simp [State.peerGrants]
@[simp] theorem cached_badAt (s : State) (x : Xlat) (a n : Nat) : (s.cached x).badAt a n = s.badAt a n := by simp [State.badAt]
@[simp] theorem cached_contextOf (s : State) (x : Xlat) (w : Walker) : (s.cached x).contextOf w = s.contextOf w := by
  simp [State.contextOf]
@[simp] theorem cached_here (s : State) (x : Xlat) : (s.cached x).here = s.here := by simp [State.here]
@[simp] theorem cached_portFor (s : State) (x : Xlat) (pa : Nat) : (s.cached x).portFor pa = s.portFor pa := by simp [State.portFor]
@[simp] theorem cached_testing (s : State) (x : Xlat) (a n : Nat) : (s.cached x).testing a n = s.testing a n := by
  simp [State.testing, State.needs]
@[simp] theorem cached_updating (s : State) (x : Xlat) (id : Nat) : (s.cached x).updating id = s.updating id := by simp [State.updating]
@[simp] theorem cached_owedAt (s : State) (x : Xlat) (a n : Nat) : (s.cached x).owedAt a n = s.owedAt a n := by simp [State.owedAt]
@[simp] theorem cached_hostFree (s : State) (x : Xlat) (a n : Nat) : (s.cached x).hostFree a n = s.hostFree a n := by
  simp [State.hostFree, State.hostHolds]
@[simp] theorem cached_mayGrant (s : State) (x : Xlat) (g n : Nat) : (s.cached x).mayGrant g n = s.mayGrant g n := by
  simp [State.mayGrant, State.dirEntry]
@[simp] theorem cached_hasHostLine (s : State) (x y : Xlat) (w : Bool) : (s.cached x).hasHostLine y w = s.hasHostLine y w := by
  simp [State.hasHostLine]
@[simp] theorem cached_answered (s : State) (x y : Xlat) (n : Nat) (rd wr : Bool) : (s.cached x).answered y n rd wr = s.answered y n rd wr := by
  simp [State.answered]
@[simp] theorem cached_releaseFree (s : State) (x : Xlat) (sc : Scope) : (s.cached x).releaseFree sc = s.releaseFree sc := by
  simp [State.releaseFree, State.owesNote]
@[simp] theorem cached_volatilePosts (s : State) (x : Xlat) (p : Port) : (s.cached x).volatilePosts p = s.volatilePosts p := by
  simp [State.volatilePosts]
@[simp] theorem cached_volatileFree (s : State) (x : Xlat) (mm : MemMode) : (s.cached x).volatileFree mm = s.volatileFree mm := by
  simp [State.volatileFree]
@[simp] theorem cached_modeFree (s : State) (x : Xlat) (mm : MemMode) : (s.cached x).modeFree mm = s.modeFree mm := by simp [State.modeFree]
@[simp] theorem cached_rangesFree (s : State) (x : Xlat) (ps : List Place) (wr : Bool) : (s.cached x).rangesFree ps wr = s.rangesFree ps wr := by
  have : (s.cached x).myCore.score = s.myCore.score := by
    unfold State.myCore
    rw [((cached_onlyCaches s x).2.1 _).1, cached_cpu]
  simp [State.rangesFree, this]

/-! Reaching a page (R160). -/

/-- An address in a page that allows the access is reached, and its translation is cached. -/
theorem reach_ok {va : Word} {rd wr : Bool} {s : State} {x : Xlat} (h : s.pageAt va rd wr = some x) :
    reach va rd wr s = .ok (x, s.cached x) := by
  unfold State.pageAt at h
  split at h
  · rename_i hv
    simp only [Bool.and_eq_true, decide_eq_true_eq, Bool.not_eq_true'] at hv
    obtain ⟨⟨hv1, hv2⟩, hc⟩ := hv
    split at h
    · rename_i e he
      split at h
      · rename_i hp
        simp only [Bool.and_eq_true, Bool.not_eq_true'] at hp
        cases h
        have h1 : decide (va.toNat ≥ Config.vaEnd) = false := by simp; exact hv1
        have h3 : (!permitted s.cpu.walker e rd wr) = false := by simp [hp.1]
        have h4 : ((tlbFind s s.cpu.walker va.toNat).isNone && s.walkWaits s.cpu.walker) = false := by
          simp only [State.canWalk, Bool.or_eq_true, Bool.not_eq_true'] at hc
          rcases hc with hc | hc
          · rw [Option.isNone_eq_false_iff.mpr hc, Bool.false_and]
          · rw [hc, Bool.and_false]
        have h2 : translateFor s.cpu.walker va s = .ok ({ entry := e, va := va.toNat, pa := e.physical va.toNat, pasid := if e.home = 1 ∨ e.home = 2 then s.here.pasid else none }, s.cacheLeaf s.cpu.walker e) := by
          simp only [translateFor, exec_bind, exec_get, h4, Bool.false_eq_true, if_false, exec_pure, he, exec_set]
          simp [State.here]
        simp only [reach, reachAs, exec_bind, getCpu_ok, trapIf_ok h1, trapIf_ok hv2, h2, trapIf_ok h3, hp.2, Bool.false_eq_true, if_false, exec_pure]
        simp [State.cached]
      · cases h
    · cases h
  · cases h

/-- What the page of an access is. -/
theorem goesTo_page {s : State} {va : Word} {rd wr : Bool} {x : Xlat} (h : s.goesTo va rd wr x = true) :
    s.pageAt va rd wr = some x := by
  simp only [State.goesTo, Bool.and_eq_true, beq_iff_eq] at h
  exact h.1.1

/-- An access that goes to a page has its place there. -/
theorem placeAt_ok {va : Word} {n : Nat} {rd wr : Bool} {s : State} {x : Xlat} (h : s.goesTo va rd wr x = true) :
    placeAt va n rd wr s = .ok (x.place va n, s.cached x) := by
  have hp := goesTo_page h
  simp only [State.goesTo, Bool.and_eq_true, beq_iff_eq] at h
  obtain ⟨⟨_, hu⟩, hr⟩ := h
  have hv : decide (va.toNat < Config.vaEnd) = true ∧ inAperture va = false := by
    unfold State.pageAt at hp
    split at hp
    · rename_i hv
      simp only [Bool.and_eq_true, Bool.not_eq_true'] at hv
      exact hv.1
    · cases hp
  have hv1 : va.toNat < Config.vaEnd := of_decide_eq_true hv.1
  have h1 : decide (va.toNat ≥ Config.vaEnd) = false := by simp; exact hv1
  have hi := hv.2
  unfold inAperture at hi
  simp only [Bool.or_eq_false_iff] at hi
  have h2 : decide (Config.cisternAperture ≤ va.toNat) = false := by
    have := hi.2
    simp only [Bool.and_eq_false_iff, decide_eq_false_iff_not] at this ⊢
    rcases this with h | h
    · exact h
    · exact absurd hv1 h
  have h3 : (decide (Config.handleAperture ≤ va.toNat) && decide (va.toNat < Config.handleApertureEnd)) = false := hi.1.2
  have h4 : (if s.cpu.isRill then none else first? (fun w => w.owner == s.cpu.id && w.covers va.toNat) s.myCore.windows) = none := by
    split
    · rfl
    · rename_i hr'
      refine first?_none fun w hw => ?_
      simp only [State.unmapped, Bool.or_eq_true, hr', List.all_eq_true] at hu
      rcases hu with hu | hu
      · cases hu
      · have := hu w hw
        simpa only [Bool.not_eq_true'] using this
  have h5 : (s.cpu.isRill && x.home == 0 && sliceOf x.pa != s.cpu.clusterId) = false := by
    cases hc : s.cpu.isRill with
    | false => rfl
    | true =>
      simp only [hc, Bool.not_true, Bool.false_or, Bool.or_eq_true] at hr
      rcases hr with h | h
      · have : (x.home == 0) = false := by simpa [bne] using h
        simp [this]
      · have : (sliceOf x.pa != s.cpu.clusterId) = false := by simpa [bne] using h
        simp [this]
  simp only [placeAt, exec_bind, exec_get, trapIf_ok h1, h2, h3, h4, Bool.false_eq_true, if_false, reach_ok hp, migrateFor, exec_modify,
    cached_cpu, h5, exec_pure, Xlat.place]

theorem scoreCheck_ok {ps : List Place} {wr : Bool} {s : State} (h : s.rangesFree ps wr = true) :
    scoreCheck ps wr s = .ok ((), s) := by
  have : (!s.cpu.isRill && !s.cpu.isSluice && s.myCore.score.any fun e => ps.any fun p => e.blocks s.cpu p wr) = false := by
    simp only [State.rangesFree, Bool.or_eq_true, Bool.not_eq_true'] at h
    rcases h with (h | h) | h
    · simp [h]
    · simp [h]
    · rw [h]; simp
  simp only [scoreCheck, exec_bind, exec_get, this, Bool.false_eq_true, if_false, exec_pure]

/-! Reading. -/

/-- A load or read-modify-write that is answered goes on. -/
theorem remoteReady_ok {x : Xlat} {va : Word} {n : Nat} {rd wr atHome : Bool} {s : State} (h : s.answered x n rd wr = true) :
    remoteReady x va n rd wr atHome s = .ok ((), s) := by
  unfold State.answered at h
  unfold remoteReady
  simp only [Bool.or_eq_true, decide_eq_true_eq] at h ⊢
  split at h
  · rename_i hh
    rw [if_pos hh]
    simp only [Bool.and_eq_true, Bool.not_eq_true'] at h
    obtain ⟨⟨h1, h2⟩, h3⟩ := h
    simp only [hostRequest, exec_bind, exec_get]
    rw [trapIf_ok (by rw [h1, h2]; rfl)]
    simp only [Bool.or_eq_true, Bool.and_eq_true, beq_iff_eq] at h3
    rcases h3 with h3 | ⟨h3 | h3, h4⟩
    · rw [h3]; rfl
    · rw [h3]; simp only [h4, Bool.true_or, if_true, exec_pure]
    · rw [h3]; simp only [h4, Bool.true_or, if_true, exec_pure]
  · rename_i hh
    rw [if_neg hh]
    split at h
    · rename_i h3
      rw [if_pos h3]
      simp only [Bool.and_eq_true, Bool.or_eq_true, bne_iff_ne, ne_eq] at h
      obtain ⟨⟨h1, h2⟩, h4⟩ := h
      simp only [peerRequest, exec_bind, exec_get]
      rw [trapIf_ok (by rw [h1]; simp [h2])]
      simp only [Bool.or_eq_true, h4, if_true, exec_pure]
    · rename_i h3
      rw [if_neg h3]; rfl

theorem deliver_ok {k n : Nat} {va : Word} {s : State} (ht : s.testing k n = false) (ho : s.owedAt k n = false) (h : s.badAt k n = false) :
    deliver k n va s = .ok (Memory.reads s.mem k n, s) := by
  simp only [deliver, exec_bind, exec_get, ht, ho, Bool.or_false, Bool.false_eq_true, if_false, memErrIf_ok h, exec_pure]

/-- A grain that the home may grant is granted (R176, R177). -/
theorem requestGrain_ok {g size : Nat} {w : Bool} {s : State} (h : s.mayGrant g size = true) :
    requestGrain g size w s = .ok ((), s.served' s.cpu.id (.grain g w)) := by
  simp only [State.mayGrant, Bool.and_eq_true, Bool.not_eq_true', List.all_eq_true, Bool.or_eq_true] at h
  have hb : (s.dirEntry g size).busy = false := h.1
  have hm : s.mayServe s.cpu.id (.grain g w) = true := by
    unfold State.mayServe
    split
    · rename_i r hr
      have hp := first?_some hr
      rcases h.2 r hp.1 with hx | hx
      · have hp2 := hp.2
        cases hw : r.want <;> simp_all [Want.same]
      · exact hx
    · rfl
  simp only [requestGrain, exec_bind, exec_get, hb, hm, Bool.not_true, Bool.or_false, Bool.false_eq_true, if_false, exec_set]

/-! What leaves everything but the caches as it is. -/

/-- Whatever the computation answers, it has changed nothing but caches. -/
def OnlyCaches {α : Type} (m : Exec α) : Prop := ∀ s a t, m s = .ok (a, t) → s.onlyCaches t

theorem onlyCaches_pure {α : Type} (a : α) : OnlyCaches (pure a : Exec α) := by
  intro s b t h; cases h; exact onlyCaches_refl s

theorem onlyCaches_bind {α β : Type} {m : Exec α} {f : α → Exec β} (h1 : OnlyCaches m) (h2 : ∀ a, OnlyCaches (f a)) :
    OnlyCaches (m >>= f) := by
  intro s b t h
  obtain ⟨a, s', ha, hb⟩ := exec_bind_inv h
  exact onlyCaches_trans (h1 _ _ _ ha) (h2 _ _ _ _ hb)

theorem onlyCaches_ite {α : Type} {c : Prop} [Decidable c] {m n : Exec α} (h1 : OnlyCaches m) (h2 : OnlyCaches n) :
    OnlyCaches (if c then m else n) := by split <;> assumption

theorem onlyCaches_get : OnlyCaches (get : Exec State) := by intro s b t h; cases h; exact onlyCaches_refl s
theorem onlyCaches_getCpu : OnlyCaches getCpu := by intro s b t h; cases h; exact onlyCaches_refl s
theorem onlyCaches_throw {α : Type} (e : Stop) : OnlyCaches (throw e : Exec α) := by intro s b t h; cases h
theorem onlyCaches_trap {α : Type} (c : BitVec 8) (v : Word) (x : BitVec 32) : OnlyCaches (trap c v x : Exec α) := onlyCaches_throw _
theorem onlyCaches_stall {α : Type} (r : WaitRec) : OnlyCaches (stall r : Exec α) := by intro s b t h; cases h
theorem onlyCaches_trapIf (b : Bool) (c : BitVec 8) (v : Word) (x : BitVec 32) : OnlyCaches (trapIf b c v x) :=
  onlyCaches_ite (onlyCaches_trap _ _ _) (onlyCaches_pure _)
theorem onlyCaches_choose : OnlyCaches choose := by intro s b t h; cases h; exact onlyCaches_of rfl

theorem onlyCaches_modify {f : State → State} (h : ∀ s : State, s.onlyCaches (f s)) : OnlyCaches (modify f : Exec Unit) := by
  intro s b t ht
  cases ht
  exact h s

/-- A state set from the one read. -/
theorem onlyCaches_getSet {α : Type} {f : State → State} {g : State → α} (h : ∀ s : State, s.onlyCaches (f s)) :
    OnlyCaches (do let s ← get; set (f s); return g s : Exec α) := by
  intro s b t ht
  cases ht
  exact h s

theorem onlyCaches_attempt {m : Exec Unit} (h : OnlyCaches m) : OnlyCaches (attempt m) := by
  intro s b t ht
  unfold attempt at ht
  cases hm : m s with
  | ok r =>
    rw [hm] at ht
    dsimp only at ht
    split at ht
    · cases ht; exact h _ _ _ hm
    · cases ht; exact onlyCaches_refl s
  | error e => rw [hm] at ht; cases ht; exact onlyCaches_refl s

theorem onlyCaches_forIn {α : Type} {f : α → Unit → Exec (ForInStep Unit)} (hf : ∀ a, OnlyCaches (f a ())) :
    ∀ l : List α, OnlyCaches (forIn l () f)
  | [] => onlyCaches_pure _
  | a :: as => by
    rw [List.forIn_cons]
    refine onlyCaches_bind (hf a) fun r => ?_
    cases r with
    | done _ => exact onlyCaches_pure _
    | yield _ => exact onlyCaches_forIn hf as

theorem onlyCaches_requestGrain (g size : Nat) (w : Bool) : OnlyCaches (requestGrain g size w) := by
  intro s a t h
  simp only [requestGrain, exec_bind, exec_get] at h
  split at h
  · cases h
  · cases h; exact served_onlyCaches _ _ _

/-- Taking a grain into L1 (R170 to R177). -/
theorem onlyCaches_ownGrain (x : Xlat) (w : Bool) : OnlyCaches (ownGrain x w) := by
  unfold ownGrain
  intro s a t h
  simp only [exec_bind, exec_get] at h
  generalize first? _ s.tracked = o at h
  cases o with
  | some y =>
    dsimp only at h
    split at h
    · cases h; exact onlyCaches_refl s
    · split at h
      · cases h; exact holdGrain_onlyCaches _ _
      · exact onlyCaches_bind (onlyCaches_requestGrain _ _ _)
          (fun _ => onlyCaches_modify fun (s : State) => onlyCaches_trans (grantNow_onlyCaches _ _ _ _ _) (holdGrain_onlyCaches _ _)) _ _ _ h
  | none =>
    dsimp only at h
    refine onlyCaches_bind (onlyCaches_requestGrain _ _ _) (fun _ => onlyCaches_modify fun (s : State) => ?_) _ _ _ h
    split
    · rename_i t ht
      exact onlyCaches_trans (fitL1_onlyCaches ht) (onlyCaches_trans (grantNow_onlyCaches _ _ _ _ _) (holdGrain_onlyCaches _ _))
    · split
      · exact withdraw_onlyCaches _ _ _
      · exact onlyCaches_refl _

/-- It completes when the home may grant the grain. -/
theorem ownGrain_ok {x : Xlat} {s : State} (w : Bool) (h : s.mayGrant x.grain x.entry.grain = true) :
    ∃ t, ownGrain x w s = .ok ((), t) ∧ s.onlyCaches t := by
  have : ∃ t, ownGrain x w s = .ok ((), t) := by
    unfold ownGrain
    simp only [exec_bind, exec_get]
    generalize first? _ s.tracked = o
    cases o with
    | some y =>
      dsimp only
      split
      · exact ⟨_, rfl⟩
      · split
        · exact ⟨_, rfl⟩
        · simp only [exec_bind, requestGrain_ok h]; exact ⟨_, rfl⟩
    | none => simp only [exec_bind, requestGrain_ok h]; exact ⟨_, rfl⟩
  obtain ⟨t, ht⟩ := this
  exact ⟨t, ht, onlyCaches_ownGrain _ _ _ _ _ ht⟩

theorem keepAt_onlyCaches (s : State) (h line : Nat) (m : Moesi) : s.onlyCaches (s.keepAt h line m) := by
  unfold State.keepAt
  split
  · rename_i t ht
    exact onlyCaches_trans (fit_onlyCaches ht) (holdGrain_onlyCaches _ _)
  · exact onlyCaches_refl s

theorem onlyCaches_iteState {c : Prop} [Decidable c] {s t u : State} (h1 : s.onlyCaches t) (h2 : s.onlyCaches u) :
    s.onlyCaches (if c then t else u) := by split <;> assumption

theorem keepHostLine_ok (x : Xlat) (m : Moesi) (s : State) : ∃ t, keepHostLine x m s = .ok ((), t) ∧ s.onlyCaches t := by
  refine ⟨_, rfl, ?_⟩
  dsimp only
  split
  · exact onlyCaches_refl s
  · have h1 := onlyCaches_iteState (c := (m == Moesi.shared) = true) (demote_onlyCaches s (lineOf x.key) 512) (onlyCaches_refl s)
    generalize (if (m == Moesi.shared) = true then s.demote (lineOf x.key) 512 else s) = u at h1 ⊢
    have h2 := onlyCaches_iteState (c := (portDie (s.portFor x.pa) == u.cpu.die) = true)
      (onlyCaches_trans h1 (keepAt_onlyCaches u u.cpu.coreId (lineOf x.key) m)) h1
    exact onlyCaches_iteState (onlyCaches_trans h2 (keepAt_onlyCaches _ _ _ _)) h2

/-- A read of a translated address gives the bytes at the home, and leaves everything but caches as it is. -/
theorem homeRead_ok {x : Xlat} {n : Nat} {s : State} (atHome : Bool) (ha : s.answered x n true false = true)
    (ht : s.testing x.key n = false) (ho : s.owedAt x.key n = false) (hb : s.badAt x.key n = false)
    (hg : x.inL1 s.cpu = true → s.mayGrant x.grain x.entry.grain = true) :
    ∃ t, homeRead x n atHome s = .ok (Memory.reads s.mem x.key n, t) ∧ s.onlyCaches t := by
  simp only [homeRead, exec_bind, remoteReady_ok ha, deliver_ok ht ho hb, exec_get]
  split
  · rename_i hi
    simp only [Bool.and_eq_true] at hi
    obtain ⟨t, h1, h2⟩ := ownGrain_ok false (hg hi.1)
    exact ⟨t, by rw [exec_bind_ok h1]; rfl, h2⟩
  · split
    · obtain ⟨t, h1, h2⟩ := keepHostLine_ok x .shared s
      exact ⟨t, by rw [exec_bind_ok h1]; rfl, h2⟩
    · exact ⟨s, rfl, onlyCaches_refl s⟩

/-- A place that can be read gives the bytes at its home. -/
theorem readPlace_ok {p : Place} {mm : MemMode} {s : State} (h : s.readable p mm = true) (hk : ∀ x, p.src = .page x → p.key = x.key) :
    ∃ t, readPlace p mm s = .ok (s.bytesAt p, t) ∧ s.onlyCaches t := by
  simp only [State.readable, Bool.and_eq_true, Bool.not_eq_true'] at h
  obtain ⟨⟨⟨⟨hl, hb⟩, ht⟩, ho⟩, h⟩ := h
  unfold readPlace
  simp only [exec_bind, getCpu_ok, exec_get, hl, Bool.false_eq_true, if_false]
  cases hp : p.src with
  | page x =>
    simp only [hp, Bool.and_eq_true, Bool.not_eq_true', Bool.or_eq_true] at h
    obtain ⟨⟨hs, ha⟩, hg⟩ := h
    dsimp only
    have hk' := hk x hp
    rw [hk'] at ht hb ho
    have he : s.bytesAt p = Memory.reads s.mem x.key p.n := by rw [State.bytesAt, hk']
    rw [he]
    simp only [hs, Bool.false_eq_true, if_false]
    have hi : x.inL1 s.cpu = true → s.mayGrant x.grain x.entry.grain = true := fun h => by simpa [h] using hg
    split
    · obtain ⟨t, h1, h2⟩ := homeRead_ok true ha ht ho hb hi
      refine ⟨_, by simp only [freshRead, exec_bind, h1, exec_modify, exec_pure]; rfl, onlyCaches_trans h2 ?_⟩
      split
      · exact syncCopies_onlyCaches _ _ _ _
      · exact onlyCaches_refl _
    · exact homeRead_ok _ ha ht ho hb hi
  | window c k f => exact ⟨s, deliver_ok ht ho hb, onlyCaches_refl s⟩
  | cistern => exact ⟨s, deliver_ok ht ho hb, onlyCaches_refl s⟩

/-! Writing. -/

theorem hostCopy_ok {k n : Nat} {s : State} (h : s.hostFree k n = true) : hostCopy k n s = .ok ((), s) := by
  unfold State.hostFree at h
  simp only [Option.isNone_iff_eq_none] at h
  simp only [hostCopy, exec_bind, exec_get, h, exec_pure]

/-- A withdrawn copy is gone from a state that differs in caches as well. -/
theorem onlyCaches_unwithdraw {s t : State} (a n : Nat) (h : s.onlyCaches t) : (s.withdraw a n).onlyCaches t := by
  refine onlyCaches_trans (t := s) ?_ h
  refine onlyCaches_cores (s := s.withdraw a n) (t := s) rfl fun k => ?_
  have hk : (s.withdraw a n).core k = Core.dropFills a n (s.core k) := core_map (s := s) (f := Core.dropFills a n) (fun _ => rfl) (fun _ => rfl) k
  rw [hk]
  exact ⟨rfl, (dropFills_frame a n _).2.symm⟩

/-- The same bytes put into two states that differ in caches. -/
theorem onlyCaches_putBytes {s t : State} (a : Nat) (bs : List Byte) (h : s.onlyCaches t) : (s.putBytes a bs).onlyCaches (t.putBytes a bs) := by
  obtain ⟨h1, h2, h3, h4, h5, h6⟩ := h
  have hm : t.mem = s.mem := by rw [h1]
  have hmon : t.monitored (Memory.writes t.mem a bs) a bs.length = s.monitored (Memory.writes s.mem a bs) a bs.length := by
    rw [hm]; unfold State.monitored; rw [h1]
  have hsub : ∀ r ∈ t.lostBy a bs.length, r ∈ s.lostBy a bs.length := fun r hr =>
    List.mem_filter.mpr ⟨h3 r (List.mem_filter.mp hr).1, (List.mem_filter.mp hr).2⟩
  refine ⟨?_, h2, fun r hr => ?_, fun r hr hn => ?_, fun e he => ?_, fun e he => ?_⟩
  · unfold State.putBytes; rw [h1]
  · exact List.mem_filter.mpr ⟨h3 r (List.mem_filter.mp hr).1, (List.mem_filter.mp hr).2⟩
  · have hn' : r ∉ t.resvs := fun h => hn (List.mem_filter.mpr ⟨h, (List.mem_filter.mp hr).2⟩)
    exact List.mem_append_left _ (List.mem_append_left _ (h4 r (List.mem_filter.mp hr).1 hn'))
  · rcases List.mem_append.mp he with he | he
    · rcases List.mem_append.mp he with he | he
      · exact List.mem_append_left _ (List.mem_append_left _ (h5 e he))
      · obtain ⟨r, hr, rfl⟩ := List.mem_map.mp he
        by_cases hx : r ∈ t.resvs
        · exact List.mem_append_left _ (List.mem_append_right _ (List.mem_map.mpr ⟨r, List.mem_filter.mpr ⟨hx, (List.mem_filter.mp hr).2⟩, rfl⟩))
        · exact List.mem_append_left _ (List.mem_append_left _ (h4 r (List.mem_filter.mp hr).1 hx))
    · exact List.mem_append_right _ (by rw [hmon]; exact he)
  · rcases List.mem_append.mp he with he | he
    · rcases List.mem_append.mp he with he | he
      · rcases h6 e he with he | ⟨r, hr, rfl⟩
        · exact Or.inl (List.mem_append_left _ (List.mem_append_left _ he))
        · cases hov : overlaps a bs.length r.granule 64 with
          | true => exact Or.inl (List.mem_append_left _ (List.mem_append_right _ (List.mem_map.mpr ⟨r, List.mem_filter.mpr ⟨hr, hov⟩, rfl⟩)))
          | false => exact Or.inr ⟨r, List.mem_filter.mpr ⟨hr, by simp [hov]⟩, rfl⟩
      · obtain ⟨r, hr, rfl⟩ := List.mem_map.mp he
        exact Or.inl (List.mem_append_left _ (List.mem_append_right _ (List.mem_map.mpr ⟨r, hsub r hr, rfl⟩)))
    · exact Or.inl (List.mem_append_right _ (by rw [hmon] at he; exact he))

theorem homeWrite_onlyCaches {s t : State} (a : Nat) (bs : List Byte) (h : s.onlyCaches t) : (s.homeWrite a bs).onlyCaches (t.putBytes a bs) :=
  onlyCaches_putBytes a bs (onlyCaches_unwithdraw a bs.length h)

theorem dropAged_onlyCaches (s : State) (a n : Nat) : s.onlyCaches (s.dropAged a n) := onlyCaches_of rfl

/-- A store of bytes at a translated address that can be performed now. -/
theorem homeStore_ok {x : Xlat} {bs : List Byte} {s : State} (atHome vol : Bool) (h : s.storable x bs.length = true) :
    ∃ t, homeStore x bs atHome vol s = .ok ((), t) ∧ (s.stored x x.key bs).onlyCaches t := by
  simp only [State.storable, Bool.and_eq_true, Bool.not_eq_true'] at h
  obtain ⟨ht, h⟩ := h
  simp only [homeStore, exec_bind, exec_get, ht, Bool.false_eq_true, if_false]
  by_cases h0 : x.home = 0
  · simp only [h0, if_true, Bool.and_eq_true, Bool.or_eq_true, Bool.not_eq_true'] at h
    have hs : s.stored x x.key bs = s.homeWrite x.key bs := by simp [State.stored, h0]
    rw [hs]
    simp only [h0, if_true, exec_bind, hostCopy_ok h.1]
    split
    · rename_i hi
      simp only [Bool.and_eq_true] at hi
      obtain ⟨t, h1, h2⟩ := ownGrain_ok true (h.2.resolve_left (by simp [hi.1]))
      exact ⟨_, by simp only [exec_bind, h1, exec_modify], homeWrite_onlyCaches _ _ (onlyCaches_trans h2 (dropAged_onlyCaches t x.key bs.length))⟩
    · exact ⟨_, rfl, syncCopies_onlyCaches _ _ _ _⟩
  · simp only [h0, if_false] at h ⊢
    by_cases h1 : x.home = 1
    · have hs : s.stored x x.key bs = s.homeWrite x.key bs := by simp [State.stored, h1]
      have ha : s.answered x bs.length false true = true := by simpa [h1] using h
      have hr := remoteReady_ok (va := BitVec.ofNat 64 x.va) (atHome := atHome) ha
      simp only [remoteReady, h1, decide_true, Bool.true_or, if_true, Bool.false_and] at hr
      rw [hs]
      simp only [h1, if_true, exec_bind, hr, exec_modify]
      cases atHome with
      | true => exact ⟨_, rfl, onlyCaches_refl _⟩
      | false => exact keepHostLine_ok _ _ _
    · simp only [h1, if_false] at h ⊢
      by_cases h2 : x.home = 2
      · simp only [h2, if_true, Bool.and_eq_true] at h
        simp only [h2, if_true]
        refine ⟨s.stored x x.key bs, ?_, onlyCaches_refl _⟩
        rw [exec_bind, trapIf_ok (by simp [h.1])]
        simp only [exec_modify, State.hostWrite, State.stored, h2, if_true, show ¬ (2 = 1) by decide, if_false]
        have hp : ∀ c : Thread, (State.port { s with cpu := c } (s.portFor x.pa)) = s.port (s.portFor x.pa) := fun _ => rfl
        simp only [hp, h.2, if_true]
        rfl
      · have h3 : x.home = 3 := by
          have : x.home < 4 := Nat.mod_lt _ (by decide)
          omega
        simp only [h3, if_false, show ¬ (3 = 2) by decide, Bool.and_eq_true, bne_self_eq_false, Bool.false_or] at h
        have hg : s.peerGrants s.cpu.ctx x.entry.peer x.pa bs.length false true = true := by
          have := h.1
          simp only [State.answered, h3, show (decide (3 = 1) || decide (3 = 2)) = false by decide, Bool.false_eq_true, if_false, if_true, Bool.and_eq_true] at this
          exact this.1.1
        have hs : s.stored x x.key bs = s.homeWrite x.key bs := by simp [State.stored, h3]
        rw [hs]
        have hq : ((s.peer (BitVec.ofNat 12 x.entry.peer)).answers && !s.owedAt x.key bs.length) = true := by simp [h.2.1, h.2.2]
        simp only [h3, show ¬ (3 = 2) by decide, if_false, hg, if_true]
        exact ⟨_, rfl, by simp only [hq, if_true]; exact onlyCaches_refl _⟩

/-- A store to one place of a page that can be performed now. -/
theorem writePlace_page {x : Xlat} {va : Word} {bs : List Byte} {mm : MemMode} {s : State} (h : s.storable x bs.length = true) :
    ∃ t, writePlaces mm [x.place va bs.length] bs s = .ok ((), t) ∧ (s.stored x x.key bs).onlyCaches t := by
  obtain ⟨t, h1, h2⟩ := homeStore_ok (atHomeMode mm) (mm.cls == .volatile) h
  exact ⟨t, by simp only [writePlaces, writePlace, Xlat.place, exec_bind, List.take_length, h1, exec_pure], h2⟩

/-- A read of one place of a page that can be read. -/
theorem readPlaces_page {x : Xlat} {va : Word} {n : Nat} {mm : MemMode} {s : State} (h : s.readable (x.place va n) mm = true) :
    ∃ t, readPlaces mm [x.place va n] s = .ok (Memory.reads s.mem x.key n, t) ∧ s.onlyCaches t := by
  obtain ⟨t, h1, h2⟩ := readPlace_ok h (fun y hy => by cases hy; rfl)
  exact ⟨t, by simp only [readPlaces, exec_bind, h1, exec_pure, List.append_nil]; rfl, h2⟩

theorem flushPosts_ok {ea : Option Word} {p : Port} {s : State} (h : s.cpu.posted p = false) : flushPosts ea p s = .ok ((), s) := by
  simp only [flushPosts, exec_bind, exec_get, h, Bool.not_false, if_true, exec_pure]

theorem releaseWait_ok {sc : Scope} {s : State} (ea : Option Word) (h : s.releaseFree sc = true) : releaseWait sc ea s = .ok ((), s) := by
  simp only [State.releaseFree, Bool.and_eq_true, Bool.or_eq_true, decide_eq_true_eq, Bool.not_eq_true'] at h
  obtain ⟨⟨hu, hpost⟩, hfab⟩ := h
  have hf : (sc == .fabric && (s.owesNote s.cpu || s.cpu.mcOwed != 0 || s.owedStores.any fun o => o.slot == s.cpu.id)) = false := by
    cases sc <;> simp_all [bne]
  have he : (do
      let s ← get
      if sc == .fabric && (s.owesNote s.cpu || s.cpu.mcOwed != 0 || s.owedStores.any fun o => o.slot == s.cpu.id) then stall else pure () : Exec Unit) s = .ok ((), s) := by
    simp only [exec_bind, exec_get, hf, Bool.false_eq_true, if_false, exec_pure]
  unfold releaseWait
  simp only [exec_bind, exec_get, getCpu_ok, hu, Bool.false_eq_true, if_false]
  by_cases hr : scopeRank sc ≥ 3
  · have hp := hpost.resolve_left (by omega)
    simp only [hr, decide_true, if_true, exec_bind, flushPosts_ok (p := .a) hp.1, flushPosts_ok (p := .b) hp.2]
    exact he
  · simp only [hr, decide_false, Bool.false_eq_true, if_false]
    exact he

/-- A volatile access has nothing to wait for. -/
theorem volatileWait_ok {mm : MemMode} {s : State} (ea : Option Word) (h : s.volatileFree mm = true) : volatileWait mm ea s = .ok ((), s) := by
  unfold volatileWait
  split
  · rename_i hc
    simp only [State.volatileFree, Bool.or_eq_true, Bool.and_eq_true, Bool.not_eq_true'] at h
    obtain ⟨⟨ha, hb⟩, ho⟩ := h.resolve_left (by simp [bne, hc])
    have ho' : (s.owedStores.any fun o => o.vol && o.slot == s.cpu.id) = false := by
      simp only [List.any_eq_false, List.all_eq_true] at ho ⊢
      intro o h
      have := ho o h
      cases hv : o.vol <;> simp_all
    simp only [exec_bind, exec_get, ha, hb, ho', Bool.false_eq_true, if_false, exec_pure]
  · rfl

theorem releaseMode_ok {mm : MemMode} {s : State} (ea : Option Word) (h : s.modeFree mm = true) : releaseMode mm ea s = .ok ((), s) := by
  simp only [State.modeFree, Bool.and_eq_true] at h
  obtain ⟨⟨hv, ho⟩, hs⟩ := h
  simp only [Bool.or_eq_true] at ho
  have he : (do
      match (← getCpu).relScope with
      | some sc => releaseWait sc ea
      | none => pure () : Exec Unit) s = .ok ((), s) := by
    simp only [exec_bind, getCpu_ok]
    cases hc : s.cpu.relScope with
    | none => rfl
    | some sc => exact releaseWait_ok ea (by simpa [hc] using hs)
  unfold releaseMode
  rw [exec_bind_ok (volatileWait_ok ea hv)]
  split
  · rename_i hc
    rw [exec_bind_ok (releaseWait_ok ea (ho.resolve_left (by simp [bne, hc])))]
    exact he
  · exact he

/-! Acquires, walks, windows, prefetch and streams. -/

/-- An acquire changes nothing but caches besides what `acquiredAt` says. -/
theorem acquire_ok (sc : Scope) (s : State) : ∃ t, acquire sc s = .ok ((), t) ∧ (s.acquiredAt sc).onlyCaches t := by
  refine ⟨_, rfl, ?_⟩
  unfold State.acquiredAt State.acquireAt
  dsimp only
  split
  · rename_i h
    have h' : (s.cpu.homeCoh || decide (scopeRank sc ≥ 2) || s.cpu.isRill) = true := by
      have : (decide (scopeRank sc ≥ 2) || s.cpu.isRill) = true := h
      rw [Bool.or_assoc, this, Bool.or_true]
    rw [h']
    exact onlyCaches_of rfl
  · rename_i h
    have h' : (s.cpu.homeCoh || decide (scopeRank sc ≥ 2) || s.cpu.isRill) = s.cpu.homeCoh := by
      have : (decide (scopeRank sc ≥ 2) || s.cpu.isRill) = false := Bool.eq_false_iff.mpr h
      rw [Bool.or_assoc, this, Bool.or_false]
    rw [h']
    exact onlyCaches_refl _

theorem acquireMode_ok (mm : MemMode) (s : State) : ∃ t, acquireMode mm s = .ok ((), t) ∧ (s.acquired mm).onlyCaches t := by
  unfold acquireMode State.acquired
  cases hc : (mm.cls == .ordered) with
  | true => simpa using acquire_ok mm.scope s
  | false => exact ⟨_, rfl, onlyCaches_refl s⟩

theorem onlyCaches_map {α β : Type} {f : α → β} {m : Exec α} (h : OnlyCaches m) : OnlyCaches (f <$> m) := by
  intro s b t ht
  rw [exec_map] at ht
  cases hm : m s with
  | error e => rw [hm] at ht; cases ht
  | ok r => rw [hm] at ht; cases ht; exact h _ _ _ hm

theorem onlyCaches_translateFor (w : Walker) (va : Word) (hw : w.fetch = false) : OnlyCaches (translateFor w va) := by
  unfold translateFor
  intro s a t h
  simp only [exec_bind, exec_get] at h
  split at h
  · cases h
  · cases hl : lookup s w va.toNat with
    | leaf e =>
      simp only [hl, exec_bind, exec_set, exec_pure] at h
      cases h; exact cacheLeaf_onlyCaches _ _ _ hw
    | absent => rw [hl] at h; cases h
    | malformed => rw [hl] at h; cases h
    | error n => rw [hl] at h; cases h
    | outside n => rw [hl] at h; cases h

theorem onlyCaches_trapRegion {α : Type} (va : Word) (e : TlbEntry) (c : Bool) : OnlyCaches (trapRegion va e c : Exec α) :=
  onlyCaches_trap _ _ _

theorem onlyCaches_reachAs (w : Walker) (va : Word) (rd wr : Bool) (hw : w.fetch = false) : OnlyCaches (reachAs w va rd wr) :=
  onlyCaches_bind (onlyCaches_trapIf _ _ _ _) fun _ => onlyCaches_bind (onlyCaches_trapIf _ _ _ _) fun _ =>
    onlyCaches_bind (onlyCaches_translateFor _ _ hw) fun _ => onlyCaches_bind (onlyCaches_trapIf _ _ _ _) fun _ =>
      onlyCaches_ite (onlyCaches_trapRegion _ _ _) (onlyCaches_pure _)

theorem mapFirst_frame {f : Window → Window} (hf : ∀ w, (f w).frame = w.frame) (p : Window → Bool) (l : List Window) :
    (mapFirst p f l).map Window.frame = l.map Window.frame := by
  induction l with
  | nil => rfl
  | cons w ws ih => simp only [mapFirst]; split <;> simp [hf, ih]

/-- Filling a grain of a window. -/
theorem modWindow_onlyCaches (s : State) (k num : Nat) {f : Window → Window} (hf : ∀ w, (f w).frame = w.frame) :
    s.onlyCaches (s.modWindow k num f) := by
  unfold State.modWindow
  refine putCore_onlyCaches ?_ ?_
  · simp only [core_id]
  · simp only [core_id]
    exact mapFirst_frame hf _ _

theorem onlyCaches_grantFill (k num : Nat) (f : WinFill) (wr : Bool) : OnlyCaches (grantFill k num f wr) := by
  unfold grantFill
  split
  · exact onlyCaches_pure _
  · split
    · exact onlyCaches_pure _
    · refine onlyCaches_bind (onlyCaches_requestGrain _ _ _) fun _ => ?_
      intro s a t h
      cases h
      exact onlyCaches_trans (grantNow_onlyCaches _ _ _ _ _) (modWindow_onlyCaches _ _ _ fun _ => rfl)

theorem onlyCaches_windowFill (wk : Walker) (k : Nat) (w : Window) (va : Word) (rd wr : Bool) (hw : wk.fetch = false) :
    OnlyCaches (windowFill wk k w va rd wr) := by
  unfold windowFill
  split
  · exact onlyCaches_pure _
  · refine onlyCaches_bind (onlyCaches_trapIf _ _ _ _) fun _ => onlyCaches_bind (onlyCaches_translateFor _ _ hw) fun x =>
      onlyCaches_bind (onlyCaches_trapIf _ _ _ _) fun _ => ?_
    dsimp only
    split
    · intro s a t h
      cases h
    · exact onlyCaches_grantFill _ _ _ _

theorem walkerOf_fetch (s : State) (id : Nat) : (s.walkerOf id).fetch = false := rfl

theorem onlyCaches_keptCopy (holder a : Nat) : OnlyCaches (keptCopy holder a) := by
  unfold keptCopy
  refine onlyCaches_bind onlyCaches_get fun s => ?_
  split
  · exact onlyCaches_pure _
  · exact onlyCaches_ite (onlyCaches_bind onlyCaches_choose fun _ => onlyCaches_pure _) (onlyCaches_pure _)

theorem onlyCaches_fillFrom (old new : LineData) (a : Nat) : OnlyCaches (fillFrom old new a) :=
  onlyCaches_bind onlyCaches_choose fun _ => onlyCaches_pure _

theorem onlyCaches_partitionLine (a : Nat) : OnlyCaches (partitionLine a) := by
  unfold partitionLine
  refine onlyCaches_bind onlyCaches_get fun s => onlyCaches_bind (onlyCaches_keptCopy _ _) fun o => ?_
  cases o with
  | some l => exact onlyCaches_bind onlyCaches_get fun _ => onlyCaches_pure _
  | none =>
    exact onlyCaches_bind onlyCaches_get fun _ =>
      onlyCaches_bind (onlyCaches_modify fun s => putCopy_onlyCaches s _ _ _) fun _ => onlyCaches_pure _

theorem onlyCaches_cachedLine (a : Nat) (whole : Bool) : OnlyCaches (cachedLine a whole) := by
  unfold cachedLine
  refine onlyCaches_bind onlyCaches_get fun s => onlyCaches_bind (onlyCaches_keptCopy _ _) fun o => ?_
  cases o.filter fun l => !whole || l.valid == BitVec.allOnes 16 with
  | some l => exact onlyCaches_bind onlyCaches_get fun _ => onlyCaches_pure _
  | none =>
    refine onlyCaches_bind (onlyCaches_partitionLine _) fun x => ?_
    refine onlyCaches_bind onlyCaches_get fun _ => ?_
    have hp : ∀ l : LineData, OnlyCaches (do modify fun t => t.putCopy s.cpu.coreId (lineOf a) l; return (l, x.2) : Exec _) :=
      fun l => onlyCaches_bind (onlyCaches_modify fun s => putCopy_onlyCaches s _ _ _) fun _ => onlyCaches_pure _
    dsimp only
    split
    · exact onlyCaches_bind (onlyCaches_pure _) hp
    · exact onlyCaches_bind (onlyCaches_fillFrom _ _ _) hp

theorem onlyCaches_prefetchGrains (x : Xlat) : OnlyCaches (prefetchGrains x) :=
  onlyCaches_bind (onlyCaches_forIn (fun _ => onlyCaches_bind (onlyCaches_attempt (onlyCaches_ownGrain _ _)) fun _ => onlyCaches_pure _) _)
    fun _ => onlyCaches_pure _

theorem onlyCaches_hostRequest (x : Xlat) (va : Word) (u : HostUse) : OnlyCaches (hostRequest x va u) := by
  unfold hostRequest
  refine onlyCaches_bind onlyCaches_get fun s => onlyCaches_bind (onlyCaches_trapIf _ _ _ _) fun _ => ?_
  split
  · exact onlyCaches_trap _ _ _
  · exact onlyCaches_ite (onlyCaches_trap _ _ _) (onlyCaches_trap _ _ _)
  · exact onlyCaches_pure _
  · exact onlyCaches_ite (onlyCaches_pure _) (onlyCaches_stall _)

theorem onlyCaches_keepHostLine (x : Xlat) (m : Moesi) : OnlyCaches (keepHostLine x m) := by
  intro s a t h
  obtain ⟨u, hu, ho⟩ := keepHostLine_ok x m s
  rw [hu] at h
  cases h
  exact ho

theorem onlyCaches_prefetchLine (wk : Walker) (va : Word) (cis : Bool) (hw : wk.fetch = false) : OnlyCaches (prefetchLine wk va cis) := by
  unfold prefetchLine
  refine onlyCaches_bind onlyCaches_get fun s => ?_
  split
  · refine onlyCaches_bind (onlyCaches_reachAs _ _ _ _ (walkerOf_fetch _ _)) fun x => ?_
    refine onlyCaches_bind (onlyCaches_forIn (fun j => ?_) _) fun _ => onlyCaches_pure _
    refine onlyCaches_bind (onlyCaches_attempt ?_) fun _ => onlyCaches_pure _
    exact onlyCaches_bind (onlyCaches_windowFill _ _ _ _ _ _ (walkerOf_fetch _ _)) fun _ => onlyCaches_pure _
  · refine onlyCaches_bind (onlyCaches_reachAs _ _ _ _ hw) fun x => ?_
    split
    · exact onlyCaches_bind (onlyCaches_hostRequest _ _ _) fun _ => onlyCaches_keepHostLine _ _
    · split
      · exact onlyCaches_pure _
      · split
        · refine onlyCaches_bind (onlyCaches_forIn (fun j => onlyCaches_bind ?_ fun _ => onlyCaches_pure _) _) fun _ => onlyCaches_pure _
          exact onlyCaches_modify fun s => installGrain_onlyCaches _ _ _ _
        · split
          · exact onlyCaches_prefetchGrains _
          · exact onlyCaches_bind (onlyCaches_cachedLine _ _) fun _ => onlyCaches_pure _

theorem onlyCaches_streamFetch (st : Stream) : OnlyCaches (streamFetch st) := by
  unfold streamFetch
  refine onlyCaches_bind (onlyCaches_forIn (fun j => ?_) _) fun _ => onlyCaches_pure _
  refine onlyCaches_bind onlyCaches_getCpu fun t => ?_
  exact onlyCaches_bind (onlyCaches_attempt (onlyCaches_prefetchLine _ _ _ rfl)) fun _ => onlyCaches_pure _

/-- The computation answers in every state. -/
def Answers {α : Type} (m : Exec α) : Prop := ∀ s, ∃ a t, m s = .ok (a, t)

theorem answers_pure {α : Type} (a : α) : Answers (pure a : Exec α) := fun s => ⟨a, s, rfl⟩
theorem answers_bind {α β : Type} {m : Exec α} {f : α → Exec β} (h1 : Answers m) (h2 : ∀ a, Answers (f a)) : Answers (m >>= f) := by
  intro s
  obtain ⟨a, s', ha⟩ := h1 s
  obtain ⟨b, t, hb⟩ := h2 a s'
  exact ⟨b, t, by rw [exec_bind_ok ha, hb]⟩
theorem answers_attempt (m : Exec Unit) : Answers (attempt m) := by
  intro s
  unfold attempt
  cases h : m s with
  | ok r =>
    dsimp only
    split
    · exact ⟨r.1, r.2, rfl⟩
    · exact ⟨(), s, rfl⟩
  | error e => exact ⟨(), s, rfl⟩
theorem answers_forIn {α : Type} {f : α → Unit → Exec (ForInStep Unit)} (hf : ∀ a, Answers (f a ())) :
    ∀ l : List α, Answers (forIn l () f)
  | [] => answers_pure _
  | a :: as => by
    rw [List.forIn_cons]
    refine answers_bind (hf a) fun r => ?_
    cases r with
    | done _ => exact answers_pure _
    | yield _ => exact answers_forIn hf as

theorem answers_streamFetch (st : Stream) : Answers (streamFetch st) := by
  unfold streamFetch
  refine answers_bind (answers_forIn (fun j => ?_) _) fun _ => answers_pure _
  exact answers_bind (fun s => ⟨_, _, rfl⟩) fun t => answers_bind (answers_attempt _) fun _ => answers_pure _

/-- Moving the streams of the core always answers, and changes nothing but caches and the streams (R187, R189). -/
theorem touchStreams_ok (va : Word) (s : State) : ∃ t, touchStreams va s = .ok ((), t) ∧ s.onlyCaches t := by
  have ha : Answers (touchStreams va) := by
    refine answers_bind (fun s => ⟨s, s, rfl⟩) fun s => ?_
    split
    · exact answers_pure _
    · refine answers_bind (fun s => ⟨_, _, rfl⟩) fun _ => ?_
      refine answers_bind (answers_forIn (fun st => ?_) _) fun _ => answers_pure _
      dsimp only
      split
      · exact answers_bind (answers_streamFetch _) fun _ => answers_pure _
      · exact answers_bind (answers_pure _) fun _ => answers_pure _
  have ho : OnlyCaches (touchStreams va) := by
    refine onlyCaches_bind onlyCaches_get fun s => ?_
    split
    · exact onlyCaches_pure _
    · refine onlyCaches_bind ?_ fun _ => ?_
      · intro s a t h
        cases h
        refine putCore_onlyCaches ?_ ?_ <;> simp only [State.myCore, core_id]
      · refine onlyCaches_bind (onlyCaches_forIn (fun st => ?_) _) fun _ => onlyCaches_pure _
        dsimp only
        split
        · exact onlyCaches_bind (onlyCaches_streamFetch _) fun _ => onlyCaches_pure _
        · exact onlyCaches_bind (onlyCaches_pure _) fun _ => onlyCaches_pure _
  obtain ⟨⟨⟩, t, h⟩ := ha s
  exact ⟨t, h, ho _ _ _ h⟩


end Sys2Proof.Machine
end

