-- ==== Sys2Proof/Laws/Dispatch.lean ====
section
/-!
SUPPORT. The meaning of each constructor, as `exec` dispatches it.
-/
namespace Sys2Proof.Machine

@[simp] theorem exec_udf (c : Chain) (n : BitVec 10) (xr : BitVec 10) (m : BitVec 5) (xis : List (BitVec 10)) (s : State) : exec (.udf c n xr m xis) s = execUdf c n xr m xis s := rfl
@[simp] theorem exec_nop (c : Chain) (s : State) : exec (.nop c) s = execNop c s := rfl
@[simp] theorem exec_mov (c : Chain) (a : Reg) (b : Reg) (s : State) : exec (.mov c a b) s = execMov c a b s := rfl
@[simp] theorem exec_movi (c : Chain) (a : Reg) (imm : Word) (s : State) : exec (.movi c a imm) s = execMovi c a imm s := rfl
@[simp] theorem exec_add (c : Chain) (a : Reg) (b : Reg) (k : RegC) (s : State) : exec (.add c a b k) s = execAdd c a b k s := rfl
@[simp] theorem exec_sub (c : Chain) (a : Reg) (b : Reg) (k : RegC) (s : State) : exec (.sub c a b k) s = execSub c a b k s := rfl
@[simp] theorem exec_addi (c : Chain) (a : Reg) (imm : Word) (s : State) : exec (.addi c a imm) s = execAddi c a imm s := rfl
@[simp] theorem exec_mul (c : Chain) (a : Reg) (b : Reg) (k : RegC) (s : State) : exec (.mul c a b k) s = execMul c a b k s := rfl
@[simp] theorem exec_mulh (c : Chain) (a : Reg) (b : Reg) (k : RegC) (s : State) : exec (.mulh c a b k) s = execMulh c a b k s := rfl
@[simp] theorem exec_mulhu (c : Chain) (a : Reg) (b : Reg) (k : RegC) (s : State) : exec (.mulhu c a b k) s = execMulhu c a b k s := rfl
@[simp] theorem exec_div (c : Chain) (a : Reg) (b : Reg) (k : RegC) (s : State) : exec (.div c a b k) s = execDiv c a b k s := rfl
@[simp] theorem exec_divu (c : Chain) (a : Reg) (b : Reg) (k : RegC) (s : State) : exec (.divu c a b k) s = execDivu c a b k s := rfl
@[simp] theorem exec_rem (c : Chain) (a : Reg) (b : Reg) (k : RegC) (s : State) : exec (.rem c a b k) s = execRem c a b k s := rfl
@[simp] theorem exec_remu (c : Chain) (a : Reg) (b : Reg) (k : RegC) (s : State) : exec (.remu c a b k) s = execRemu c a b k s := rfl
@[simp] theorem exec_and (c : Chain) (a : Reg) (b : Reg) (k : RegC) (s : State) : exec (.and c a b k) s = execAnd c a b k s := rfl
@[simp] theorem exec_or (c : Chain) (a : Reg) (b : Reg) (k : RegC) (s : State) : exec (.or c a b k) s = execOr c a b k s := rfl
@[simp] theorem exec_xor (c : Chain) (a : Reg) (b : Reg) (k : RegC) (s : State) : exec (.xor c a b k) s = execXor c a b k s := rfl
@[simp] theorem exec_andi (c : Chain) (a : Reg) (imm : Word) (s : State) : exec (.andi c a imm) s = execAndi c a imm s := rfl
@[simp] theorem exec_ori (c : Chain) (a : Reg) (imm : Word) (s : State) : exec (.ori c a imm) s = execOri c a imm s := rfl
@[simp] theorem exec_xori (c : Chain) (a : Reg) (imm : Word) (s : State) : exec (.xori c a imm) s = execXori c a imm s := rfl
@[simp] theorem exec_shl (c : Chain) (a : Reg) (b : Reg) (k : RegC) (s : State) : exec (.shl c a b k) s = execShl c a b k s := rfl
@[simp] theorem exec_shr (c : Chain) (a : Reg) (b : Reg) (k : RegC) (s : State) : exec (.shr c a b k) s = execShr c a b k s := rfl
@[simp] theorem exec_sar (c : Chain) (a : Reg) (b : Reg) (k : RegC) (s : State) : exec (.sar c a b k) s = execSar c a b k s := rfl
@[simp] theorem exec_shli (c : Chain) (a : Reg) (imm : Word) (s : State) : exec (.shli c a imm) s = execShli c a imm s := rfl
@[simp] theorem exec_shri (c : Chain) (a : Reg) (imm : Word) (s : State) : exec (.shri c a imm) s = execShri c a imm s := rfl
@[simp] theorem exec_sari (c : Chain) (a : Reg) (imm : Word) (s : State) : exec (.sari c a imm) s = execSari c a imm s := rfl
@[simp] theorem exec_clz (c : Chain) (a : Reg) (b : Reg) (s : State) : exec (.clz c a b) s = execClz c a b s := rfl
@[simp] theorem exec_popc (c : Chain) (a : Reg) (b : Reg) (s : State) : exec (.popc c a b) s = execPopc c a b s := rfl
@[simp] theorem exec_min (c : Chain) (a : Reg) (b : Reg) (k : RegC) (s : State) : exec (.min c a b k) s = execMin c a b k s := rfl
@[simp] theorem exec_max (c : Chain) (a : Reg) (b : Reg) (k : RegC) (s : State) : exec (.max c a b k) s = execMax c a b k s := rfl
@[simp] theorem exec_ceq (c : Chain) (a : Reg) (b : Reg) (d : PredDest) (s : State) : exec (.ceq c a b d) s = execCeq c a b d s := rfl
@[simp] theorem exec_cne (c : Chain) (a : Reg) (b : Reg) (d : PredDest) (s : State) : exec (.cne c a b d) s = execCne c a b d s := rfl
@[simp] theorem exec_clt (c : Chain) (a : Reg) (b : Reg) (d : PredDest) (s : State) : exec (.clt c a b d) s = execClt c a b d s := rfl
@[simp] theorem exec_cle (c : Chain) (a : Reg) (b : Reg) (d : PredDest) (s : State) : exec (.cle c a b d) s = execCle c a b d s := rfl
@[simp] theorem exec_cltu (c : Chain) (a : Reg) (b : Reg) (d : PredDest) (s : State) : exec (.cltu c a b d) s = execCltu c a b d s := rfl
@[simp] theorem exec_cleu (c : Chain) (a : Reg) (b : Reg) (d : PredDest) (s : State) : exec (.cleu c a b d) s = execCleu c a b d s := rfl
@[simp] theorem exec_ceqi (c : Chain) (a : Reg) (imm : Word) (d : PredDest) (s : State) : exec (.ceqi c a imm d) s = execCeqi c a imm d s := rfl
@[simp] theorem exec_prd (c : Chain) (a : Reg) (s : State) : exec (.prd c a) s = execPrd c a s := rfl
@[simp] theorem exec_pwr (c : Chain) (a : Reg) (s : State) : exec (.pwr c a) s = execPwr c a s := rfl
@[simp] theorem exec_br (c : Chain) (off : Word) (s : State) : exec (.br c off) s = execBr c off s := rfl
@[simp] theorem exec_bl (c : Chain) (a : Reg) (off : Word) (s : State) : exec (.bl c a off) s = execBl c a off s := rfl
@[simp] theorem exec_jr (c : Chain) (a : Reg) (b : Reg) (s : State) : exec (.jr c a b) s = execJr c a b s := rfl
@[simp] theorem exec_loop (c : Chain) (a : Reg) (off : Word) (s : State) : exec (.loop c a off) s = execLoop c a off s := rfl
@[simp] theorem exec_endThread (c : Chain) (s : State) : exec (.endThread c) s = execEndThread c s := rfl
@[simp] theorem exec_ldb (c : Chain) (a : Reg) (b : Reg) (off : Word) (mm : MemMode) (s : State) : exec (.ldb c a b off mm) s = execLdb c a b off mm s := rfl
@[simp] theorem exec_ldh (c : Chain) (a : Reg) (b : Reg) (off : Word) (mm : MemMode) (s : State) : exec (.ldh c a b off mm) s = execLdh c a b off mm s := rfl
@[simp] theorem exec_ldw (c : Chain) (a : Reg) (b : Reg) (off : Word) (mm : MemMode) (s : State) : exec (.ldw c a b off mm) s = execLdw c a b off mm s := rfl
@[simp] theorem exec_ldd (c : Chain) (a : Reg) (b : Reg) (off : Word) (mm : MemMode) (s : State) : exec (.ldd c a b off mm) s = execLdd c a b off mm s := rfl
@[simp] theorem exec_sextB (c : Chain) (a : Reg) (b : Reg) (s : State) : exec (.sextB c a b) s = execSextB c a b s := rfl
@[simp] theorem exec_sextH (c : Chain) (a : Reg) (b : Reg) (s : State) : exec (.sextH c a b) s = execSextH c a b s := rfl
@[simp] theorem exec_sextW (c : Chain) (a : Reg) (b : Reg) (s : State) : exec (.sextW c a b) s = execSextW c a b s := rfl
@[simp] theorem exec_stb (c : Chain) (a : Reg) (b : Reg) (off : Word) (mm : MemMode) (s : State) : exec (.stb c a b off mm) s = execStb c a b off mm s := rfl
@[simp] theorem exec_sth (c : Chain) (a : Reg) (b : Reg) (off : Word) (mm : MemMode) (s : State) : exec (.sth c a b off mm) s = execSth c a b off mm s := rfl
@[simp] theorem exec_stw (c : Chain) (a : Reg) (b : Reg) (off : Word) (mm : MemMode) (s : State) : exec (.stw c a b off mm) s = execStw c a b off mm s := rfl
@[simp] theorem exec_std (c : Chain) (a : Reg) (b : Reg) (off : Word) (mm : MemMode) (s : State) : exec (.std c a b off mm) s = execStd c a b off mm s := rfl
@[simp] theorem exec_mfs (c : Chain) (a : Reg) (sr : BitVec 5) (s : State) : exec (.mfs c a sr) s = execMfs c a sr s := rfl
@[simp] theorem exec_mts (c : Chain) (a : Reg) (sr : BitVec 5) (s : State) : exec (.mts c a sr) s = execMts c a sr s := rfl
@[simp] theorem exec_trap (c : Chain) (n : BitVec 10) (s : State) : exec (.trap c n) s = execTrap c n s := rfl
@[simp] theorem exec_fenceFull (c : Chain) (sc : Scope) (s : State) : exec (.fenceFull c sc) s = execFenceFull c sc s := rfl
@[simp] theorem exec_fenceAcq (c : Chain) (sc : Scope) (s : State) : exec (.fenceAcq c sc) s = execFenceAcq c sc s := rfl
@[simp] theorem exec_fenceRel (c : Chain) (sc : Scope) (s : State) : exec (.fenceRel c sc) s = execFenceRel c sc s := rfl
@[simp] theorem exec_fenceIfetch (c : Chain) (sc : Scope) (s : State) : exec (.fenceIfetch c sc) s = execFenceIfetch c sc s := rfl
@[simp] theorem exec_waitr (c : Chain) (a : Reg) (s : State) : exec (.waitr c a) s = execWaitr c a s := rfl
@[simp] theorem exec_muli (c : Chain) (a : Reg) (imm : Word) (s : State) : exec (.muli c a imm) s = execMuli c a imm s := rfl
@[simp] theorem exec_gbar (c : Chain) (s : State) : exec (.gbar c) s = execGbar c s := rfl
@[simp] theorem exec_fadd (c : Chain) (a : Reg) (b : Reg) (k : RegC) (s : State) : exec (.fadd c a b k) s = execFadd c a b k s := rfl
@[simp] theorem exec_fsub (c : Chain) (a : Reg) (b : Reg) (k : RegC) (s : State) : exec (.fsub c a b k) s = execFsub c a b k s := rfl
@[simp] theorem exec_fmul (c : Chain) (a : Reg) (b : Reg) (k : RegC) (s : State) : exec (.fmul c a b k) s = execFmul c a b k s := rfl
@[simp] theorem exec_ffma (c : Chain) (a : Reg) (b : Reg) (k : RegC) (s : State) : exec (.ffma c a b k) s = execFfma c a b k s := rfl
@[simp] theorem exec_fdiv (c : Chain) (a : Reg) (b : Reg) (k : RegC) (s : State) : exec (.fdiv c a b k) s = execFdiv c a b k s := rfl
@[simp] theorem exec_fsqrt (c : Chain) (a : Reg) (b : Reg) (s : State) : exec (.fsqrt c a b) s = execFsqrt c a b s := rfl
@[simp] theorem exec_fmin (c : Chain) (a : Reg) (b : Reg) (k : RegC) (s : State) : exec (.fmin c a b k) s = execFmin c a b k s := rfl
@[simp] theorem exec_fmax (c : Chain) (a : Reg) (b : Reg) (k : RegC) (s : State) : exec (.fmax c a b k) s = execFmax c a b k s := rfl
@[simp] theorem exec_fceq (c : Chain) (a : Reg) (b : Reg) (d : PredDest) (s : State) : exec (.fceq c a b d) s = execFceq c a b d s := rfl
@[simp] theorem exec_fclt (c : Chain) (a : Reg) (b : Reg) (d : PredDest) (s : State) : exec (.fclt c a b d) s = execFclt c a b d s := rfl
@[simp] theorem exec_fcle (c : Chain) (a : Reg) (b : Reg) (d : PredDest) (s : State) : exec (.fcle c a b d) s = execFcle c a b d s := rfl
@[simp] theorem exec_fcvti (c : Chain) (a : Reg) (b : Reg) (s : State) : exec (.fcvti c a b) s = execFcvti c a b s := rfl
@[simp] theorem exec_fcvtiRz (c : Chain) (a : Reg) (b : Reg) (s : State) : exec (.fcvtiRz c a b) s = execFcvtiRz c a b s := rfl
@[simp] theorem exec_icvtf (c : Chain) (a : Reg) (b : Reg) (s : State) : exec (.icvtf c a b) s = execIcvtf c a b s := rfl
@[simp] theorem exec_icvtfU (c : Chain) (a : Reg) (b : Reg) (s : State) : exec (.icvtfU c a b) s = execIcvtfU c a b s := rfl
@[simp] theorem exec_vadd (c : Chain) (a : VReg) (b : VReg) (k : VReg) (s : State) : exec (.vadd c a b k) s = execVadd c a b k s := rfl
@[simp] theorem exec_vsub (c : Chain) (a : VReg) (b : VReg) (k : VReg) (s : State) : exec (.vsub c a b k) s = execVsub c a b k s := rfl
@[simp] theorem exec_vmul (c : Chain) (a : VReg) (b : VReg) (k : VReg) (s : State) : exec (.vmul c a b k) s = execVmul c a b k s := rfl
@[simp] theorem exec_vfma (c : Chain) (a : VReg) (b : VReg) (k : VReg) (s : State) : exec (.vfma c a b k) s = execVfma c a b k s := rfl
@[simp] theorem exec_vmax (c : Chain) (a : VReg) (b : VReg) (k : VReg) (s : State) : exec (.vmax c a b k) s = execVmax c a b k s := rfl
@[simp] theorem exec_vmin (c : Chain) (a : VReg) (b : VReg) (k : VReg) (s : State) : exec (.vmin c a b k) s = execVmin c a b k s := rfl
@[simp] theorem exec_viadd (c : Chain) (a : VReg) (b : VReg) (k : VReg) (s : State) : exec (.viadd c a b k) s = execViadd c a b k s := rfl
@[simp] theorem exec_vbcast (c : Chain) (a : VReg) (b : Reg) (s : State) : exec (.vbcast c a b) s = execVbcast c a b s := rfl
@[simp] theorem exec_vextr (c : Chain) (a : Reg) (b : VReg) (lane : BitVec 4) (s : State) : exec (.vextr c a b lane) s = execVextr c a b lane s := rfl
@[simp] theorem exec_vins (c : Chain) (a : VReg) (b : Reg) (lane : BitVec 4) (s : State) : exec (.vins c a b lane) s = execVins c a b lane s := rfl
@[simp] theorem exec_vsum (c : Chain) (a : Reg) (b : VReg) (s : State) : exec (.vsum c a b) s = execVsum c a b s := rfl
@[simp] theorem exec_vmaxr (c : Chain) (a : Reg) (b : VReg) (s : State) : exec (.vmaxr c a b) s = execVmaxr c a b s := rfl
@[simp] theorem exec_vld (c : Chain) (a : VReg) (b : Reg) (off : Word) (mm : MemMode) (s : State) : exec (.vld c a b off mm) s = execVld c a b off mm s := rfl
@[simp] theorem exec_vst (c : Chain) (a : VReg) (b : Reg) (off : Word) (mm : MemMode) (s : State) : exec (.vst c a b off mm) s = execVst c a b off mm s := rfl
@[simp] theorem exec_vldx (c : Chain) (a : VReg) (b : Reg) (k : VReg) (mm : MemMode) (s : State) : exec (.vldx c a b k mm) s = execVldx c a b k mm s := rfl
@[simp] theorem exec_vstx (c : Chain) (a : VReg) (b : Reg) (k : VReg) (mm : MemMode) (s : State) : exec (.vstx c a b k mm) s = execVstx c a b k mm s := rfl
@[simp] theorem exec_vcvtBf16Fp32 (c : Chain) (a : VReg) (b : VReg) (s : State) : exec (.vcvtBf16Fp32 c a b) s = execVcvtBf16Fp32 c a b s := rfl
@[simp] theorem exec_vcvtFp32Bf16 (c : Chain) (a : VReg) (b : VReg) (s : State) : exec (.vcvtFp32Bf16 c a b) s = execVcvtFp32Bf16 c a b s := rfl
@[simp] theorem exec_vcvtDl8Fp32 (c : Chain) (a : VReg) (b : VReg) (s : State) : exec (.vcvtDl8Fp32 c a b) s = execVcvtDl8Fp32 c a b s := rfl
@[simp] theorem exec_vcvtFp32Dl8 (c : Chain) (a : VReg) (b : VReg) (s : State) : exec (.vcvtFp32Dl8 c a b) s = execVcvtFp32Dl8 c a b s := rfl
@[simp] theorem exec_vsel (c : Chain) (a : VReg) (b : VReg) (k : RegC) (s : State) : exec (.vsel c a b k) s = execVsel c a b k s := rfl
@[simp] theorem exec_ldaw (c : Chain) (a : Reg) (b : Reg) (k : RegC) (off : Word) (lag : BitVec 5) (s : State) : exec (.ldaw c a b k off lag) s = execLdaw c a b k off lag s := rfl
@[simp] theorem exec_ldat (c : Chain) (a : Reg) (b : Reg) (k : RegC) (off : Word) (lag : BitVec 5) (s : State) : exec (.ldat c a b k off lag) s = execLdat c a b k off lag s := rfl
@[simp] theorem exec_sta (c : Chain) (a : Reg) (b : Reg) (off : Word) (s : State) : exec (.sta c a b off) s = execSta c a b off s := rfl
@[simp] theorem exec_vlda (c : Chain) (a : VReg) (b : Reg) (k : RegC) (off : Word) (lag : BitVec 5) (s : State) : exec (.vlda c a b k off lag) s = execVlda c a b k off lag s := rfl
@[simp] theorem exec_vsta (c : Chain) (a : VReg) (b : Reg) (off : Word) (s : State) : exec (.vsta c a b off) s = execVsta c a b off s := rfl
@[simp] theorem exec_itadv (c : Chain) (n : BitVec 5) (s : State) : exec (.itadv c n) s = execItadv c n s := rfl
@[simp] theorem exec_dmode (c : Chain) (n : BitVec 2) (s : State) : exec (.dmode c n) s = execDmode c n s := rfl
@[simp] theorem exec_adjrd (c : Chain) (a : Reg) (b : Reg) (off : Word) (mm : MemMode) (s : State) : exec (.adjrd c a b off mm) s = execAdjrd c a b off mm s := rfl
@[simp] theorem exec_adjwr (c : Chain) (a : Reg) (b : Reg) (off : Word) (mm : MemMode) (s : State) : exec (.adjwr c a b off mm) s = execAdjwr c a b off mm s := rfl
@[simp] theorem exec_lr (c : Chain) (a : Reg) (b : Reg) (off : Word) (mm : MemMode) (s : State) : exec (.lr c a b off mm) s = execLr c a b off mm s := rfl
@[simp] theorem exec_sc (c : Chain) (a : Reg) (b : Reg) (k : RegC) (off : Word) (mm : MemMode) (s : State) : exec (.sc c a b k off mm) s = execSc c a b k off mm s := rfl
@[simp] theorem exec_aadd (c : Chain) (a : Reg) (b : Reg) (k : RegC) (off : Word) (mm : MemMode) (s : State) : exec (.aadd c a b k off mm) s = execAadd c a b k off mm s := rfl
@[simp] theorem exec_aand (c : Chain) (a : Reg) (b : Reg) (k : RegC) (off : Word) (mm : MemMode) (s : State) : exec (.aand c a b k off mm) s = execAand c a b k off mm s := rfl
@[simp] theorem exec_aor (c : Chain) (a : Reg) (b : Reg) (k : RegC) (off : Word) (mm : MemMode) (s : State) : exec (.aor c a b k off mm) s = execAor c a b k off mm s := rfl
@[simp] theorem exec_axor (c : Chain) (a : Reg) (b : Reg) (k : RegC) (off : Word) (mm : MemMode) (s : State) : exec (.axor c a b k off mm) s = execAxor c a b k off mm s := rfl
@[simp] theorem exec_amin (c : Chain) (a : Reg) (b : Reg) (k : RegC) (off : Word) (mm : MemMode) (s : State) : exec (.amin c a b k off mm) s = execAmin c a b k off mm s := rfl
@[simp] theorem exec_amax (c : Chain) (a : Reg) (b : Reg) (k : RegC) (off : Word) (mm : MemMode) (s : State) : exec (.amax c a b k off mm) s = execAmax c a b k off mm s := rfl
@[simp] theorem exec_aswp (c : Chain) (a : Reg) (b : Reg) (k : RegC) (off : Word) (mm : MemMode) (s : State) : exec (.aswp c a b k off mm) s = execAswp c a b k off mm s := rfl
@[simp] theorem exec_cas (c : Chain) (a : Reg) (b : Reg) (k : RegC) (off : Word) (mm : MemMode) (s : State) : exec (.cas c a b k off mm) s = execCas c a b k off mm s := rfl
@[simp] theorem exec_casx (c : Chain) (a : Reg) (b : Reg) (k : RegC) (off : Word) (mm : MemMode) (s : State) : exec (.casx c a b k off mm) s = execCasx c a b k off mm s := rfl
@[simp] theorem exec_rupdAdjoint (c : Chain) (a : Reg) (b : Reg) (off : Word) (mm : MemMode) (s : State) : exec (.rupdAdjoint c a b off mm) s = execRupdAdjoint c a b off mm s := rfl
@[simp] theorem exec_rupdQ64Add (c : Chain) (a : Reg) (b : Reg) (off : Word) (mm : MemMode) (s : State) : exec (.rupdQ64Add c a b off mm) s = execRupdQ64Add c a b off mm s := rfl
@[simp] theorem exec_rupdFp32Add (c : Chain) (a : Reg) (b : Reg) (off : Word) (mm : MemMode) (s : State) : exec (.rupdFp32Add c a b off mm) s = execRupdFp32Add c a b off mm s := rfl
@[simp] theorem exec_rupdIntAdd (c : Chain) (a : Reg) (b : Reg) (off : Word) (mm : MemMode) (s : State) : exec (.rupdIntAdd c a b off mm) s = execRupdIntAdd c a b off mm s := rfl
@[simp] theorem exec_rupdMin (c : Chain) (a : Reg) (b : Reg) (off : Word) (mm : MemMode) (s : State) : exec (.rupdMin c a b off mm) s = execRupdMin c a b off mm s := rfl
@[simp] theorem exec_rupdMax (c : Chain) (a : Reg) (b : Reg) (off : Word) (mm : MemMode) (s : State) : exec (.rupdMax c a b off mm) s = execRupdMax c a b off mm s := rfl
@[simp] theorem exec_rupdOr (c : Chain) (a : Reg) (b : Reg) (off : Word) (mm : MemMode) (s : State) : exec (.rupdOr c a b off mm) s = execRupdOr c a b off mm s := rfl
@[simp] theorem exec_rupdAnd (c : Chain) (a : Reg) (b : Reg) (off : Word) (mm : MemMode) (s : State) : exec (.rupdAnd c a b off mm) s = execRupdAnd c a b off mm s := rfl
@[simp] theorem exec_spawn (c : Chain) (a : Reg) (b : Reg) (k : RegC) (s : State) : exec (.spawn c a b k) s = execSpawn c a b k s := rfl
@[simp] theorem exec_cpreq (c : Chain) (a : Reg) (s : State) : exec (.cpreq c a) s = execCpreq c a s := rfl
@[simp] theorem exec_cpseal (c : Chain) (s : State) : exec (.cpseal c) s = execCpseal c s := rfl
@[simp] theorem exec_cpwait (c : Chain) (n : Word) (s : State) : exec (.cpwait c n) s = execCpwait c n s := rfl
@[simp] theorem exec_mbget (c : Chain) (a : BitVec 5) (s : State) : exec (.mbget c a) s = execMbget c a s := rfl
@[simp] theorem exec_mbgetNw (c : Chain) (a : BitVec 5) (s : State) : exec (.mbgetNw c a) s = execMbgetNw c a s := rfl
@[simp] theorem exec_xfer (c : Chain) (a : BitVec 5) (b : BitVec 5) (s : State) : exec (.xfer c a b) s = execXfer c a b s := rfl
@[simp] theorem exec_mbpost (c : Chain) (a : BitVec 5) (b : BitVec 5) (s : State) : exec (.mbpost c a b) s = execMbpost c a b s := rfl
@[simp] theorem exec_xpush (c : Chain) (a : BitVec 5) (q : Bool) (d : Bool) (s : State) : exec (.xpush c a q d) s = execXpush c a q d s := rfl
@[simp] theorem exec_pfs (c : Chain) (a : Reg) (stream : BitVec 4) (cis : Bool) (s : State) : exec (.pfs c a stream cis) s = execPfs c a stream cis s := rfl
@[simp] theorem exec_pfx (c : Chain) (b : Reg) (off : Word) (cis : Bool) (s : State) : exec (.pfx c b off cis) s = execPfx c b off cis s := rfl
@[simp] theorem exec_cwait (c : Chain) (h : BitVec 3) (n : Word) (s : State) : exec (.cwait c h n) s = execCwait c h n s := rfl
@[simp] theorem exec_cfree (c : Chain) (h : BitVec 3) (n : Word) (s : State) : exec (.cfree c h n) s = execCfree c h n s := rfl
@[simp] theorem exec_cadv (c : Chain) (h : BitVec 3) (n : Word) (s : State) : exec (.cadv c h n) s = execCadv c h n s := rfl
@[simp] theorem exec_cpost (c : Chain) (h : BitVec 3) (n : Word) (s : State) : exec (.cpost c h n) s = execCpost c h n s := rfl
@[simp] theorem exec_smap (c : Chain) (a : Reg) (b : Reg) (w : BitVec 3) (s : State) : exec (.smap c a b w) s = execSmap c a b w s := rfl
@[simp] theorem exec_sunmap (c : Chain) (w : BitVec 3) (s : State) : exec (.sunmap c w) s = execSunmap c w s := rfl
@[simp] theorem exec_sflush (c : Chain) (w : BitVec 3) (s : State) : exec (.sflush c w) s = execSflush c w s := rfl
@[simp] theorem exec_hcfg (c : Chain) (h : BitVec 3) (b : Reg) (s : State) : exec (.hcfg c h b) s = execHcfg c h b s := rfl
@[simp] theorem exec_fmtset (c : Chain) (cfg : BitVec 5) (s : State) : exec (.fmtset c cfg) s = execFmtset c cfg s := rfl
@[simp] theorem exec_fmtsetRelease (c : Chain) (s : State) : exec (.fmtsetRelease c) s = execFmtsetRelease c s := rfl
@[simp] theorem exec_fmtrd (c : Chain) (a : Reg) (s : State) : exec (.fmtrd c a) s = execFmtrd c a s := rfl
@[simp] theorem exec_mma (c : Chain) (d : Tile) (n : BitVec 5) (s : State) : exec (.mma c d n) s = execMma c d n s := rfl
@[simp] theorem exec_mmat (c : Chain) (d : Tile) (t : Tile) (n : BitVec 5) (s0 : BitVec 4) (s : State) : exec (.mmat c d t n s0) s = execMmat c d t n s0 s := rfl
@[simp] theorem exec_mmasp (c : Chain) (d : Tile) (n : BitVec 5) (s : State) : exec (.mmasp c d n) s = execMmasp c d n s := rfl
@[simp] theorem exec_tzero (c : Chain) (t : Tile) (s : State) : exec (.tzero c t) s = execTzero c t s := rfl
@[simp] theorem exec_trd (c : Chain) (a : VReg) (t : Tile) (piece : BitVec 6) (s : State) : exec (.trd c a t piece) s = execTrd c a t piece s := rfl
@[simp] theorem exec_twr (c : Chain) (a : VReg) (t : Tile) (piece : BitVec 6) (s : State) : exec (.twr c a t piece) s = execTwr c a t piece s := rfl
@[simp] theorem exec_tld (c : Chain) (t : Tile) (b : Reg) (off : Word) (f : BitVec 2) (s : State) : exec (.tld c t b off f) s = execTld c t b off f s := rfl
@[simp] theorem exec_tst (c : Chain) (t : Tile) (b : Reg) (off : Word) (f : BitVec 2) (s : State) : exec (.tst c t b off f) s = execTst c t b off f s := rfl
@[simp] theorem exec_tstt (c : Chain) (t : Tile) (b : Reg) (off : Word) (f : BitVec 2) (s : State) : exec (.tstt c t b off f) s = execTstt c t b off f s := rfl
@[simp] theorem exec_qblk (c : Chain) (a : Reg) (t : Tile) (blk : BitVec 4) (s : State) : exec (.qblk c a t blk) s = execQblk c a t blk s := rfl
@[simp] theorem exec_vqnt (c : Chain) (a : VReg) (b : VReg) (k : RegC) (q : BitVec 2) (s : State) : exec (.vqnt c a b k q) s = execVqnt c a b k q s := rfl
@[simp] theorem exec_vdqnt (c : Chain) (a : VReg) (b : VReg) (k : RegC) (q : BitVec 2) (s : State) : exec (.vdqnt c a b k q) s = execVdqnt c a b k q s := rfl
@[simp] theorem exec_scpush (c : Chain) (a : Reg) (q : Bool) (s : State) : exec (.scpush c a q) s = execScpush c a q s := rfl
@[simp] theorem exec_rgrow (c : Chain) (w : Tile) (t : Tile) (b : Reg) (off : Word) (s : State) : exec (.rgrow c w t b off) s = execRgrow c w t b off s := rfl
@[simp] theorem exec_msync (c : Chain) (s : State) : exec (.msync c) s = execMsync c s := rfl
@[simp] theorem exec_tqadd (c : Chain) (a : Reg) (s : State) : exec (.tqadd c a) s = execTqadd c a s := rfl
@[simp] theorem exec_depadd (c : Chain) (a : Reg) (b : Reg) (s : State) : exec (.depadd c a b) s = execDepadd c a b s := rfl
@[simp] theorem exec_cancel (c : Chain) (a : Reg) (s : State) : exec (.cancel c a) s = execCancel c a s := rfl
@[simp] theorem exec_cbpush (c : Chain) (a : Reg) (b : Reg) (k : RegC) (s : State) : exec (.cbpush c a b k) s = execCbpush c a b k s := rfl
@[simp] theorem exec_cbseal (c : Chain) (s : State) : exec (.cbseal c) s = execCbseal c s := rfl
@[simp] theorem exec_cbnext (c : Chain) (a : Reg) (s : State) : exec (.cbnext c a) s = execCbnext c a s := rfl
@[simp] theorem exec_cbdone (c : Chain) (a : Reg) (s : State) : exec (.cbdone c a) s = execCbdone c a s := rfl
@[simp] theorem exec_mcst (c : Chain) (a : VReg) (b : Reg) (k : RegC) (off : Word) (rel : Bool) (s : State) : exec (.mcst c a b k off rel) s = execMcst c a b k off rel s := rfl
@[simp] theorem exec_mcwait (c : Chain) (a : Reg) (s : State) : exec (.mcwait c a) s = execMcwait c a s := rfl
@[simp] theorem exec_ffence (c : Chain) (a : Reg) (b : Reg) (off : Word) (s : State) : exec (.ffence c a b off) s = execFfence c a b off s := rfl
@[simp] theorem exec_eret (c : Chain) (s : State) : exec (.eret c) s = execEret c s := rfl
@[simp] theorem exec_eretNext (c : Chain) (s : State) : exec (.eretNext c) s = execEretNext c s := rfl
@[simp] theorem exec_svc (c : Chain) (n : BitVec 10) (s : State) : exec (.svc c n) s = execSvc c n s := rfl
@[simp] theorem exec_tlbinvVa (c : Chain) (a : Reg) (s : State) : exec (.tlbinvVa c a) s = execTlbinvVa c a s := rfl
@[simp] theorem exec_tlbinvCtx (c : Chain) (s : State) : exec (.tlbinvCtx c) s = execTlbinvCtx c s := rfl
@[simp] theorem exec_tlbinvReg (c : Chain) (a : Reg) (s : State) : exec (.tlbinvReg c a) s = execTlbinvReg c a s := rfl
@[simp] theorem exec_notificationRecord (n : Note) (s : State) : exec (.notificationRecord n) s = execNotificationRecord n s := rfl
@[simp] theorem exec_supervisorAction (ctx : Nat) (k : Nat) (s : State) : exec (.supervisorAction ctx k) s = execSupervisorAction ctx k s := rfl
@[simp] theorem exec_futureComplete (ctx : Nat) (idx : Nat) (s : State) : exec (.futureComplete ctx idx) s = execFutureComplete ctx idx s := rfl
@[simp] theorem exec_gangSpill (gang : Nat) (why : SpillWhy) (s : State) : exec (.gangSpill gang why) s = execGangSpill gang why s := rfl
@[simp] theorem exec_gangRestore (gang : Nat) (s : State) : exec (.gangRestore gang) s = execGangRestore gang s := rfl
@[simp] theorem exec_threadLoadComplete (slot : Nat) (s : State) : exec (.threadLoadComplete slot) s = execThreadLoadComplete slot s := rfl
@[simp] theorem exec_accessReply (slot : Nat) (a : Answer) (s : State) : exec (.accessReply slot a) s = execAccessReply slot a s := rfl
@[simp] theorem exec_endDrainComplete (slot : Nat) (s : State) : exec (.endDrainComplete slot) s = execEndDrainComplete slot s := rfl
@[simp] theorem exec_tlbWalkComplete (slot : Nat) (va : Word) (s : State) : exec (.tlbWalkComplete slot va) s = execTlbWalkComplete slot va s := rfl
@[simp] theorem exec_homeRequest (core : Nat) (grain : GrainRef) (write : Bool) (s : State) : exec (.homeRequest core grain write) s = execHomeRequest core grain write s := rfl
@[simp] theorem exec_retryTimerExpire (core : Nat) (grain : GrainRef) (s : State) : exec (.retryTimerExpire core grain) s = execRetryTimerExpire core grain s := rfl
@[simp] theorem exec_fillArrive (core : Nat) (grain : Nat) (s : State) : exec (.fillArrive core grain) s = execFillArrive core grain s := rfl
@[simp] theorem exec_invalidationArrive (cluster : Nat) (grain : Nat) (s : State) : exec (.invalidationArrive cluster grain) s = execInvalidationArrive cluster grain s := rfl
@[simp] theorem exec_invalidationAck (cluster : Nat) (grain : Nat) (s : State) : exec (.invalidationAck cluster grain) s = execInvalidationAck cluster grain s := rfl
@[simp] theorem exec_stampedStoreHome (r : StampedStore) (s : State) : exec (.stampedStoreHome r) s = execStampedStoreHome r s := rfl
@[simp] theorem exec_weirlimExpire (slot : Nat) (s : State) : exec (.weirlimExpire slot) s = execWeirlimExpire slot s := rfl
@[simp] theorem exec_rmwAtHome (r : RmwReq) (s : State) : exec (.rmwAtHome r) s = execRmwAtHome r s := rfl
@[simp] theorem exec_rupdApply (r : RupdReq) (s : State) : exec (.rupdApply r) s = execRupdApply r s := rfl
@[simp] theorem exec_lossNotice (holder : Nat) (rid : Nat) (s : State) : exec (.lossNotice holder rid) s = execLossNotice holder rid s := rfl
@[simp] theorem exec_waitrTimeout (slot : Nat) (s : State) : exec (.waitrTimeout slot) s = execWaitrTimeout slot s := rfl
@[simp] theorem exec_rillAccept (r : RillSeed) (s : State) : exec (.rillAccept r) s = execRillAccept r s := rfl
@[simp] theorem exec_rillMigrate (slot : Nat) (slice : Nat) (s : State) : exec (.rillMigrate slot slice) s = execRillMigrate slot slice s := rfl
@[simp] theorem exec_copyComplete (slot : Nat) (cause : BitVec 8) (addr : Word) (s : State) : exec (.copyComplete slot cause addr) s = execCopyComplete slot cause addr s := rfl
@[simp] theorem exec_mmaAccept (core : Nat) (s : State) : exec (.mmaAccept core) s = execMmaAccept core s := rfl
@[simp] theorem exec_mmaTileWrite (core : Nat) (s : State) : exec (.mmaTileWrite core) s = execMmaTileWrite core s := rfl
@[simp] theorem exec_launchParse (k : Nat) (s : State) : exec (.launchParse k) s = execLaunchParse k s := rfl
@[simp] theorem exec_launchSweep (k : Nat) (s : State) : exec (.launchSweep k) s = execLaunchSweep k s := rfl
@[simp] theorem exec_taskAdmit (cluster : Nat) (s : State) : exec (.taskAdmit cluster) s = execTaskAdmit cluster s := rfl
@[simp] theorem exec_deficitCharge (gang : Nat) (s : State) : exec (.deficitCharge gang) s = execDeficitCharge gang s := rfl
@[simp] theorem exec_reservationStart (cluster : Nat) (tenant : Nat) (s : State) : exec (.reservationStart cluster tenant) s = execReservationStart cluster tenant s := rfl
@[simp] theorem exec_workSteal (cluster : Nat) (s : State) : exec (.workSteal cluster) s = execWorkSteal cluster s := rfl
@[simp] theorem exec_coreContextScrub (core : Nat) (ctx : Nat) (s : State) : exec (.coreContextScrub core ctx) s = execCoreContextScrub core ctx s := rfl
@[simp] theorem exec_hostSnoop (port : Port) (grain : Nat) (s : State) : exec (.hostSnoop port grain) s = execHostSnoop port grain s := rfl
@[simp] theorem exec_hostAccess (r : HostOp) (s : State) : exec (.hostAccess r) s = execHostAccess r s := rfl
@[simp] theorem exec_backInvalidationAnswer (port : Port) (grain : Nat) (s : State) : exec (.backInvalidationAnswer port grain) s = execBackInvalidationAnswer port grain s := rfl
@[simp] theorem exec_completionTimeout (slot : Nat) (s : State) : exec (.completionTimeout slot) s = execCompletionTimeout slot s := rfl
@[simp] theorem exec_linkDown (port : Port) (s : State) : exec (.linkDown port) s = execLinkDown port s := rfl
@[simp] theorem exec_peerRequest (r : PeerReq) (s : State) : exec (.peerRequest r) s = execPeerRequest r s := rfl
@[simp] theorem exec_peerStoreRefused (slot : Nat) (va : Word) (peer : BitVec 12) (s : State) : exec (.peerStoreRefused slot va peer) s = execPeerStoreRefused slot va peer s := rfl
@[simp] theorem exec_peerTableUpdate (peer : BitVec 12) (inc : BitVec 8) (up : Bool) (s : State) : exec (.peerTableUpdate peer inc up) s = execPeerTableUpdate peer inc up s := rfl
@[simp] theorem exec_mcstAnswer (slot : Nat) (pos : List Nat) (neg : List Nat) (s : State) : exec (.mcstAnswer slot pos neg) s = execMcstAnswer slot pos neg s := rfl
@[simp] theorem exec_coldReset (s : State) : exec (.coldReset) s = execColdReset s := rfl
@[simp] theorem exec_measurementExtend (die : Nat) (reg : Nat) (digest : BitVec 512) (s : State) : exec (.measurementExtend die reg digest) s = execMeasurementExtend die reg digest s := rfl
@[simp] theorem exec_attestationRequest (nonce : BitVec 512) (s : State) : exec (.attestationRequest nonce) s = execAttestationRequest nonce s := rfl
@[simp] theorem exec_auditAppend (kind : Nat) (payload : BitVec 384) (s : State) : exec (.auditAppend kind payload) s = execAuditAppend kind payload s := rfl
@[simp] theorem exec_selfTestVerdict (u : TestUnit) (pass : Bool) (s : State) : exec (.selfTestVerdict u pass) s = execSelfTestVerdict u pass s := rfl
@[simp] theorem exec_contextCreate (k : Nat) (s : State) : exec (.contextCreate k) s = execContextCreate k s := rfl
@[simp] theorem exec_contextRelease (k : Nat) (s : State) : exec (.contextRelease k) s = execContextRelease k s := rfl
@[simp] theorem exec_scrubComplete (ctx : Nat) (scope : Nat) (num : Nat) (s : State) : exec (.scrubComplete ctx scope num) s = execScrubComplete ctx scope num s := rfl
@[simp] theorem exec_frequencyChange (die : Nat) (mhz : Nat) (s : State) : exec (.frequencyChange die mhz) s = execFrequencyChange die mhz s := rfl
@[simp] theorem exec_managementRegisterWrite (w : MgmtWrite) (s : State) : exec (.managementRegisterWrite w) s = execManagementRegisterWrite w s := rfl
@[simp] theorem exec_hostLinkUp (port : Port) (s : State) : exec (.hostLinkUp port) s = execHostLinkUp port s := rfl

end Sys2Proof.Machine
end

