-- ==== Sys2Proof/Laws/Fields.lean ====
section
/-!
SUPPORT. What reads and writes of register fields do, what the shared register forms do, where transfers may go, and what
a change of the caches alone leaves of a result.
-/
set_option linter.unusedSimpArgs false

namespace Sys2Proof.Machine

/-! Register fields and the shared forms. -/

/-- A field that may be read has an entry to pop, if it pops (R64, R66). -/
theorem flume_ne_nil_of_usable {a : Reg} {us vs} {s : State} (h : s.usable us vs = true) (hm : Use.rd a ∈ us) : a = 126 → s.cpu.flume ≠ [] := by
  rintro rfl hf
  have := usable_pops h
  rw [hf] at this
  have h1 : 0 < us.countP Use.pops := List.countP_pos_iff.mpr ⟨_, hm, by decide⟩
  simp only [List.length_nil] at this; omega

/-- Register c never names a port. -/
theorem popped_wide (s : State) (k) : s.popped (wide k) = s := by
    have : (wide k == 126) = false := by simpa using wide_ne_126 k
    simp only [State.popped, this]; rfl

/-- Nor does what it reads depend on an earlier pop. -/
theorem source_popped_wide (s : State) (b k) : (s.popped b).source (wide k) = s.source (wide k) := by
    have : (wide k == 126) = false := by simpa using wide_ne_126 k
    unfold State.popped; split
    · simp only [State.source, this, Thread.reg]; rfl
    · rfl

/-- A field that is not g126 pops nothing (R64). -/
theorem popped_of_ne (s : State) {a : Reg} (h : a ≠ 126) : s.popped a = s := by
    have : (a == 126) = false := by simpa using h
    simp only [State.popped, this]; rfl

/-- Where the first field does not pop, two reads are one after the other. -/
theorem sources_of_ne (s : State) {a b : Reg} (h : a ≠ 126) : s.sources a b = (s.source a, s.source b) := by
    have h1 : (a == 126) = false := by simpa using h
    simp only [State.sources, popped_of_ne s h, h1, Bool.false_and]; rfl

theorem popped2_of_ne (s : State) {a b : Reg} (h : a ≠ 126) : s.popped2 a b = s.popped b := by
    have h1 : (a == 126) = false := by simpa using h
    simp only [State.popped2, popped_of_ne s h, h1, Bool.false_and]

/-- All that a two-source register form does when its operands are usable (R79). -/
theorem binary_ok (i : Instr) (c : Chain) (a b : Reg) (k : RegC) (op : Word → Word → Word) (s : State)
   (hg : guardOn c s.cpu.p = true) (hu : s.usable (uses2 c a b k) [] = true) :
   binary i c a b k op s = .next ((s.popped b).result i a (if c.hasXR then op (s.source b) (s.source (wide k)) else op (s.source a) (s.source b))) := by
  refine runChain_ok hg ?_
  simp only [exec_bind, gate_ok (Or.inr rfl) (level_any _), checkUses_ok hu, done_ok]
  unfold sources2
  cases hx : c.hasXR with
  | true =>
    simp only [hx, uses2, if_true] at hu
    have hb := flume_ne_nil_of_usable (a := b) hu (by simp)
    have hk : (wide k) = 126 → (s.popped b).cpu.flume ≠ [] := fun h => absurd h (wide_ne_126 k)
    have hgk : (wide k).toNat ∉ (s.popped b).cpu.badG := by rw [popped_badG]; exact usable_rd hu (by simp)
    simp only [if_true, exec_bind, readG_ok hb (usable_rd hu (by simp)), readG_ok hk hgk, exec_pure, writeG_ok, source_popped_wide, popped_wide]; rfl
  | false =>
    simp only [hx, uses2, Bool.false_eq_true, if_false] at hu
    have hb := flume_ne_nil_of_usable (a := b) hu (by simp)
    obtain ⟨ha1, ha2⟩ := usable_rw hu (by simp : Use.rw a ∈ _)
    simp only [Bool.false_eq_true, if_false, readG2_ok (fun h => absurd h ha1) (by rw [popped_of_ne s ha1]; exact hb) (usable_rwGood hu (by simp)) (usable_rd hu (by simp)), writeG_ok]
    rw [sources_of_ne s ha1, popped2_of_ne s ha1]; rfl

/-- All that a one-source register form does. -/
theorem unary_ok (i : Instr) (c : Chain) (a b : Reg) (op : Word → Word) (s : State)
   (hg : guardOn c s.cpu.p = true) (hu : s.usable [.wr a, .rd b] [] = true) :
   unary i c a b op s = .next ((s.popped b).result i a (op (s.source b))) := by
  refine runChain_ok hg ?_
  have hb := flume_ne_nil_of_usable (a := b) hu (by simp)
  simp only [exec_bind, gate_ok (Or.inr rfl) (level_any _), checkUses_ok hu, done_ok, readG_ok hb (usable_rd hu (by simp)), writeG_ok]; rfl

/-- All that a register form with an immediate does. -/
theorem immediate_ok (i : Instr) (c : Chain) (a : Reg) (op : Word → Word) (s : State)
   (hg : guardOn c s.cpu.p = true) (hu : s.usable [.rw a] [] = true) :
   immediate i c a op s = .next (s.result i a (op (s.source a))) := by
  refine runChain_ok hg ?_
  obtain ⟨ha1, ha2⟩ := usable_rw hu (by simp : Use.rw a ∈ _)
  simp only [exec_bind, gate_ok (Or.inr rfl) (level_any _), checkUses_ok hu, done_ok, readG_ok (fun h => absurd h ha1) (usable_rwGood hu (by simp)), writeG_ok, popped_of_ne s ha1]
  rfl

/-! Transfers. -/

/-- A legal target passes (R37). -/
theorem checkTarget_ok {t : Word} {s : State} (h : legalTarget t = true) : checkTarget t s = .ok ((), s) := by
  simp only [legalTarget, Bool.and_eq_true, decide_eq_true_eq] at h
  have h1 : t.getLsbD 0 = false := by simpa using h.1
  have h2 : decide (t.toNat ≥ Config.vaEnd) = false := by simp [Config.vaEnd]; omega
  simp only [checkTarget, exec_bind, trapIf_ok h1, trapIf_ok h2]

/-- An illegal target traps ALIGN before PROT (R37). -/
theorem checkTarget_bad {t : Word} {s : State} (h : legalTarget t = false) : checkTarget t s = .error (.trap (if t.getLsbD 0 then Cause.align else Cause.prot) t 0) := by
  simp only [legalTarget, Bool.and_eq_false_iff, decide_eq_false_iff_not] at h
  cases h1 : t.getLsbD 0 with
  | true => simp only [checkTarget, exec_bind, trapIf_error h1]; rfl
  | false => 
    have h2 : decide (t.toNat ≥ Config.vaEnd) = true := by
      rcases h with h | h
      · rw [h1] at h; cases h
      · simp [Config.vaEnd]; omega
    simp only [checkTarget, exec_bind, trapIf_ok h1, trapIf_error h2]; rfl

/-! States that differ in caches alone. -/

theorem onlyCaches_core {s t : State} (h : s.onlyCaches t) (k : Nat) :
    t.core k = { s.core k with windows := (t.core k).windows, streams := (t.core k).streams, micro := (t.core k).micro } := (h.2.1 k).1

/-- The same threads put into two states that differ in caches. -/
theorem onlyCaches_threads {s t : State} (h : s.onlyCaches t) (f : Thread) (l : List Thread) :
    ({ s with cpu := f, others := l } : State).onlyCaches { t with cpu := f, others := l } :=
  ⟨by rw [h.1], h.2⟩

theorem onlyCaches_setCpu {s t : State} (h : s.onlyCaches t) (f : Thread) : ({ s with cpu := f } : State).onlyCaches { t with cpu := f } :=
  ⟨by rw [h.1], h.2⟩

theorem onlyCaches_advance {s t : State} (h : s.onlyCaches t) (n : Nat) : (s.advance n).onlyCaches (t.advance n) := by
  unfold State.advance; rw [onlyCaches_cpu h]; exact onlyCaches_setCpu h _

theorem onlyCaches_putThread {s t : State} (h : s.onlyCaches t) (u : Thread) : (s.putThread u).onlyCaches (t.putThread u) := by
  unfold State.putThread; rw [onlyCaches_cpu h]
  have ho : t.others = s.others := by rw [h.1]
  split
  · exact onlyCaches_setCpu h _
  · exact ⟨by rw [h.1], h.2⟩

theorem onlyCaches_thread? {s t : State} (h : s.onlyCaches t) (u) : (t.thread? u) = s.thread? u := by
  unfold State.thread?; rw [onlyCaches_cpu h, h.1]

theorem onlyCaches_written {s t : State} (h : s.onlyCaches t) (a : Reg) (x : Word) : (s.written a x).onlyCaches (t.written a x) := by
  unfold State.written State.pushed
  rw [onlyCaches_cpu h, onlyCaches_thread? h]
  split
  · split
    · exact onlyCaches_putThread h _
    · exact h
  · exact onlyCaches_setCpu h _

theorem onlyCaches_acquired {s t : State} (h : s.onlyCaches t) (mm) : (s.acquired mm).onlyCaches (t.acquired mm) := by
  unfold State.acquired State.acquiredAt; rw [onlyCaches_cpu h]
  split
  · exact onlyCaches_setCpu h _
  · exact h

/-- Acquiring and advancing commute. -/
theorem acquired_advance (s : State) (n mm) : (s.advance n).acquired mm = (s.acquired mm).advance n := by
  unfold State.acquired
  split <;> rfl

/-- A scalar access that its page lets through meets no element rule. -/
theorem scalarRegion_plain {e : TlbEntry} {ea : Word} {w : Nat} {mode} {st} (h : plainAccess e ea w mode st = true) (x : Xlat) (hx : x.entry = e) (s : State) (va n):
  ∃ r, scalarRegion (x.place va n) ea w s = .ok (r, s) ∧ (r = none ∨ r = some e ∧ (st = true → mode ≠ 1 ∧ mode ≠ 2) ∧ (st = false → (mode == 2) = true → (decide (e.cls ≤ 1)) = false)) := by
  subst hx
  simp only [plainAccess, Bool.or_eq_true, Bool.and_eq_true, beq_iff_eq, decide_eq_true_eq] at h
  rcases h with h | h
  · refine ⟨none, ?_, Or.inl rfl⟩
    simp [scalarRegion, Xlat.place, Place.entry?, h]
  · obtain ⟨⟨⟨⟨⟨⟨h1, h2⟩, h3⟩, h4⟩, h5⟩, h6⟩, h7⟩ := h
    refine ⟨some x.entry, ?_, Or.inr ⟨rfl, ?_, ?_⟩⟩
    · have : (x.entry.home != 0 || decide (ea.toNat < x.entry.origin) || (ea.toNat - x.entry.origin) % x.entry.elemWidth != 0) = false := by simp [h3, h5]; omega
      simp only [scalarRegion, Xlat.place, Place.entry?, h1, h2]
      simp [exec_bind, exec_map, elemCheck, ← h2, h3, h5, exec_ite, Nat.not_lt.mpr h4]
    · rintro rfl; simp at h6 h7; exact ⟨h6, h7⟩
    · rintro rfl hm; simp at hm; simp [hm] at h7; simpa using h7

end Sys2Proof.Machine
end

