-- ==== Sys2Proof/Laws/Memory.lean ====
section
/-!
SUPPORT. Memory: a read after a write, and that every operation on it keeps the canonical form.
-/
namespace Sys2Proof.Machine

namespace Memory

/-! One byte. -/

@[simp] theorem lookup_nil (a : Nat) : lookup [] a = 0 := rfl

/-- An entered byte reads as entered. -/
theorem lookup_insert_same (m : List Host.Cell) (a : Nat) (b : Byte) (h : ∀ c ∈ m, c.1 ≠ a) : lookup (insert m a b) a = b := by
  induction m with
  | nil => simp [insert, lookup]
  | cons c rest ih =>
    obtain ⟨k, d⟩ := c
    simp only [insert]
    split
    · have : k ≠ a := by omega
      simp only [lookup, this, if_false]
      exact ih fun c hc => h c (List.mem_cons_of_mem _ hc)
    · simp [lookup]

theorem lookup_insert_ne (m : List Host.Cell) {a x : Nat} (b : Byte) (h : x ≠ a) : lookup (insert m a b) x = lookup m x := by
  have h' : a ≠ x := h.symm
  induction m with
  | nil => simp [insert, lookup, h']
  | cons c rest ih =>
    obtain ⟨k, d⟩ := c
    simp only [insert]
    split <;> simp [lookup, h', ih]

/-- A dropped cell reads as an unlisted byte, and any other as before. -/
theorem lookup_filter (m : List Host.Cell) (q : Nat → Bool) (a : Nat) : lookup (m.filter fun c => q c.1) a = if q a then lookup m a else 0 := by
  induction m with
  | nil => simp
  | cons c rest ih =>
    obtain ⟨j, d⟩ := c
    by_cases hq : q j = true
    · by_cases hj : j = a
      · subst hj; simp [List.filter, hq, lookup]
      · simp [List.filter, hq, lookup, hj, ih]
    · by_cases hj : j = a
      · subst hj; simp [List.filter, hq, ih]
      · simp [List.filter, hq, lookup, hj, ih]

/-- A written byte reads as written. -/
theorem lookup_write_same (m : List Host.Cell) (a : Nat) (b : Byte) : lookup (write m a b) a = b := by
  unfold write
  dsimp only
  split
  · next hb => rw [lookup_filter m (fun x => x != a)]; simp [hb]
  · exact lookup_insert_same _ a b fun c hc => by simpa using (List.mem_filter.mp hc).2

/-- A write leaves every other byte alone. -/
theorem lookup_write_ne (m : List Host.Cell) {a x : Nat} (b : Byte) (h : x ≠ a) : lookup (write m a b) x = lookup m x := by
  have hf : lookup (m.filter fun c => c.1 != a) x = lookup m x := by
    rw [lookup_filter m (fun x => x != a)]; simp [h]
  unfold write
  dsimp only
  split
  · exact hf
  · rw [lookup_insert_ne _ b h, hf]

theorem above_mono {m : List Host.Cell} {j k : Nat} (h : above k m = true) (hj : j ≤ k) : above j m = true := by
  cases m with
  | nil => rfl
  | cons c rest =>
    simp only [above, decide_eq_true_eq] at h ⊢
    omega

theorem above_filter {m : List Host.Cell} {k : Nat} (p : Host.Cell → Bool) (hw : wf m = true) (h : above k m = true) :
    above k (m.filter p) = true := by
  induction m with
  | nil => rfl
  | cons c rest ih =>
    obtain ⟨j, d⟩ := c
    simp only [wf, Bool.and_eq_true] at hw
    have hj : k < j := by simpa only [above, decide_eq_true_eq] using h
    simp only [List.filter]
    split
    · simp [above, hj]
    · exact ih hw.2 (above_mono hw.1.2 (by omega))

/-- Dropping cells (a scrub, a reset) keeps the canonical form. -/
theorem wf_filter {m : List Host.Cell} (p : Host.Cell → Bool) (hw : wf m = true) : wf (m.filter p) = true := by
  induction m with
  | nil => rfl
  | cons c rest ih =>
    obtain ⟨j, d⟩ := c
    simp only [wf, Bool.and_eq_true] at hw
    simp only [List.filter]
    split
    · simp only [wf, Bool.and_eq_true]; exact ⟨⟨hw.1.1, above_filter p hw.2 hw.1.2⟩, ih hw.2⟩
    · exact ih hw.2

theorem above_insert {m : List Host.Cell} {k a : Nat} (b : Byte) (h : above k m = true) (hk : k < a) : above k (insert m a b) = true := by
  cases m with
  | nil => simp [insert, above, hk]
  | cons c rest =>
    obtain ⟨j, d⟩ := c
    have hj : k < j := by simpa only [above, decide_eq_true_eq] using h
    simp only [insert]
    split <;> simp [above, hj, hk]

theorem wf_insert {m : List Host.Cell} (hw : wf m = true) {a : Nat} {b : Byte} (hb : b ≠ 0) (ha : ∀ c ∈ m, c.1 ≠ a) :
    wf (insert m a b) = true := by
  induction m with
  | nil => simpa [insert, wf, above] using hb
  | cons c rest ih =>
    obtain ⟨k, d⟩ := c
    have hw' := hw
    simp only [wf, Bool.and_eq_true] at hw'
    simp only [insert]
    split
    · next hk =>
      simp only [wf, Bool.and_eq_true]
      exact ⟨⟨hw'.1.1, above_insert b hw'.1.2 hk⟩, ih hw'.2 fun c hc => ha c (List.mem_cons_of_mem _ hc)⟩
    · next hk =>
      have h1 : k ≠ a := ha (k, d) (List.mem_cons_self ..)
      have : a < k := by omega
      rw [wf]
      simp only [Bool.and_eq_true]
      exact ⟨⟨by simpa using hb, by simp [above, this]⟩, hw⟩

/-- A write keeps the canonical form. -/
theorem wf_write {m : List Host.Cell} (hw : wf m = true) (a : Nat) (b : Byte) : wf (write m a b) = true := by
  unfold write
  dsimp only
  split
  · exact wf_filter _ hw
  · next hb => exact wf_insert (wf_filter _ hw) hb fun c hc => by simpa using (List.mem_filter.mp hc).2

/-! Many bytes. -/

theorem wf_writes {m : List Host.Cell} (hw : wf m = true) (a : Nat) (bs : List Byte) : wf (writes m a bs) = true := by
  induction bs generalizing m a with
  | nil => exact hw
  | cons b bs ih => exact ih (wf_write hw a b) (a + 1)

/-- Bytes outside those written read as before. -/
theorem lookup_writes_out (m : List Host.Cell) (a : Nat) (bs : List Byte) {x : Nat} (h : x < a ∨ a + bs.length ≤ x) :
    lookup (writes m a bs) x = lookup m x := by
  induction bs generalizing m a with
  | nil => rfl
  | cons b bs ih =>
    simp only [List.length_cons] at h
    simp only [writes]
    rw [ih _ _ (by omega), lookup_write_ne _ _ (by omega)]

/-- The written bytes read as written. -/
theorem lookup_writes_in (m : List Host.Cell) (a : Nat) (bs : List Byte) {j : Nat} (h : j < bs.length) :
    lookup (writes m a bs) (a + j) = bs[j] := by
  induction bs generalizing m a j with
  | nil => simp at h
  | cons b bs ih =>
    simp only [writes]
    cases j with
    | zero =>
      rw [lookup_writes_out _ _ _ (Or.inl (by omega))]
      exact lookup_write_same m a b
    | succ j =>
      have := ih (write m a b) (a + 1) (j := j) (by simpa using h)
      rw [show a + (j + 1) = a + 1 + j by omega, this]
      rfl

@[simp] theorem length_reads (m : List Host.Cell) (a n : Nat) : (reads m a n).length = n := by
  induction n generalizing a with
  | zero => rfl
  | succ n ih => simp [reads, ih]

/-- Two memories that agree on a range read the same there. -/
theorem reads_congr {m m' : List Host.Cell} {a n : Nat} (h : ∀ x, a ≤ x → x < a + n → lookup m x = lookup m' x) :
    reads m a n = reads m' a n := by
  induction n generalizing a with
  | zero => rfl
  | succ n ih =>
    simp only [reads]
    rw [h a (Nat.le_refl _) (by omega), ih fun x h1 h2 => h x (by omega) (by omega)]

/-- A read of what was just written. -/
theorem reads_writes (m : List Host.Cell) (a : Nat) (bs : List Byte) : reads (writes m a bs) a bs.length = bs := by
  induction bs generalizing m a with
  | nil => rfl
  | cons b bs ih =>
    simp only [writes, List.length_cons, reads]
    rw [ih (write m a b) (a + 1), lookup_writes_out _ _ _ (Or.inl (by omega)), lookup_write_same m a b]

end Memory

/-! Byte order (R25). -/

@[simp] theorem length_leBytes (n v : Nat) : (leBytes n v).length = n := by
  induction n generalizing v with
  | zero => rfl
  | succ n ih => simp [leBytes, ih]

theorem leNat_leBytes (n v : Nat) : leNat (leBytes n v) = v % 256 ^ n := by
  induction n generalizing v with
  | zero => simp [leBytes, leNat, Nat.mod_one]
  | succ n ih =>
    simp only [leBytes, leNat, ih, BitVec.toNat_ofNat]
    have h : v % 256 ^ (n + 1) = v % (256 * 256 ^ n) := by rw [Nat.pow_succ, Nat.mul_comm]
    rw [h, Nat.mod_mul]

theorem leNat_lt (bs : List Byte) : leNat bs < 256 ^ bs.length := by
  induction bs with
  | nil => simp [leNat]
  | cons b bs ih =>
    have : b.toNat < 256 := b.isLt
    simp only [leNat, List.length_cons, Nat.pow_succ]
    omega

/-! The state's memory. -/

theorem memOk_reset : State.reset.memOk := rfl

/-- A write at its home keeps the canonical form. -/
theorem memOk_homeWrite {s : State} (h : s.memOk) (a : Nat) (bs : List Byte) : (s.homeWrite a bs).memOk := Memory.wf_writes h a bs

theorem memOk_poke {s : State} (h : s.memOk) (a n v : Nat) : (s.poke a n v).memOk := memOk_homeWrite h a _

theorem memOk_putBytes {s : State} (h : s.memOk) (a : Nat) (bs : List Byte) : (s.putBytes a bs).memOk := Memory.wf_writes h a bs

theorem memOk_writeFrom {s : State} (h : s.memOk) (d a : Nat) (bs : List Byte) : (s.writeFrom d a bs).memOk := memOk_homeWrite h a bs

theorem memOk_withdraw {s : State} (h : s.memOk) (a n : Nat) : (s.withdraw a n).memOk := h

/-- Updates that do not touch memory keep its form. -/
theorem memOk_of_mem {s t : State} (h : s.memOk) (e : t.mem = s.mem) : t.memOk := by
  unfold State.memOk; rw [e]; exact h

/-- A number poked at a home is peeked there, as far as its bytes hold it. -/
theorem peek_poke (s : State) (a n v : Nat) : (s.poke a n v).peek a n = v % 256 ^ n := by
  have e := Memory.reads_writes s.mem a (leBytes n v)
  rw [length_leBytes] at e
  show leNat (Memory.reads (Memory.writes s.mem a (leBytes n v)) a n) = _
  rw [e, leNat_leBytes]

/-- Numbers elsewhere are peeked as before. -/
theorem peek_poke_out (s : State) (a n v : Nat) {b k : Nat} (h : b + k ≤ a ∨ a + n ≤ b) : (s.poke a n v).peek b k = s.peek b k := by
  show leNat (Memory.reads (Memory.writes s.mem a (leBytes n v)) b k) = leNat (Memory.reads s.mem b k)
  rw [Memory.reads_congr]
  intro x h1 h2
  apply Memory.lookup_writes_out
  rw [length_leBytes]
  omega

end Sys2Proof.Machine
end

