-- ==== Sys2Proof/Laws/State.lean ====
section
/-!
SUPPORT. What each update of the state leaves as it is: one lemma for each field and update, so that no proof unfolds a
record update.
-/
namespace Sys2Proof.Machine

/-! The pc moves past an instruction (R26): only the current thread changes. -/

@[simp] theorem State.advance_others (s : State) (n : Nat) : (s.advance n).others = s.others := rfl
@[simp] theorem State.advance_cores (s : State) (n : Nat) : (s.advance n).cores = s.cores := rfl
@[simp] theorem State.advance_sliceCycles (s : State) (n : Nat) : (s.advance n).sliceCycles = s.sliceCycles := rfl
@[simp] theorem State.advance_contexts (s : State) (n : Nat) : (s.advance n).contexts = s.contexts := rfl
@[simp] theorem State.advance_mem (s : State) (n : Nat) : (s.advance n).mem = s.mem := rfl
@[simp] theorem State.advance_bad (s : State) (n : Nat) : (s.advance n).bad = s.bad := rfl
@[simp] theorem State.advance_stamps (s : State) (n : Nat) : (s.advance n).stamps = s.stamps := rfl
@[simp] theorem State.advance_discards (s : State) (n : Nat) : (s.advance n).discards = s.discards := rfl
@[simp] theorem State.advance_resvs (s : State) (n : Nat) : (s.advance n).resvs = s.resvs := rfl
@[simp] theorem State.advance_nextRid (s : State) (n : Nat) : (s.advance n).nextRid = s.nextRid := rfl
@[simp] theorem State.advance_weir (s : State) (n : Nat) : (s.advance n).weir = s.weir := rfl
@[simp] theorem State.advance_tlb (s : State) (n : Nat) : (s.advance n).tlb = s.tlb := rfl
@[simp] theorem State.advance_used (s : State) (n : Nat) : (s.advance n).used = s.used := rfl
@[simp] theorem State.advance_copies (s : State) (n : Nat) : (s.advance n).copies = s.copies := rfl
@[simp] theorem State.advance_dirs (s : State) (n : Nat) : (s.advance n).dirs = s.dirs := rfl
@[simp] theorem State.advance_fills (s : State) (n : Nat) : (s.advance n).fills = s.fills := rfl
@[simp] theorem State.advance_invals (s : State) (n : Nat) : (s.advance n).invals = s.invals := rfl
@[simp] theorem State.advance_lastInval (s : State) (n : Nat) : (s.advance n).lastInval = s.lastInval := rfl
@[simp] theorem State.advance_refused (s : State) (n : Nat) : (s.advance n).refused = s.refused := rfl
@[simp] theorem State.advance_tracked (s : State) (n : Nat) : (s.advance n).tracked = s.tracked := rfl
@[simp] theorem State.advance_l2 (s : State) (n : Nat) : (s.advance n).l2 = s.l2 := rfl
@[simp] theorem State.advance_storeClock (s : State) (n : Nat) : (s.advance n).storeClock = s.storeClock := rfl
@[simp] theorem State.advance_stampWrites (s : State) (n : Nat) : (s.advance n).stampWrites = s.stampWrites := rfl
@[simp] theorem State.advance_gangs (s : State) (n : Nat) : (s.advance n).gangs = s.gangs := rfl
@[simp] theorem State.advance_nextGang (s : State) (n : Nat) : (s.advance n).nextGang = s.nextGang := rfl
@[simp] theorem State.advance_launches (s : State) (n : Nat) : (s.advance n).launches = s.launches := rfl
@[simp] theorem State.advance_queues (s : State) (n : Nat) : (s.advance n).queues = s.queues := rfl
@[simp] theorem State.advance_clupart (s : State) (n : Nat) : (s.advance n).clupart = s.clupart := rfl
@[simp] theorem State.advance_tencfg (s : State) (n : Nat) : (s.advance n).tencfg = s.tencfg := rfl
@[simp] theorem State.advance_deficits (s : State) (n : Nat) : (s.advance n).deficits = s.deficits := rfl
@[simp] theorem State.advance_served (s : State) (n : Nat) : (s.advance n).served = s.served := rfl
@[simp] theorem State.advance_holds (s : State) (n : Nat) : (s.advance n).holds = s.holds := rfl
@[simp] theorem State.advance_cancels (s : State) (n : Nat) : (s.advance n).cancels = s.cancels := rfl
@[simp] theorem State.advance_sweeps (s : State) (n : Nat) : (s.advance n).sweeps = s.sweeps := rfl
@[simp] theorem State.advance_portA (s : State) (n : Nat) : (s.advance n).portA = s.portA := rfl
@[simp] theorem State.advance_portB (s : State) (n : Nat) : (s.advance n).portB = s.portB := rfl
@[simp] theorem State.advance_selfNum (s : State) (n : Nat) : (s.advance n).selfNum = s.selfNum := rfl
@[simp] theorem State.advance_selfInc (s : State) (n : Nat) : (s.advance n).selfInc = s.selfInc := rfl
@[simp] theorem State.advance_peers (s : State) (n : Nat) : (s.advance n).peers = s.peers := rfl
@[simp] theorem State.advance_owedStores (s : State) (n : Nat) : (s.advance n).owedStores = s.owedStores := rfl
@[simp] theorem State.advance_exports (s : State) (n : Nat) : (s.advance n).exports = s.exports := rfl
@[simp] theorem State.advance_grants (s : State) (n : Nat) : (s.advance n).grants = s.grants := rfl
@[simp] theorem State.advance_groups (s : State) (n : Nat) : (s.advance n).groups = s.groups := rfl
@[simp] theorem State.advance_island (s : State) (n : Nat) : (s.advance n).island = s.island := rfl
@[simp] theorem State.advance_retired (s : State) (n : Nat) : (s.advance n).retired = s.retired := rfl
@[simp] theorem State.advance_failing (s : State) (n : Nat) : (s.advance n).failing = s.failing := rfl
@[simp] theorem State.advance_halting (s : State) (n : Nat) : (s.advance n).halting = s.halting := rfl
@[simp] theorem State.advance_records (s : State) (n : Nat) : (s.advance n).records = s.records := rfl
@[simp] theorem State.advance_events (s : State) (n : Nat) : (s.advance n).events = s.events := rfl
@[simp] theorem State.advance_picks (s : State) (n : Nat) : (s.advance n).picks = s.picks := rfl
@[simp] theorem State.advance_turn (s : State) (n : Nat) : (s.advance n).turn = s.turn := rfl
@[simp] theorem State.advance_free (s : State) (n : Nat) : (s.advance n).free = s.free := rfl
@[simp] theorem State.advance_answers (s : State) (n : Nat) : (s.advance n).answers = s.answers := rfl

/-! A transfer (R37): only the current thread changes. -/

@[simp] theorem State.goneTo_others (s : State) (t : Word) : (s.goneTo t).others = s.others := rfl
@[simp] theorem State.goneTo_cores (s : State) (t : Word) : (s.goneTo t).cores = s.cores := rfl
@[simp] theorem State.goneTo_sliceCycles (s : State) (t : Word) : (s.goneTo t).sliceCycles = s.sliceCycles := rfl
@[simp] theorem State.goneTo_contexts (s : State) (t : Word) : (s.goneTo t).contexts = s.contexts := rfl
@[simp] theorem State.goneTo_mem (s : State) (t : Word) : (s.goneTo t).mem = s.mem := rfl
@[simp] theorem State.goneTo_bad (s : State) (t : Word) : (s.goneTo t).bad = s.bad := rfl
@[simp] theorem State.goneTo_stamps (s : State) (t : Word) : (s.goneTo t).stamps = s.stamps := rfl
@[simp] theorem State.goneTo_discards (s : State) (t : Word) : (s.goneTo t).discards = s.discards := rfl
@[simp] theorem State.goneTo_resvs (s : State) (t : Word) : (s.goneTo t).resvs = s.resvs := rfl
@[simp] theorem State.goneTo_nextRid (s : State) (t : Word) : (s.goneTo t).nextRid = s.nextRid := rfl
@[simp] theorem State.goneTo_weir (s : State) (t : Word) : (s.goneTo t).weir = s.weir := rfl
@[simp] theorem State.goneTo_tlb (s : State) (t : Word) : (s.goneTo t).tlb = s.tlb := rfl
@[simp] theorem State.goneTo_used (s : State) (t : Word) : (s.goneTo t).used = s.used := rfl
@[simp] theorem State.goneTo_copies (s : State) (t : Word) : (s.goneTo t).copies = s.copies := rfl
@[simp] theorem State.goneTo_dirs (s : State) (t : Word) : (s.goneTo t).dirs = s.dirs := rfl
@[simp] theorem State.goneTo_fills (s : State) (t : Word) : (s.goneTo t).fills = s.fills := rfl
@[simp] theorem State.goneTo_invals (s : State) (t : Word) : (s.goneTo t).invals = s.invals := rfl
@[simp] theorem State.goneTo_lastInval (s : State) (t : Word) : (s.goneTo t).lastInval = s.lastInval := rfl
@[simp] theorem State.goneTo_refused (s : State) (t : Word) : (s.goneTo t).refused = s.refused := rfl
@[simp] theorem State.goneTo_tracked (s : State) (t : Word) : (s.goneTo t).tracked = s.tracked := rfl
@[simp] theorem State.goneTo_l2 (s : State) (t : Word) : (s.goneTo t).l2 = s.l2 := rfl
@[simp] theorem State.goneTo_storeClock (s : State) (t : Word) : (s.goneTo t).storeClock = s.storeClock := rfl
@[simp] theorem State.goneTo_stampWrites (s : State) (t : Word) : (s.goneTo t).stampWrites = s.stampWrites := rfl
@[simp] theorem State.goneTo_gangs (s : State) (t : Word) : (s.goneTo t).gangs = s.gangs := rfl
@[simp] theorem State.goneTo_nextGang (s : State) (t : Word) : (s.goneTo t).nextGang = s.nextGang := rfl
@[simp] theorem State.goneTo_launches (s : State) (t : Word) : (s.goneTo t).launches = s.launches := rfl
@[simp] theorem State.goneTo_queues (s : State) (t : Word) : (s.goneTo t).queues = s.queues := rfl
@[simp] theorem State.goneTo_clupart (s : State) (t : Word) : (s.goneTo t).clupart = s.clupart := rfl
@[simp] theorem State.goneTo_tencfg (s : State) (t : Word) : (s.goneTo t).tencfg = s.tencfg := rfl
@[simp] theorem State.goneTo_deficits (s : State) (t : Word) : (s.goneTo t).deficits = s.deficits := rfl
@[simp] theorem State.goneTo_served (s : State) (t : Word) : (s.goneTo t).served = s.served := rfl
@[simp] theorem State.goneTo_holds (s : State) (t : Word) : (s.goneTo t).holds = s.holds := rfl
@[simp] theorem State.goneTo_cancels (s : State) (t : Word) : (s.goneTo t).cancels = s.cancels := rfl
@[simp] theorem State.goneTo_sweeps (s : State) (t : Word) : (s.goneTo t).sweeps = s.sweeps := rfl
@[simp] theorem State.goneTo_portA (s : State) (t : Word) : (s.goneTo t).portA = s.portA := rfl
@[simp] theorem State.goneTo_portB (s : State) (t : Word) : (s.goneTo t).portB = s.portB := rfl
@[simp] theorem State.goneTo_selfNum (s : State) (t : Word) : (s.goneTo t).selfNum = s.selfNum := rfl
@[simp] theorem State.goneTo_selfInc (s : State) (t : Word) : (s.goneTo t).selfInc = s.selfInc := rfl
@[simp] theorem State.goneTo_peers (s : State) (t : Word) : (s.goneTo t).peers = s.peers := rfl
@[simp] theorem State.goneTo_owedStores (s : State) (t : Word) : (s.goneTo t).owedStores = s.owedStores := rfl
@[simp] theorem State.goneTo_exports (s : State) (t : Word) : (s.goneTo t).exports = s.exports := rfl
@[simp] theorem State.goneTo_grants (s : State) (t : Word) : (s.goneTo t).grants = s.grants := rfl
@[simp] theorem State.goneTo_groups (s : State) (t : Word) : (s.goneTo t).groups = s.groups := rfl
@[simp] theorem State.goneTo_island (s : State) (t : Word) : (s.goneTo t).island = s.island := rfl
@[simp] theorem State.goneTo_retired (s : State) (t : Word) : (s.goneTo t).retired = s.retired := rfl
@[simp] theorem State.goneTo_failing (s : State) (t : Word) : (s.goneTo t).failing = s.failing := rfl
@[simp] theorem State.goneTo_halting (s : State) (t : Word) : (s.goneTo t).halting = s.halting := rfl
@[simp] theorem State.goneTo_records (s : State) (t : Word) : (s.goneTo t).records = s.records := rfl
@[simp] theorem State.goneTo_events (s : State) (t : Word) : (s.goneTo t).events = s.events := rfl
@[simp] theorem State.goneTo_picks (s : State) (t : Word) : (s.goneTo t).picks = s.picks := rfl
@[simp] theorem State.goneTo_turn (s : State) (t : Word) : (s.goneTo t).turn = s.turn := rfl
@[simp] theorem State.goneTo_free (s : State) (t : Word) : (s.goneTo t).free = s.free := rfl
@[simp] theorem State.goneTo_answers (s : State) (t : Word) : (s.goneTo t).answers = s.answers := rfl

/-! Sticky flags (R97): only the current thread changes. -/

@[simp] theorem State.raised_others (s : State) (f : Flags) : (s.raised f).others = s.others := rfl
@[simp] theorem State.raised_cores (s : State) (f : Flags) : (s.raised f).cores = s.cores := rfl
@[simp] theorem State.raised_sliceCycles (s : State) (f : Flags) : (s.raised f).sliceCycles = s.sliceCycles := rfl
@[simp] theorem State.raised_contexts (s : State) (f : Flags) : (s.raised f).contexts = s.contexts := rfl
@[simp] theorem State.raised_mem (s : State) (f : Flags) : (s.raised f).mem = s.mem := rfl
@[simp] theorem State.raised_bad (s : State) (f : Flags) : (s.raised f).bad = s.bad := rfl
@[simp] theorem State.raised_stamps (s : State) (f : Flags) : (s.raised f).stamps = s.stamps := rfl
@[simp] theorem State.raised_discards (s : State) (f : Flags) : (s.raised f).discards = s.discards := rfl
@[simp] theorem State.raised_resvs (s : State) (f : Flags) : (s.raised f).resvs = s.resvs := rfl
@[simp] theorem State.raised_nextRid (s : State) (f : Flags) : (s.raised f).nextRid = s.nextRid := rfl
@[simp] theorem State.raised_weir (s : State) (f : Flags) : (s.raised f).weir = s.weir := rfl
@[simp] theorem State.raised_tlb (s : State) (f : Flags) : (s.raised f).tlb = s.tlb := rfl
@[simp] theorem State.raised_used (s : State) (f : Flags) : (s.raised f).used = s.used := rfl
@[simp] theorem State.raised_copies (s : State) (f : Flags) : (s.raised f).copies = s.copies := rfl
@[simp] theorem State.raised_dirs (s : State) (f : Flags) : (s.raised f).dirs = s.dirs := rfl
@[simp] theorem State.raised_fills (s : State) (f : Flags) : (s.raised f).fills = s.fills := rfl
@[simp] theorem State.raised_invals (s : State) (f : Flags) : (s.raised f).invals = s.invals := rfl
@[simp] theorem State.raised_lastInval (s : State) (f : Flags) : (s.raised f).lastInval = s.lastInval := rfl
@[simp] theorem State.raised_refused (s : State) (f : Flags) : (s.raised f).refused = s.refused := rfl
@[simp] theorem State.raised_tracked (s : State) (f : Flags) : (s.raised f).tracked = s.tracked := rfl
@[simp] theorem State.raised_l2 (s : State) (f : Flags) : (s.raised f).l2 = s.l2 := rfl
@[simp] theorem State.raised_storeClock (s : State) (f : Flags) : (s.raised f).storeClock = s.storeClock := rfl
@[simp] theorem State.raised_stampWrites (s : State) (f : Flags) : (s.raised f).stampWrites = s.stampWrites := rfl
@[simp] theorem State.raised_gangs (s : State) (f : Flags) : (s.raised f).gangs = s.gangs := rfl
@[simp] theorem State.raised_nextGang (s : State) (f : Flags) : (s.raised f).nextGang = s.nextGang := rfl
@[simp] theorem State.raised_launches (s : State) (f : Flags) : (s.raised f).launches = s.launches := rfl
@[simp] theorem State.raised_queues (s : State) (f : Flags) : (s.raised f).queues = s.queues := rfl
@[simp] theorem State.raised_clupart (s : State) (f : Flags) : (s.raised f).clupart = s.clupart := rfl
@[simp] theorem State.raised_tencfg (s : State) (f : Flags) : (s.raised f).tencfg = s.tencfg := rfl
@[simp] theorem State.raised_deficits (s : State) (f : Flags) : (s.raised f).deficits = s.deficits := rfl
@[simp] theorem State.raised_served (s : State) (f : Flags) : (s.raised f).served = s.served := rfl
@[simp] theorem State.raised_holds (s : State) (f : Flags) : (s.raised f).holds = s.holds := rfl
@[simp] theorem State.raised_cancels (s : State) (f : Flags) : (s.raised f).cancels = s.cancels := rfl
@[simp] theorem State.raised_sweeps (s : State) (f : Flags) : (s.raised f).sweeps = s.sweeps := rfl
@[simp] theorem State.raised_portA (s : State) (f : Flags) : (s.raised f).portA = s.portA := rfl
@[simp] theorem State.raised_portB (s : State) (f : Flags) : (s.raised f).portB = s.portB := rfl
@[simp] theorem State.raised_selfNum (s : State) (f : Flags) : (s.raised f).selfNum = s.selfNum := rfl
@[simp] theorem State.raised_selfInc (s : State) (f : Flags) : (s.raised f).selfInc = s.selfInc := rfl
@[simp] theorem State.raised_peers (s : State) (f : Flags) : (s.raised f).peers = s.peers := rfl
@[simp] theorem State.raised_owedStores (s : State) (f : Flags) : (s.raised f).owedStores = s.owedStores := rfl
@[simp] theorem State.raised_exports (s : State) (f : Flags) : (s.raised f).exports = s.exports := rfl
@[simp] theorem State.raised_grants (s : State) (f : Flags) : (s.raised f).grants = s.grants := rfl
@[simp] theorem State.raised_groups (s : State) (f : Flags) : (s.raised f).groups = s.groups := rfl
@[simp] theorem State.raised_island (s : State) (f : Flags) : (s.raised f).island = s.island := rfl
@[simp] theorem State.raised_retired (s : State) (f : Flags) : (s.raised f).retired = s.retired := rfl
@[simp] theorem State.raised_failing (s : State) (f : Flags) : (s.raised f).failing = s.failing := rfl
@[simp] theorem State.raised_halting (s : State) (f : Flags) : (s.raised f).halting = s.halting := rfl
@[simp] theorem State.raised_records (s : State) (f : Flags) : (s.raised f).records = s.records := rfl
@[simp] theorem State.raised_events (s : State) (f : Flags) : (s.raised f).events = s.events := rfl
@[simp] theorem State.raised_picks (s : State) (f : Flags) : (s.raised f).picks = s.picks := rfl
@[simp] theorem State.raised_turn (s : State) (f : Flags) : (s.raised f).turn = s.turn := rfl
@[simp] theorem State.raised_free (s : State) (f : Flags) : (s.raised f).free = s.free := rfl
@[simp] theorem State.raised_answers (s : State) (f : Flags) : (s.raised f).answers = s.answers := rfl

/-! A vector register: only the current thread changes. -/

@[simp] theorem State.writtenV_others (s : State) (a : VReg) (x : Vec) : (s.writtenV a x).others = s.others := rfl
@[simp] theorem State.writtenV_cores (s : State) (a : VReg) (x : Vec) : (s.writtenV a x).cores = s.cores := rfl
@[simp] theorem State.writtenV_sliceCycles (s : State) (a : VReg) (x : Vec) : (s.writtenV a x).sliceCycles = s.sliceCycles := rfl
@[simp] theorem State.writtenV_contexts (s : State) (a : VReg) (x : Vec) : (s.writtenV a x).contexts = s.contexts := rfl
@[simp] theorem State.writtenV_mem (s : State) (a : VReg) (x : Vec) : (s.writtenV a x).mem = s.mem := rfl
@[simp] theorem State.writtenV_bad (s : State) (a : VReg) (x : Vec) : (s.writtenV a x).bad = s.bad := rfl
@[simp] theorem State.writtenV_stamps (s : State) (a : VReg) (x : Vec) : (s.writtenV a x).stamps = s.stamps := rfl
@[simp] theorem State.writtenV_discards (s : State) (a : VReg) (x : Vec) : (s.writtenV a x).discards = s.discards := rfl
@[simp] theorem State.writtenV_resvs (s : State) (a : VReg) (x : Vec) : (s.writtenV a x).resvs = s.resvs := rfl
@[simp] theorem State.writtenV_nextRid (s : State) (a : VReg) (x : Vec) : (s.writtenV a x).nextRid = s.nextRid := rfl
@[simp] theorem State.writtenV_weir (s : State) (a : VReg) (x : Vec) : (s.writtenV a x).weir = s.weir := rfl
@[simp] theorem State.writtenV_tlb (s : State) (a : VReg) (x : Vec) : (s.writtenV a x).tlb = s.tlb := rfl
@[simp] theorem State.writtenV_used (s : State) (a : VReg) (x : Vec) : (s.writtenV a x).used = s.used := rfl
@[simp] theorem State.writtenV_copies (s : State) (a : VReg) (x : Vec) : (s.writtenV a x).copies = s.copies := rfl
@[simp] theorem State.writtenV_dirs (s : State) (a : VReg) (x : Vec) : (s.writtenV a x).dirs = s.dirs := rfl
@[simp] theorem State.writtenV_fills (s : State) (a : VReg) (x : Vec) : (s.writtenV a x).fills = s.fills := rfl
@[simp] theorem State.writtenV_invals (s : State) (a : VReg) (x : Vec) : (s.writtenV a x).invals = s.invals := rfl
@[simp] theorem State.writtenV_lastInval (s : State) (a : VReg) (x : Vec) : (s.writtenV a x).lastInval = s.lastInval := rfl
@[simp] theorem State.writtenV_refused (s : State) (a : VReg) (x : Vec) : (s.writtenV a x).refused = s.refused := rfl
@[simp] theorem State.writtenV_tracked (s : State) (a : VReg) (x : Vec) : (s.writtenV a x).tracked = s.tracked := rfl
@[simp] theorem State.writtenV_l2 (s : State) (a : VReg) (x : Vec) : (s.writtenV a x).l2 = s.l2 := rfl
@[simp] theorem State.writtenV_storeClock (s : State) (a : VReg) (x : Vec) : (s.writtenV a x).storeClock = s.storeClock := rfl
@[simp] theorem State.writtenV_stampWrites (s : State) (a : VReg) (x : Vec) : (s.writtenV a x).stampWrites = s.stampWrites := rfl
@[simp] theorem State.writtenV_gangs (s : State) (a : VReg) (x : Vec) : (s.writtenV a x).gangs = s.gangs := rfl
@[simp] theorem State.writtenV_nextGang (s : State) (a : VReg) (x : Vec) : (s.writtenV a x).nextGang = s.nextGang := rfl
@[simp] theorem State.writtenV_launches (s : State) (a : VReg) (x : Vec) : (s.writtenV a x).launches = s.launches := rfl
@[simp] theorem State.writtenV_queues (s : State) (a : VReg) (x : Vec) : (s.writtenV a x).queues = s.queues := rfl
@[simp] theorem State.writtenV_clupart (s : State) (a : VReg) (x : Vec) : (s.writtenV a x).clupart = s.clupart := rfl
@[simp] theorem State.writtenV_tencfg (s : State) (a : VReg) (x : Vec) : (s.writtenV a x).tencfg = s.tencfg := rfl
@[simp] theorem State.writtenV_deficits (s : State) (a : VReg) (x : Vec) : (s.writtenV a x).deficits = s.deficits := rfl
@[simp] theorem State.writtenV_served (s : State) (a : VReg) (x : Vec) : (s.writtenV a x).served = s.served := rfl
@[simp] theorem State.writtenV_holds (s : State) (a : VReg) (x : Vec) : (s.writtenV a x).holds = s.holds := rfl
@[simp] theorem State.writtenV_cancels (s : State) (a : VReg) (x : Vec) : (s.writtenV a x).cancels = s.cancels := rfl
@[simp] theorem State.writtenV_sweeps (s : State) (a : VReg) (x : Vec) : (s.writtenV a x).sweeps = s.sweeps := rfl
@[simp] theorem State.writtenV_portA (s : State) (a : VReg) (x : Vec) : (s.writtenV a x).portA = s.portA := rfl
@[simp] theorem State.writtenV_portB (s : State) (a : VReg) (x : Vec) : (s.writtenV a x).portB = s.portB := rfl
@[simp] theorem State.writtenV_selfNum (s : State) (a : VReg) (x : Vec) : (s.writtenV a x).selfNum = s.selfNum := rfl
@[simp] theorem State.writtenV_selfInc (s : State) (a : VReg) (x : Vec) : (s.writtenV a x).selfInc = s.selfInc := rfl
@[simp] theorem State.writtenV_peers (s : State) (a : VReg) (x : Vec) : (s.writtenV a x).peers = s.peers := rfl
@[simp] theorem State.writtenV_owedStores (s : State) (a : VReg) (x : Vec) : (s.writtenV a x).owedStores = s.owedStores := rfl
@[simp] theorem State.writtenV_exports (s : State) (a : VReg) (x : Vec) : (s.writtenV a x).exports = s.exports := rfl
@[simp] theorem State.writtenV_grants (s : State) (a : VReg) (x : Vec) : (s.writtenV a x).grants = s.grants := rfl
@[simp] theorem State.writtenV_groups (s : State) (a : VReg) (x : Vec) : (s.writtenV a x).groups = s.groups := rfl
@[simp] theorem State.writtenV_island (s : State) (a : VReg) (x : Vec) : (s.writtenV a x).island = s.island := rfl
@[simp] theorem State.writtenV_retired (s : State) (a : VReg) (x : Vec) : (s.writtenV a x).retired = s.retired := rfl
@[simp] theorem State.writtenV_failing (s : State) (a : VReg) (x : Vec) : (s.writtenV a x).failing = s.failing := rfl
@[simp] theorem State.writtenV_halting (s : State) (a : VReg) (x : Vec) : (s.writtenV a x).halting = s.halting := rfl
@[simp] theorem State.writtenV_records (s : State) (a : VReg) (x : Vec) : (s.writtenV a x).records = s.records := rfl
@[simp] theorem State.writtenV_events (s : State) (a : VReg) (x : Vec) : (s.writtenV a x).events = s.events := rfl
@[simp] theorem State.writtenV_picks (s : State) (a : VReg) (x : Vec) : (s.writtenV a x).picks = s.picks := rfl
@[simp] theorem State.writtenV_turn (s : State) (a : VReg) (x : Vec) : (s.writtenV a x).turn = s.turn := rfl
@[simp] theorem State.writtenV_free (s : State) (a : VReg) (x : Vec) : (s.writtenV a x).free = s.free := rfl
@[simp] theorem State.writtenV_answers (s : State) (a : VReg) (x : Vec) : (s.writtenV a x).answers = s.answers := rfl

/-! A write at its home (R199, R271): memory, checks, tracked copies, reservations and what waits to happen. -/

@[simp] theorem State.homeWrite_cpu (s : State) (a : Nat) (bs : List Byte) : (s.homeWrite a bs).cpu = s.cpu := rfl
@[simp] theorem State.homeWrite_others (s : State) (a : Nat) (bs : List Byte) : (s.homeWrite a bs).others = s.others := rfl
@[simp] theorem State.homeWrite_sliceCycles (s : State) (a : Nat) (bs : List Byte) : (s.homeWrite a bs).sliceCycles = s.sliceCycles := rfl
@[simp] theorem State.homeWrite_contexts (s : State) (a : Nat) (bs : List Byte) : (s.homeWrite a bs).contexts = s.contexts := rfl
@[simp] theorem State.homeWrite_stamps (s : State) (a : Nat) (bs : List Byte) : (s.homeWrite a bs).stamps = s.stamps := rfl
@[simp] theorem State.homeWrite_discards (s : State) (a : Nat) (bs : List Byte) : (s.homeWrite a bs).discards = s.discards := rfl
@[simp] theorem State.homeWrite_nextRid (s : State) (a : Nat) (bs : List Byte) : (s.homeWrite a bs).nextRid = s.nextRid := rfl
@[simp] theorem State.homeWrite_weir (s : State) (a : Nat) (bs : List Byte) : (s.homeWrite a bs).weir = s.weir := rfl
@[simp] theorem State.homeWrite_tlb (s : State) (a : Nat) (bs : List Byte) : (s.homeWrite a bs).tlb = s.tlb := rfl
@[simp] theorem State.homeWrite_used (s : State) (a : Nat) (bs : List Byte) : (s.homeWrite a bs).used = s.used := rfl
@[simp] theorem State.homeWrite_fills (s : State) (a : Nat) (bs : List Byte) : (s.homeWrite a bs).fills = s.fills := rfl
@[simp] theorem State.homeWrite_invals (s : State) (a : Nat) (bs : List Byte) : (s.homeWrite a bs).invals = s.invals := rfl
@[simp] theorem State.homeWrite_refused (s : State) (a : Nat) (bs : List Byte) : (s.homeWrite a bs).refused = s.refused := rfl
@[simp] theorem State.homeWrite_l2 (s : State) (a : Nat) (bs : List Byte) : (s.homeWrite a bs).l2 = s.l2 := rfl
@[simp] theorem State.homeWrite_storeClock (s : State) (a : Nat) (bs : List Byte) : (s.homeWrite a bs).storeClock = s.storeClock := rfl
@[simp] theorem State.homeWrite_stampWrites (s : State) (a : Nat) (bs : List Byte) : (s.homeWrite a bs).stampWrites = s.stampWrites := rfl
@[simp] theorem State.homeWrite_gangs (s : State) (a : Nat) (bs : List Byte) : (s.homeWrite a bs).gangs = s.gangs := rfl
@[simp] theorem State.homeWrite_nextGang (s : State) (a : Nat) (bs : List Byte) : (s.homeWrite a bs).nextGang = s.nextGang := rfl
@[simp] theorem State.homeWrite_launches (s : State) (a : Nat) (bs : List Byte) : (s.homeWrite a bs).launches = s.launches := rfl
@[simp] theorem State.homeWrite_queues (s : State) (a : Nat) (bs : List Byte) : (s.homeWrite a bs).queues = s.queues := rfl
@[simp] theorem State.homeWrite_clupart (s : State) (a : Nat) (bs : List Byte) : (s.homeWrite a bs).clupart = s.clupart := rfl
@[simp] theorem State.homeWrite_tencfg (s : State) (a : Nat) (bs : List Byte) : (s.homeWrite a bs).tencfg = s.tencfg := rfl
@[simp] theorem State.homeWrite_deficits (s : State) (a : Nat) (bs : List Byte) : (s.homeWrite a bs).deficits = s.deficits := rfl
@[simp] theorem State.homeWrite_served (s : State) (a : Nat) (bs : List Byte) : (s.homeWrite a bs).served = s.served := rfl
@[simp] theorem State.homeWrite_holds (s : State) (a : Nat) (bs : List Byte) : (s.homeWrite a bs).holds = s.holds := rfl
@[simp] theorem State.homeWrite_cancels (s : State) (a : Nat) (bs : List Byte) : (s.homeWrite a bs).cancels = s.cancels := rfl
@[simp] theorem State.homeWrite_sweeps (s : State) (a : Nat) (bs : List Byte) : (s.homeWrite a bs).sweeps = s.sweeps := rfl
@[simp] theorem State.homeWrite_portA (s : State) (a : Nat) (bs : List Byte) : (s.homeWrite a bs).portA = s.portA := rfl
@[simp] theorem State.homeWrite_portB (s : State) (a : Nat) (bs : List Byte) : (s.homeWrite a bs).portB = s.portB := rfl
@[simp] theorem State.homeWrite_selfNum (s : State) (a : Nat) (bs : List Byte) : (s.homeWrite a bs).selfNum = s.selfNum := rfl
@[simp] theorem State.homeWrite_selfInc (s : State) (a : Nat) (bs : List Byte) : (s.homeWrite a bs).selfInc = s.selfInc := rfl
@[simp] theorem State.homeWrite_peers (s : State) (a : Nat) (bs : List Byte) : (s.homeWrite a bs).peers = s.peers := rfl
@[simp] theorem State.homeWrite_owedStores (s : State) (a : Nat) (bs : List Byte) : (s.homeWrite a bs).owedStores = s.owedStores := rfl
@[simp] theorem State.homeWrite_exports (s : State) (a : Nat) (bs : List Byte) : (s.homeWrite a bs).exports = s.exports := rfl
@[simp] theorem State.homeWrite_grants (s : State) (a : Nat) (bs : List Byte) : (s.homeWrite a bs).grants = s.grants := rfl
@[simp] theorem State.homeWrite_groups (s : State) (a : Nat) (bs : List Byte) : (s.homeWrite a bs).groups = s.groups := rfl
@[simp] theorem State.homeWrite_island (s : State) (a : Nat) (bs : List Byte) : (s.homeWrite a bs).island = s.island := rfl
@[simp] theorem State.homeWrite_retired (s : State) (a : Nat) (bs : List Byte) : (s.homeWrite a bs).retired = s.retired := rfl
@[simp] theorem State.homeWrite_failing (s : State) (a : Nat) (bs : List Byte) : (s.homeWrite a bs).failing = s.failing := rfl
@[simp] theorem State.homeWrite_halting (s : State) (a : Nat) (bs : List Byte) : (s.homeWrite a bs).halting = s.halting := rfl
@[simp] theorem State.homeWrite_records (s : State) (a : Nat) (bs : List Byte) : (s.homeWrite a bs).records = s.records := rfl
@[simp] theorem State.homeWrite_picks (s : State) (a : Nat) (bs : List Byte) : (s.homeWrite a bs).picks = s.picks := rfl
@[simp] theorem State.homeWrite_turn (s : State) (a : Nat) (bs : List Byte) : (s.homeWrite a bs).turn = s.turn := rfl
@[simp] theorem State.homeWrite_free (s : State) (a : Nat) (bs : List Byte) : (s.homeWrite a bs).free = s.free := rfl
@[simp] theorem State.homeWrite_answers (s : State) (a : Nat) (bs : List Byte) : (s.homeWrite a bs).answers = s.answers := rfl

/-! Tracked copies are invalidated (R171, R184). -/

@[simp] theorem State.withdraw_cpu (s : State) (a n : Nat) : (s.withdraw a n).cpu = s.cpu := rfl
@[simp] theorem State.withdraw_others (s : State) (a n : Nat) : (s.withdraw a n).others = s.others := rfl
@[simp] theorem State.withdraw_sliceCycles (s : State) (a n : Nat) : (s.withdraw a n).sliceCycles = s.sliceCycles := rfl
@[simp] theorem State.withdraw_contexts (s : State) (a n : Nat) : (s.withdraw a n).contexts = s.contexts := rfl
@[simp] theorem State.withdraw_mem (s : State) (a n : Nat) : (s.withdraw a n).mem = s.mem := rfl
@[simp] theorem State.withdraw_bad (s : State) (a n : Nat) : (s.withdraw a n).bad = s.bad := rfl
@[simp] theorem State.withdraw_stamps (s : State) (a n : Nat) : (s.withdraw a n).stamps = s.stamps := rfl
@[simp] theorem State.withdraw_discards (s : State) (a n : Nat) : (s.withdraw a n).discards = s.discards := rfl
@[simp] theorem State.withdraw_resvs (s : State) (a n : Nat) : (s.withdraw a n).resvs = s.resvs := rfl
@[simp] theorem State.withdraw_nextRid (s : State) (a n : Nat) : (s.withdraw a n).nextRid = s.nextRid := rfl
@[simp] theorem State.withdraw_weir (s : State) (a n : Nat) : (s.withdraw a n).weir = s.weir := rfl
@[simp] theorem State.withdraw_tlb (s : State) (a n : Nat) : (s.withdraw a n).tlb = s.tlb := rfl
@[simp] theorem State.withdraw_used (s : State) (a n : Nat) : (s.withdraw a n).used = s.used := rfl
@[simp] theorem State.withdraw_fills (s : State) (a n : Nat) : (s.withdraw a n).fills = s.fills := rfl
@[simp] theorem State.withdraw_invals (s : State) (a n : Nat) : (s.withdraw a n).invals = s.invals := rfl
@[simp] theorem State.withdraw_refused (s : State) (a n : Nat) : (s.withdraw a n).refused = s.refused := rfl
@[simp] theorem State.withdraw_l2 (s : State) (a n : Nat) : (s.withdraw a n).l2 = s.l2 := rfl
@[simp] theorem State.withdraw_storeClock (s : State) (a n : Nat) : (s.withdraw a n).storeClock = s.storeClock := rfl
@[simp] theorem State.withdraw_stampWrites (s : State) (a n : Nat) : (s.withdraw a n).stampWrites = s.stampWrites := rfl
@[simp] theorem State.withdraw_gangs (s : State) (a n : Nat) : (s.withdraw a n).gangs = s.gangs := rfl
@[simp] theorem State.withdraw_nextGang (s : State) (a n : Nat) : (s.withdraw a n).nextGang = s.nextGang := rfl
@[simp] theorem State.withdraw_launches (s : State) (a n : Nat) : (s.withdraw a n).launches = s.launches := rfl
@[simp] theorem State.withdraw_queues (s : State) (a n : Nat) : (s.withdraw a n).queues = s.queues := rfl
@[simp] theorem State.withdraw_clupart (s : State) (a n : Nat) : (s.withdraw a n).clupart = s.clupart := rfl
@[simp] theorem State.withdraw_tencfg (s : State) (a n : Nat) : (s.withdraw a n).tencfg = s.tencfg := rfl
@[simp] theorem State.withdraw_deficits (s : State) (a n : Nat) : (s.withdraw a n).deficits = s.deficits := rfl
@[simp] theorem State.withdraw_served (s : State) (a n : Nat) : (s.withdraw a n).served = s.served := rfl
@[simp] theorem State.withdraw_holds (s : State) (a n : Nat) : (s.withdraw a n).holds = s.holds := rfl
@[simp] theorem State.withdraw_cancels (s : State) (a n : Nat) : (s.withdraw a n).cancels = s.cancels := rfl
@[simp] theorem State.withdraw_sweeps (s : State) (a n : Nat) : (s.withdraw a n).sweeps = s.sweeps := rfl
@[simp] theorem State.withdraw_portA (s : State) (a n : Nat) : (s.withdraw a n).portA = s.portA := rfl
@[simp] theorem State.withdraw_portB (s : State) (a n : Nat) : (s.withdraw a n).portB = s.portB := rfl
@[simp] theorem State.withdraw_selfNum (s : State) (a n : Nat) : (s.withdraw a n).selfNum = s.selfNum := rfl
@[simp] theorem State.withdraw_selfInc (s : State) (a n : Nat) : (s.withdraw a n).selfInc = s.selfInc := rfl
@[simp] theorem State.withdraw_peers (s : State) (a n : Nat) : (s.withdraw a n).peers = s.peers := rfl
@[simp] theorem State.withdraw_owedStores (s : State) (a n : Nat) : (s.withdraw a n).owedStores = s.owedStores := rfl
@[simp] theorem State.withdraw_exports (s : State) (a n : Nat) : (s.withdraw a n).exports = s.exports := rfl
@[simp] theorem State.withdraw_grants (s : State) (a n : Nat) : (s.withdraw a n).grants = s.grants := rfl
@[simp] theorem State.withdraw_groups (s : State) (a n : Nat) : (s.withdraw a n).groups = s.groups := rfl
@[simp] theorem State.withdraw_island (s : State) (a n : Nat) : (s.withdraw a n).island = s.island := rfl
@[simp] theorem State.withdraw_retired (s : State) (a n : Nat) : (s.withdraw a n).retired = s.retired := rfl
@[simp] theorem State.withdraw_failing (s : State) (a n : Nat) : (s.withdraw a n).failing = s.failing := rfl
@[simp] theorem State.withdraw_halting (s : State) (a n : Nat) : (s.withdraw a n).halting = s.halting := rfl
@[simp] theorem State.withdraw_records (s : State) (a n : Nat) : (s.withdraw a n).records = s.records := rfl
@[simp] theorem State.withdraw_events (s : State) (a n : Nat) : (s.withdraw a n).events = s.events := rfl
@[simp] theorem State.withdraw_picks (s : State) (a n : Nat) : (s.withdraw a n).picks = s.picks := rfl
@[simp] theorem State.withdraw_turn (s : State) (a n : Nat) : (s.withdraw a n).turn = s.turn := rfl
@[simp] theorem State.withdraw_free (s : State) (a n : Nat) : (s.withdraw a n).free = s.free := rfl
@[simp] theorem State.withdraw_answers (s : State) (a n : Nat) : (s.withdraw a n).answers = s.answers := rfl

/-! Bytes change where they are kept. -/

@[simp] theorem State.putBytes_cpu (s : State) (a : Nat) (bs : List Byte) : (s.putBytes a bs).cpu = s.cpu := rfl
@[simp] theorem State.putBytes_others (s : State) (a : Nat) (bs : List Byte) : (s.putBytes a bs).others = s.others := rfl
@[simp] theorem State.putBytes_cores (s : State) (a : Nat) (bs : List Byte) : (s.putBytes a bs).cores = s.cores := rfl
@[simp] theorem State.putBytes_sliceCycles (s : State) (a : Nat) (bs : List Byte) : (s.putBytes a bs).sliceCycles = s.sliceCycles := rfl
@[simp] theorem State.putBytes_contexts (s : State) (a : Nat) (bs : List Byte) : (s.putBytes a bs).contexts = s.contexts := rfl
@[simp] theorem State.putBytes_stamps (s : State) (a : Nat) (bs : List Byte) : (s.putBytes a bs).stamps = s.stamps := rfl
@[simp] theorem State.putBytes_discards (s : State) (a : Nat) (bs : List Byte) : (s.putBytes a bs).discards = s.discards := rfl
@[simp] theorem State.putBytes_nextRid (s : State) (a : Nat) (bs : List Byte) : (s.putBytes a bs).nextRid = s.nextRid := rfl
@[simp] theorem State.putBytes_weir (s : State) (a : Nat) (bs : List Byte) : (s.putBytes a bs).weir = s.weir := rfl
@[simp] theorem State.putBytes_tlb (s : State) (a : Nat) (bs : List Byte) : (s.putBytes a bs).tlb = s.tlb := rfl
@[simp] theorem State.putBytes_used (s : State) (a : Nat) (bs : List Byte) : (s.putBytes a bs).used = s.used := rfl
@[simp] theorem State.putBytes_copies (s : State) (a : Nat) (bs : List Byte) : (s.putBytes a bs).copies = s.copies := rfl
@[simp] theorem State.putBytes_dirs (s : State) (a : Nat) (bs : List Byte) : (s.putBytes a bs).dirs = s.dirs := rfl
@[simp] theorem State.putBytes_fills (s : State) (a : Nat) (bs : List Byte) : (s.putBytes a bs).fills = s.fills := rfl
@[simp] theorem State.putBytes_invals (s : State) (a : Nat) (bs : List Byte) : (s.putBytes a bs).invals = s.invals := rfl
@[simp] theorem State.putBytes_lastInval (s : State) (a : Nat) (bs : List Byte) : (s.putBytes a bs).lastInval = s.lastInval := rfl
@[simp] theorem State.putBytes_refused (s : State) (a : Nat) (bs : List Byte) : (s.putBytes a bs).refused = s.refused := rfl
@[simp] theorem State.putBytes_tracked (s : State) (a : Nat) (bs : List Byte) : (s.putBytes a bs).tracked = s.tracked := rfl
@[simp] theorem State.putBytes_l2 (s : State) (a : Nat) (bs : List Byte) : (s.putBytes a bs).l2 = s.l2 := rfl
@[simp] theorem State.putBytes_storeClock (s : State) (a : Nat) (bs : List Byte) : (s.putBytes a bs).storeClock = s.storeClock := rfl
@[simp] theorem State.putBytes_stampWrites (s : State) (a : Nat) (bs : List Byte) : (s.putBytes a bs).stampWrites = s.stampWrites := rfl
@[simp] theorem State.putBytes_gangs (s : State) (a : Nat) (bs : List Byte) : (s.putBytes a bs).gangs = s.gangs := rfl
@[simp] theorem State.putBytes_nextGang (s : State) (a : Nat) (bs : List Byte) : (s.putBytes a bs).nextGang = s.nextGang := rfl
@[simp] theorem State.putBytes_launches (s : State) (a : Nat) (bs : List Byte) : (s.putBytes a bs).launches = s.launches := rfl
@[simp] theorem State.putBytes_queues (s : State) (a : Nat) (bs : List Byte) : (s.putBytes a bs).queues = s.queues := rfl
@[simp] theorem State.putBytes_clupart (s : State) (a : Nat) (bs : List Byte) : (s.putBytes a bs).clupart = s.clupart := rfl
@[simp] theorem State.putBytes_tencfg (s : State) (a : Nat) (bs : List Byte) : (s.putBytes a bs).tencfg = s.tencfg := rfl
@[simp] theorem State.putBytes_deficits (s : State) (a : Nat) (bs : List Byte) : (s.putBytes a bs).deficits = s.deficits := rfl
@[simp] theorem State.putBytes_served (s : State) (a : Nat) (bs : List Byte) : (s.putBytes a bs).served = s.served := rfl
@[simp] theorem State.putBytes_holds (s : State) (a : Nat) (bs : List Byte) : (s.putBytes a bs).holds = s.holds := rfl
@[simp] theorem State.putBytes_cancels (s : State) (a : Nat) (bs : List Byte) : (s.putBytes a bs).cancels = s.cancels := rfl
@[simp] theorem State.putBytes_sweeps (s : State) (a : Nat) (bs : List Byte) : (s.putBytes a bs).sweeps = s.sweeps := rfl
@[simp] theorem State.putBytes_portA (s : State) (a : Nat) (bs : List Byte) : (s.putBytes a bs).portA = s.portA := rfl
@[simp] theorem State.putBytes_portB (s : State) (a : Nat) (bs : List Byte) : (s.putBytes a bs).portB = s.portB := rfl
@[simp] theorem State.putBytes_selfNum (s : State) (a : Nat) (bs : List Byte) : (s.putBytes a bs).selfNum = s.selfNum := rfl
@[simp] theorem State.putBytes_selfInc (s : State) (a : Nat) (bs : List Byte) : (s.putBytes a bs).selfInc = s.selfInc := rfl
@[simp] theorem State.putBytes_peers (s : State) (a : Nat) (bs : List Byte) : (s.putBytes a bs).peers = s.peers := rfl
@[simp] theorem State.putBytes_owedStores (s : State) (a : Nat) (bs : List Byte) : (s.putBytes a bs).owedStores = s.owedStores := rfl
@[simp] theorem State.putBytes_exports (s : State) (a : Nat) (bs : List Byte) : (s.putBytes a bs).exports = s.exports := rfl
@[simp] theorem State.putBytes_grants (s : State) (a : Nat) (bs : List Byte) : (s.putBytes a bs).grants = s.grants := rfl
@[simp] theorem State.putBytes_groups (s : State) (a : Nat) (bs : List Byte) : (s.putBytes a bs).groups = s.groups := rfl
@[simp] theorem State.putBytes_island (s : State) (a : Nat) (bs : List Byte) : (s.putBytes a bs).island = s.island := rfl
@[simp] theorem State.putBytes_retired (s : State) (a : Nat) (bs : List Byte) : (s.putBytes a bs).retired = s.retired := rfl
@[simp] theorem State.putBytes_failing (s : State) (a : Nat) (bs : List Byte) : (s.putBytes a bs).failing = s.failing := rfl
@[simp] theorem State.putBytes_halting (s : State) (a : Nat) (bs : List Byte) : (s.putBytes a bs).halting = s.halting := rfl
@[simp] theorem State.putBytes_records (s : State) (a : Nat) (bs : List Byte) : (s.putBytes a bs).records = s.records := rfl
@[simp] theorem State.putBytes_picks (s : State) (a : Nat) (bs : List Byte) : (s.putBytes a bs).picks = s.picks := rfl
@[simp] theorem State.putBytes_turn (s : State) (a : Nat) (bs : List Byte) : (s.putBytes a bs).turn = s.turn := rfl
@[simp] theorem State.putBytes_free (s : State) (a : Nat) (bs : List Byte) : (s.putBytes a bs).free = s.free := rfl
@[simp] theorem State.putBytes_answers (s : State) (a : Nat) (bs : List Byte) : (s.putBytes a bs).answers = s.answers := rfl

/-! A write at its home by an agent of a die (R205). -/

@[simp] theorem State.writeFrom_cpu (s : State) (d a : Nat) (bs : List Byte) : (s.writeFrom d a bs).cpu = s.cpu := rfl
@[simp] theorem State.writeFrom_others (s : State) (d a : Nat) (bs : List Byte) : (s.writeFrom d a bs).others = s.others := rfl
@[simp] theorem State.writeFrom_sliceCycles (s : State) (d a : Nat) (bs : List Byte) : (s.writeFrom d a bs).sliceCycles = s.sliceCycles := rfl
@[simp] theorem State.writeFrom_contexts (s : State) (d a : Nat) (bs : List Byte) : (s.writeFrom d a bs).contexts = s.contexts := rfl
@[simp] theorem State.writeFrom_stamps (s : State) (d a : Nat) (bs : List Byte) : (s.writeFrom d a bs).stamps = s.stamps := rfl
@[simp] theorem State.writeFrom_discards (s : State) (d a : Nat) (bs : List Byte) : (s.writeFrom d a bs).discards = s.discards := rfl
@[simp] theorem State.writeFrom_nextRid (s : State) (d a : Nat) (bs : List Byte) : (s.writeFrom d a bs).nextRid = s.nextRid := rfl
@[simp] theorem State.writeFrom_weir (s : State) (d a : Nat) (bs : List Byte) : (s.writeFrom d a bs).weir = s.weir := rfl
@[simp] theorem State.writeFrom_tlb (s : State) (d a : Nat) (bs : List Byte) : (s.writeFrom d a bs).tlb = s.tlb := rfl
@[simp] theorem State.writeFrom_used (s : State) (d a : Nat) (bs : List Byte) : (s.writeFrom d a bs).used = s.used := rfl
@[simp] theorem State.writeFrom_fills (s : State) (d a : Nat) (bs : List Byte) : (s.writeFrom d a bs).fills = s.fills := rfl
@[simp] theorem State.writeFrom_invals (s : State) (d a : Nat) (bs : List Byte) : (s.writeFrom d a bs).invals = s.invals := rfl
@[simp] theorem State.writeFrom_refused (s : State) (d a : Nat) (bs : List Byte) : (s.writeFrom d a bs).refused = s.refused := rfl
@[simp] theorem State.writeFrom_l2 (s : State) (d a : Nat) (bs : List Byte) : (s.writeFrom d a bs).l2 = s.l2 := rfl
@[simp] theorem State.writeFrom_storeClock (s : State) (d a : Nat) (bs : List Byte) : (s.writeFrom d a bs).storeClock = s.storeClock := rfl
@[simp] theorem State.writeFrom_stampWrites (s : State) (d a : Nat) (bs : List Byte) : (s.writeFrom d a bs).stampWrites = s.stampWrites := rfl
@[simp] theorem State.writeFrom_gangs (s : State) (d a : Nat) (bs : List Byte) : (s.writeFrom d a bs).gangs = s.gangs := rfl
@[simp] theorem State.writeFrom_nextGang (s : State) (d a : Nat) (bs : List Byte) : (s.writeFrom d a bs).nextGang = s.nextGang := rfl
@[simp] theorem State.writeFrom_launches (s : State) (d a : Nat) (bs : List Byte) : (s.writeFrom d a bs).launches = s.launches := rfl
@[simp] theorem State.writeFrom_queues (s : State) (d a : Nat) (bs : List Byte) : (s.writeFrom d a bs).queues = s.queues := rfl
@[simp] theorem State.writeFrom_clupart (s : State) (d a : Nat) (bs : List Byte) : (s.writeFrom d a bs).clupart = s.clupart := rfl
@[simp] theorem State.writeFrom_tencfg (s : State) (d a : Nat) (bs : List Byte) : (s.writeFrom d a bs).tencfg = s.tencfg := rfl
@[simp] theorem State.writeFrom_deficits (s : State) (d a : Nat) (bs : List Byte) : (s.writeFrom d a bs).deficits = s.deficits := rfl
@[simp] theorem State.writeFrom_served (s : State) (d a : Nat) (bs : List Byte) : (s.writeFrom d a bs).served = s.served := rfl
@[simp] theorem State.writeFrom_holds (s : State) (d a : Nat) (bs : List Byte) : (s.writeFrom d a bs).holds = s.holds := rfl
@[simp] theorem State.writeFrom_cancels (s : State) (d a : Nat) (bs : List Byte) : (s.writeFrom d a bs).cancels = s.cancels := rfl
@[simp] theorem State.writeFrom_sweeps (s : State) (d a : Nat) (bs : List Byte) : (s.writeFrom d a bs).sweeps = s.sweeps := rfl
@[simp] theorem State.writeFrom_portA (s : State) (d a : Nat) (bs : List Byte) : (s.writeFrom d a bs).portA = s.portA := rfl
@[simp] theorem State.writeFrom_portB (s : State) (d a : Nat) (bs : List Byte) : (s.writeFrom d a bs).portB = s.portB := rfl
@[simp] theorem State.writeFrom_selfNum (s : State) (d a : Nat) (bs : List Byte) : (s.writeFrom d a bs).selfNum = s.selfNum := rfl
@[simp] theorem State.writeFrom_selfInc (s : State) (d a : Nat) (bs : List Byte) : (s.writeFrom d a bs).selfInc = s.selfInc := rfl
@[simp] theorem State.writeFrom_peers (s : State) (d a : Nat) (bs : List Byte) : (s.writeFrom d a bs).peers = s.peers := rfl
@[simp] theorem State.writeFrom_owedStores (s : State) (d a : Nat) (bs : List Byte) : (s.writeFrom d a bs).owedStores = s.owedStores := rfl
@[simp] theorem State.writeFrom_exports (s : State) (d a : Nat) (bs : List Byte) : (s.writeFrom d a bs).exports = s.exports := rfl
@[simp] theorem State.writeFrom_grants (s : State) (d a : Nat) (bs : List Byte) : (s.writeFrom d a bs).grants = s.grants := rfl
@[simp] theorem State.writeFrom_groups (s : State) (d a : Nat) (bs : List Byte) : (s.writeFrom d a bs).groups = s.groups := rfl
@[simp] theorem State.writeFrom_island (s : State) (d a : Nat) (bs : List Byte) : (s.writeFrom d a bs).island = s.island := rfl
@[simp] theorem State.writeFrom_retired (s : State) (d a : Nat) (bs : List Byte) : (s.writeFrom d a bs).retired = s.retired := rfl
@[simp] theorem State.writeFrom_failing (s : State) (d a : Nat) (bs : List Byte) : (s.writeFrom d a bs).failing = s.failing := rfl
@[simp] theorem State.writeFrom_halting (s : State) (d a : Nat) (bs : List Byte) : (s.writeFrom d a bs).halting = s.halting := rfl
@[simp] theorem State.writeFrom_records (s : State) (d a : Nat) (bs : List Byte) : (s.writeFrom d a bs).records = s.records := rfl
@[simp] theorem State.writeFrom_picks (s : State) (d a : Nat) (bs : List Byte) : (s.writeFrom d a bs).picks = s.picks := rfl
@[simp] theorem State.writeFrom_turn (s : State) (d a : Nat) (bs : List Byte) : (s.writeFrom d a bs).turn = s.turn := rfl
@[simp] theorem State.writeFrom_free (s : State) (d a : Nat) (bs : List Byte) : (s.writeFrom d a bs).free = s.free := rfl
@[simp] theorem State.writeFrom_answers (s : State) (d a : Nat) (bs : List Byte) : (s.writeFrom d a bs).answers = s.answers := rfl

/-! A stamp (R242). -/

@[simp] theorem State.setStamp_cpu (s : State) (g : Nat) (x : BitVec 32) : (s.setStamp g x).cpu = s.cpu := rfl
@[simp] theorem State.setStamp_others (s : State) (g : Nat) (x : BitVec 32) : (s.setStamp g x).others = s.others := rfl
@[simp] theorem State.setStamp_cores (s : State) (g : Nat) (x : BitVec 32) : (s.setStamp g x).cores = s.cores := rfl
@[simp] theorem State.setStamp_sliceCycles (s : State) (g : Nat) (x : BitVec 32) : (s.setStamp g x).sliceCycles = s.sliceCycles := rfl
@[simp] theorem State.setStamp_contexts (s : State) (g : Nat) (x : BitVec 32) : (s.setStamp g x).contexts = s.contexts := rfl
@[simp] theorem State.setStamp_mem (s : State) (g : Nat) (x : BitVec 32) : (s.setStamp g x).mem = s.mem := rfl
@[simp] theorem State.setStamp_bad (s : State) (g : Nat) (x : BitVec 32) : (s.setStamp g x).bad = s.bad := rfl
@[simp] theorem State.setStamp_discards (s : State) (g : Nat) (x : BitVec 32) : (s.setStamp g x).discards = s.discards := rfl
@[simp] theorem State.setStamp_resvs (s : State) (g : Nat) (x : BitVec 32) : (s.setStamp g x).resvs = s.resvs := rfl
@[simp] theorem State.setStamp_nextRid (s : State) (g : Nat) (x : BitVec 32) : (s.setStamp g x).nextRid = s.nextRid := rfl
@[simp] theorem State.setStamp_weir (s : State) (g : Nat) (x : BitVec 32) : (s.setStamp g x).weir = s.weir := rfl
@[simp] theorem State.setStamp_tlb (s : State) (g : Nat) (x : BitVec 32) : (s.setStamp g x).tlb = s.tlb := rfl
@[simp] theorem State.setStamp_used (s : State) (g : Nat) (x : BitVec 32) : (s.setStamp g x).used = s.used := rfl
@[simp] theorem State.setStamp_copies (s : State) (g : Nat) (x : BitVec 32) : (s.setStamp g x).copies = s.copies := rfl
@[simp] theorem State.setStamp_dirs (s : State) (g : Nat) (x : BitVec 32) : (s.setStamp g x).dirs = s.dirs := rfl
@[simp] theorem State.setStamp_fills (s : State) (g : Nat) (x : BitVec 32) : (s.setStamp g x).fills = s.fills := rfl
@[simp] theorem State.setStamp_invals (s : State) (g : Nat) (x : BitVec 32) : (s.setStamp g x).invals = s.invals := rfl
@[simp] theorem State.setStamp_lastInval (s : State) (g : Nat) (x : BitVec 32) : (s.setStamp g x).lastInval = s.lastInval := rfl
@[simp] theorem State.setStamp_refused (s : State) (g : Nat) (x : BitVec 32) : (s.setStamp g x).refused = s.refused := rfl
@[simp] theorem State.setStamp_tracked (s : State) (g : Nat) (x : BitVec 32) : (s.setStamp g x).tracked = s.tracked := rfl
@[simp] theorem State.setStamp_l2 (s : State) (g : Nat) (x : BitVec 32) : (s.setStamp g x).l2 = s.l2 := rfl
@[simp] theorem State.setStamp_storeClock (s : State) (g : Nat) (x : BitVec 32) : (s.setStamp g x).storeClock = s.storeClock := rfl
@[simp] theorem State.setStamp_stampWrites (s : State) (g : Nat) (x : BitVec 32) : (s.setStamp g x).stampWrites = s.stampWrites := rfl
@[simp] theorem State.setStamp_gangs (s : State) (g : Nat) (x : BitVec 32) : (s.setStamp g x).gangs = s.gangs := rfl
@[simp] theorem State.setStamp_nextGang (s : State) (g : Nat) (x : BitVec 32) : (s.setStamp g x).nextGang = s.nextGang := rfl
@[simp] theorem State.setStamp_launches (s : State) (g : Nat) (x : BitVec 32) : (s.setStamp g x).launches = s.launches := rfl
@[simp] theorem State.setStamp_queues (s : State) (g : Nat) (x : BitVec 32) : (s.setStamp g x).queues = s.queues := rfl
@[simp] theorem State.setStamp_clupart (s : State) (g : Nat) (x : BitVec 32) : (s.setStamp g x).clupart = s.clupart := rfl
@[simp] theorem State.setStamp_tencfg (s : State) (g : Nat) (x : BitVec 32) : (s.setStamp g x).tencfg = s.tencfg := rfl
@[simp] theorem State.setStamp_deficits (s : State) (g : Nat) (x : BitVec 32) : (s.setStamp g x).deficits = s.deficits := rfl
@[simp] theorem State.setStamp_served (s : State) (g : Nat) (x : BitVec 32) : (s.setStamp g x).served = s.served := rfl
@[simp] theorem State.setStamp_holds (s : State) (g : Nat) (x : BitVec 32) : (s.setStamp g x).holds = s.holds := rfl
@[simp] theorem State.setStamp_cancels (s : State) (g : Nat) (x : BitVec 32) : (s.setStamp g x).cancels = s.cancels := rfl
@[simp] theorem State.setStamp_sweeps (s : State) (g : Nat) (x : BitVec 32) : (s.setStamp g x).sweeps = s.sweeps := rfl
@[simp] theorem State.setStamp_portA (s : State) (g : Nat) (x : BitVec 32) : (s.setStamp g x).portA = s.portA := rfl
@[simp] theorem State.setStamp_portB (s : State) (g : Nat) (x : BitVec 32) : (s.setStamp g x).portB = s.portB := rfl
@[simp] theorem State.setStamp_selfNum (s : State) (g : Nat) (x : BitVec 32) : (s.setStamp g x).selfNum = s.selfNum := rfl
@[simp] theorem State.setStamp_selfInc (s : State) (g : Nat) (x : BitVec 32) : (s.setStamp g x).selfInc = s.selfInc := rfl
@[simp] theorem State.setStamp_peers (s : State) (g : Nat) (x : BitVec 32) : (s.setStamp g x).peers = s.peers := rfl
@[simp] theorem State.setStamp_owedStores (s : State) (g : Nat) (x : BitVec 32) : (s.setStamp g x).owedStores = s.owedStores := rfl
@[simp] theorem State.setStamp_exports (s : State) (g : Nat) (x : BitVec 32) : (s.setStamp g x).exports = s.exports := rfl
@[simp] theorem State.setStamp_grants (s : State) (g : Nat) (x : BitVec 32) : (s.setStamp g x).grants = s.grants := rfl
@[simp] theorem State.setStamp_groups (s : State) (g : Nat) (x : BitVec 32) : (s.setStamp g x).groups = s.groups := rfl
@[simp] theorem State.setStamp_island (s : State) (g : Nat) (x : BitVec 32) : (s.setStamp g x).island = s.island := rfl
@[simp] theorem State.setStamp_retired (s : State) (g : Nat) (x : BitVec 32) : (s.setStamp g x).retired = s.retired := rfl
@[simp] theorem State.setStamp_failing (s : State) (g : Nat) (x : BitVec 32) : (s.setStamp g x).failing = s.failing := rfl
@[simp] theorem State.setStamp_halting (s : State) (g : Nat) (x : BitVec 32) : (s.setStamp g x).halting = s.halting := rfl
@[simp] theorem State.setStamp_records (s : State) (g : Nat) (x : BitVec 32) : (s.setStamp g x).records = s.records := rfl
@[simp] theorem State.setStamp_events (s : State) (g : Nat) (x : BitVec 32) : (s.setStamp g x).events = s.events := rfl
@[simp] theorem State.setStamp_picks (s : State) (g : Nat) (x : BitVec 32) : (s.setStamp g x).picks = s.picks := rfl
@[simp] theorem State.setStamp_turn (s : State) (g : Nat) (x : BitVec 32) : (s.setStamp g x).turn = s.turn := rfl
@[simp] theorem State.setStamp_free (s : State) (g : Nat) (x : BitVec 32) : (s.setStamp g x).free = s.free := rfl
@[simp] theorem State.setStamp_answers (s : State) (g : Nat) (x : BitVec 32) : (s.setStamp g x).answers = s.answers := rfl

/-! Reservations are lost, with notices (R276). -/

@[simp] theorem State.dropResv_cpu (s : State) (p : Resv → Bool) : (s.dropResv p).cpu = s.cpu := rfl
@[simp] theorem State.dropResv_others (s : State) (p : Resv → Bool) : (s.dropResv p).others = s.others := rfl
@[simp] theorem State.dropResv_cores (s : State) (p : Resv → Bool) : (s.dropResv p).cores = s.cores := rfl
@[simp] theorem State.dropResv_sliceCycles (s : State) (p : Resv → Bool) : (s.dropResv p).sliceCycles = s.sliceCycles := rfl
@[simp] theorem State.dropResv_contexts (s : State) (p : Resv → Bool) : (s.dropResv p).contexts = s.contexts := rfl
@[simp] theorem State.dropResv_mem (s : State) (p : Resv → Bool) : (s.dropResv p).mem = s.mem := rfl
@[simp] theorem State.dropResv_bad (s : State) (p : Resv → Bool) : (s.dropResv p).bad = s.bad := rfl
@[simp] theorem State.dropResv_stamps (s : State) (p : Resv → Bool) : (s.dropResv p).stamps = s.stamps := rfl
@[simp] theorem State.dropResv_discards (s : State) (p : Resv → Bool) : (s.dropResv p).discards = s.discards := rfl
@[simp] theorem State.dropResv_nextRid (s : State) (p : Resv → Bool) : (s.dropResv p).nextRid = s.nextRid := rfl
@[simp] theorem State.dropResv_weir (s : State) (p : Resv → Bool) : (s.dropResv p).weir = s.weir := rfl
@[simp] theorem State.dropResv_tlb (s : State) (p : Resv → Bool) : (s.dropResv p).tlb = s.tlb := rfl
@[simp] theorem State.dropResv_used (s : State) (p : Resv → Bool) : (s.dropResv p).used = s.used := rfl
@[simp] theorem State.dropResv_copies (s : State) (p : Resv → Bool) : (s.dropResv p).copies = s.copies := rfl
@[simp] theorem State.dropResv_dirs (s : State) (p : Resv → Bool) : (s.dropResv p).dirs = s.dirs := rfl
@[simp] theorem State.dropResv_fills (s : State) (p : Resv → Bool) : (s.dropResv p).fills = s.fills := rfl
@[simp] theorem State.dropResv_invals (s : State) (p : Resv → Bool) : (s.dropResv p).invals = s.invals := rfl
@[simp] theorem State.dropResv_lastInval (s : State) (p : Resv → Bool) : (s.dropResv p).lastInval = s.lastInval := rfl
@[simp] theorem State.dropResv_refused (s : State) (p : Resv → Bool) : (s.dropResv p).refused = s.refused := rfl
@[simp] theorem State.dropResv_tracked (s : State) (p : Resv → Bool) : (s.dropResv p).tracked = s.tracked := rfl
@[simp] theorem State.dropResv_l2 (s : State) (p : Resv → Bool) : (s.dropResv p).l2 = s.l2 := rfl
@[simp] theorem State.dropResv_storeClock (s : State) (p : Resv → Bool) : (s.dropResv p).storeClock = s.storeClock := rfl
@[simp] theorem State.dropResv_stampWrites (s : State) (p : Resv → Bool) : (s.dropResv p).stampWrites = s.stampWrites := rfl
@[simp] theorem State.dropResv_gangs (s : State) (p : Resv → Bool) : (s.dropResv p).gangs = s.gangs := rfl
@[simp] theorem State.dropResv_nextGang (s : State) (p : Resv → Bool) : (s.dropResv p).nextGang = s.nextGang := rfl
@[simp] theorem State.dropResv_launches (s : State) (p : Resv → Bool) : (s.dropResv p).launches = s.launches := rfl
@[simp] theorem State.dropResv_queues (s : State) (p : Resv → Bool) : (s.dropResv p).queues = s.queues := rfl
@[simp] theorem State.dropResv_clupart (s : State) (p : Resv → Bool) : (s.dropResv p).clupart = s.clupart := rfl
@[simp] theorem State.dropResv_tencfg (s : State) (p : Resv → Bool) : (s.dropResv p).tencfg = s.tencfg := rfl
@[simp] theorem State.dropResv_deficits (s : State) (p : Resv → Bool) : (s.dropResv p).deficits = s.deficits := rfl
@[simp] theorem State.dropResv_served (s : State) (p : Resv → Bool) : (s.dropResv p).served = s.served := rfl
@[simp] theorem State.dropResv_holds (s : State) (p : Resv → Bool) : (s.dropResv p).holds = s.holds := rfl
@[simp] theorem State.dropResv_cancels (s : State) (p : Resv → Bool) : (s.dropResv p).cancels = s.cancels := rfl
@[simp] theorem State.dropResv_sweeps (s : State) (p : Resv → Bool) : (s.dropResv p).sweeps = s.sweeps := rfl
@[simp] theorem State.dropResv_portA (s : State) (p : Resv → Bool) : (s.dropResv p).portA = s.portA := rfl
@[simp] theorem State.dropResv_portB (s : State) (p : Resv → Bool) : (s.dropResv p).portB = s.portB := rfl
@[simp] theorem State.dropResv_selfNum (s : State) (p : Resv → Bool) : (s.dropResv p).selfNum = s.selfNum := rfl
@[simp] theorem State.dropResv_selfInc (s : State) (p : Resv → Bool) : (s.dropResv p).selfInc = s.selfInc := rfl
@[simp] theorem State.dropResv_peers (s : State) (p : Resv → Bool) : (s.dropResv p).peers = s.peers := rfl
@[simp] theorem State.dropResv_owedStores (s : State) (p : Resv → Bool) : (s.dropResv p).owedStores = s.owedStores := rfl
@[simp] theorem State.dropResv_exports (s : State) (p : Resv → Bool) : (s.dropResv p).exports = s.exports := rfl
@[simp] theorem State.dropResv_grants (s : State) (p : Resv → Bool) : (s.dropResv p).grants = s.grants := rfl
@[simp] theorem State.dropResv_groups (s : State) (p : Resv → Bool) : (s.dropResv p).groups = s.groups := rfl
@[simp] theorem State.dropResv_island (s : State) (p : Resv → Bool) : (s.dropResv p).island = s.island := rfl
@[simp] theorem State.dropResv_retired (s : State) (p : Resv → Bool) : (s.dropResv p).retired = s.retired := rfl
@[simp] theorem State.dropResv_failing (s : State) (p : Resv → Bool) : (s.dropResv p).failing = s.failing := rfl
@[simp] theorem State.dropResv_halting (s : State) (p : Resv → Bool) : (s.dropResv p).halting = s.halting := rfl
@[simp] theorem State.dropResv_records (s : State) (p : Resv → Bool) : (s.dropResv p).records = s.records := rfl
@[simp] theorem State.dropResv_picks (s : State) (p : Resv → Bool) : (s.dropResv p).picks = s.picks := rfl
@[simp] theorem State.dropResv_turn (s : State) (p : Resv → Bool) : (s.dropResv p).turn = s.turn := rfl
@[simp] theorem State.dropResv_free (s : State) (p : Resv → Bool) : (s.dropResv p).free = s.free := rfl
@[simp] theorem State.dropResv_answers (s : State) (p : Resv → Bool) : (s.dropResv p).answers = s.answers := rfl

/-! One core changes. -/

@[simp] theorem State.putCore_cpu (s : State) (c : Core) : (s.putCore c).cpu = s.cpu := rfl
@[simp] theorem State.putCore_others (s : State) (c : Core) : (s.putCore c).others = s.others := rfl
@[simp] theorem State.putCore_sliceCycles (s : State) (c : Core) : (s.putCore c).sliceCycles = s.sliceCycles := rfl
@[simp] theorem State.putCore_contexts (s : State) (c : Core) : (s.putCore c).contexts = s.contexts := rfl
@[simp] theorem State.putCore_mem (s : State) (c : Core) : (s.putCore c).mem = s.mem := rfl
@[simp] theorem State.putCore_bad (s : State) (c : Core) : (s.putCore c).bad = s.bad := rfl
@[simp] theorem State.putCore_stamps (s : State) (c : Core) : (s.putCore c).stamps = s.stamps := rfl
@[simp] theorem State.putCore_discards (s : State) (c : Core) : (s.putCore c).discards = s.discards := rfl
@[simp] theorem State.putCore_resvs (s : State) (c : Core) : (s.putCore c).resvs = s.resvs := rfl
@[simp] theorem State.putCore_nextRid (s : State) (c : Core) : (s.putCore c).nextRid = s.nextRid := rfl
@[simp] theorem State.putCore_weir (s : State) (c : Core) : (s.putCore c).weir = s.weir := rfl
@[simp] theorem State.putCore_tlb (s : State) (c : Core) : (s.putCore c).tlb = s.tlb := rfl
@[simp] theorem State.putCore_used (s : State) (c : Core) : (s.putCore c).used = s.used := rfl
@[simp] theorem State.putCore_copies (s : State) (c : Core) : (s.putCore c).copies = s.copies := rfl
@[simp] theorem State.putCore_dirs (s : State) (c : Core) : (s.putCore c).dirs = s.dirs := rfl
@[simp] theorem State.putCore_fills (s : State) (c : Core) : (s.putCore c).fills = s.fills := rfl
@[simp] theorem State.putCore_invals (s : State) (c : Core) : (s.putCore c).invals = s.invals := rfl
@[simp] theorem State.putCore_lastInval (s : State) (c : Core) : (s.putCore c).lastInval = s.lastInval := rfl
@[simp] theorem State.putCore_refused (s : State) (c : Core) : (s.putCore c).refused = s.refused := rfl
@[simp] theorem State.putCore_tracked (s : State) (c : Core) : (s.putCore c).tracked = s.tracked := rfl
@[simp] theorem State.putCore_l2 (s : State) (c : Core) : (s.putCore c).l2 = s.l2 := rfl
@[simp] theorem State.putCore_storeClock (s : State) (c : Core) : (s.putCore c).storeClock = s.storeClock := rfl
@[simp] theorem State.putCore_stampWrites (s : State) (c : Core) : (s.putCore c).stampWrites = s.stampWrites := rfl
@[simp] theorem State.putCore_gangs (s : State) (c : Core) : (s.putCore c).gangs = s.gangs := rfl
@[simp] theorem State.putCore_nextGang (s : State) (c : Core) : (s.putCore c).nextGang = s.nextGang := rfl
@[simp] theorem State.putCore_launches (s : State) (c : Core) : (s.putCore c).launches = s.launches := rfl
@[simp] theorem State.putCore_queues (s : State) (c : Core) : (s.putCore c).queues = s.queues := rfl
@[simp] theorem State.putCore_clupart (s : State) (c : Core) : (s.putCore c).clupart = s.clupart := rfl
@[simp] theorem State.putCore_tencfg (s : State) (c : Core) : (s.putCore c).tencfg = s.tencfg := rfl
@[simp] theorem State.putCore_deficits (s : State) (c : Core) : (s.putCore c).deficits = s.deficits := rfl
@[simp] theorem State.putCore_served (s : State) (c : Core) : (s.putCore c).served = s.served := rfl
@[simp] theorem State.putCore_holds (s : State) (c : Core) : (s.putCore c).holds = s.holds := rfl
@[simp] theorem State.putCore_cancels (s : State) (c : Core) : (s.putCore c).cancels = s.cancels := rfl
@[simp] theorem State.putCore_sweeps (s : State) (c : Core) : (s.putCore c).sweeps = s.sweeps := rfl
@[simp] theorem State.putCore_portA (s : State) (c : Core) : (s.putCore c).portA = s.portA := rfl
@[simp] theorem State.putCore_portB (s : State) (c : Core) : (s.putCore c).portB = s.portB := rfl
@[simp] theorem State.putCore_selfNum (s : State) (c : Core) : (s.putCore c).selfNum = s.selfNum := rfl
@[simp] theorem State.putCore_selfInc (s : State) (c : Core) : (s.putCore c).selfInc = s.selfInc := rfl
@[simp] theorem State.putCore_peers (s : State) (c : Core) : (s.putCore c).peers = s.peers := rfl
@[simp] theorem State.putCore_owedStores (s : State) (c : Core) : (s.putCore c).owedStores = s.owedStores := rfl
@[simp] theorem State.putCore_exports (s : State) (c : Core) : (s.putCore c).exports = s.exports := rfl
@[simp] theorem State.putCore_grants (s : State) (c : Core) : (s.putCore c).grants = s.grants := rfl
@[simp] theorem State.putCore_groups (s : State) (c : Core) : (s.putCore c).groups = s.groups := rfl
@[simp] theorem State.putCore_island (s : State) (c : Core) : (s.putCore c).island = s.island := rfl
@[simp] theorem State.putCore_retired (s : State) (c : Core) : (s.putCore c).retired = s.retired := rfl
@[simp] theorem State.putCore_failing (s : State) (c : Core) : (s.putCore c).failing = s.failing := rfl
@[simp] theorem State.putCore_halting (s : State) (c : Core) : (s.putCore c).halting = s.halting := rfl
@[simp] theorem State.putCore_records (s : State) (c : Core) : (s.putCore c).records = s.records := rfl
@[simp] theorem State.putCore_events (s : State) (c : Core) : (s.putCore c).events = s.events := rfl
@[simp] theorem State.putCore_picks (s : State) (c : Core) : (s.putCore c).picks = s.picks := rfl
@[simp] theorem State.putCore_turn (s : State) (c : Core) : (s.putCore c).turn = s.turn := rfl
@[simp] theorem State.putCore_free (s : State) (c : Core) : (s.putCore c).free = s.free := rfl
@[simp] theorem State.putCore_answers (s : State) (c : Core) : (s.putCore c).answers = s.answers := rfl

/-! One gang changes. -/

@[simp] theorem State.putGang_cpu (s : State) (g : Gang) : (s.putGang g).cpu = s.cpu := rfl
@[simp] theorem State.putGang_others (s : State) (g : Gang) : (s.putGang g).others = s.others := rfl
@[simp] theorem State.putGang_cores (s : State) (g : Gang) : (s.putGang g).cores = s.cores := rfl
@[simp] theorem State.putGang_sliceCycles (s : State) (g : Gang) : (s.putGang g).sliceCycles = s.sliceCycles := rfl
@[simp] theorem State.putGang_contexts (s : State) (g : Gang) : (s.putGang g).contexts = s.contexts := rfl
@[simp] theorem State.putGang_mem (s : State) (g : Gang) : (s.putGang g).mem = s.mem := rfl
@[simp] theorem State.putGang_bad (s : State) (g : Gang) : (s.putGang g).bad = s.bad := rfl
@[simp] theorem State.putGang_stamps (s : State) (g : Gang) : (s.putGang g).stamps = s.stamps := rfl
@[simp] theorem State.putGang_discards (s : State) (g : Gang) : (s.putGang g).discards = s.discards := rfl
@[simp] theorem State.putGang_resvs (s : State) (g : Gang) : (s.putGang g).resvs = s.resvs := rfl
@[simp] theorem State.putGang_nextRid (s : State) (g : Gang) : (s.putGang g).nextRid = s.nextRid := rfl
@[simp] theorem State.putGang_weir (s : State) (g : Gang) : (s.putGang g).weir = s.weir := rfl
@[simp] theorem State.putGang_tlb (s : State) (g : Gang) : (s.putGang g).tlb = s.tlb := rfl
@[simp] theorem State.putGang_used (s : State) (g : Gang) : (s.putGang g).used = s.used := rfl
@[simp] theorem State.putGang_copies (s : State) (g : Gang) : (s.putGang g).copies = s.copies := rfl
@[simp] theorem State.putGang_dirs (s : State) (g : Gang) : (s.putGang g).dirs = s.dirs := rfl
@[simp] theorem State.putGang_fills (s : State) (g : Gang) : (s.putGang g).fills = s.fills := rfl
@[simp] theorem State.putGang_invals (s : State) (g : Gang) : (s.putGang g).invals = s.invals := rfl
@[simp] theorem State.putGang_lastInval (s : State) (g : Gang) : (s.putGang g).lastInval = s.lastInval := rfl
@[simp] theorem State.putGang_refused (s : State) (g : Gang) : (s.putGang g).refused = s.refused := rfl
@[simp] theorem State.putGang_tracked (s : State) (g : Gang) : (s.putGang g).tracked = s.tracked := rfl
@[simp] theorem State.putGang_l2 (s : State) (g : Gang) : (s.putGang g).l2 = s.l2 := rfl
@[simp] theorem State.putGang_storeClock (s : State) (g : Gang) : (s.putGang g).storeClock = s.storeClock := rfl
@[simp] theorem State.putGang_stampWrites (s : State) (g : Gang) : (s.putGang g).stampWrites = s.stampWrites := rfl
@[simp] theorem State.putGang_nextGang (s : State) (g : Gang) : (s.putGang g).nextGang = s.nextGang := rfl
@[simp] theorem State.putGang_launches (s : State) (g : Gang) : (s.putGang g).launches = s.launches := rfl
@[simp] theorem State.putGang_queues (s : State) (g : Gang) : (s.putGang g).queues = s.queues := rfl
@[simp] theorem State.putGang_clupart (s : State) (g : Gang) : (s.putGang g).clupart = s.clupart := rfl
@[simp] theorem State.putGang_tencfg (s : State) (g : Gang) : (s.putGang g).tencfg = s.tencfg := rfl
@[simp] theorem State.putGang_deficits (s : State) (g : Gang) : (s.putGang g).deficits = s.deficits := rfl
@[simp] theorem State.putGang_served (s : State) (g : Gang) : (s.putGang g).served = s.served := rfl
@[simp] theorem State.putGang_holds (s : State) (g : Gang) : (s.putGang g).holds = s.holds := rfl
@[simp] theorem State.putGang_cancels (s : State) (g : Gang) : (s.putGang g).cancels = s.cancels := rfl
@[simp] theorem State.putGang_sweeps (s : State) (g : Gang) : (s.putGang g).sweeps = s.sweeps := rfl
@[simp] theorem State.putGang_portA (s : State) (g : Gang) : (s.putGang g).portA = s.portA := rfl
@[simp] theorem State.putGang_portB (s : State) (g : Gang) : (s.putGang g).portB = s.portB := rfl
@[simp] theorem State.putGang_selfNum (s : State) (g : Gang) : (s.putGang g).selfNum = s.selfNum := rfl
@[simp] theorem State.putGang_selfInc (s : State) (g : Gang) : (s.putGang g).selfInc = s.selfInc := rfl
@[simp] theorem State.putGang_peers (s : State) (g : Gang) : (s.putGang g).peers = s.peers := rfl
@[simp] theorem State.putGang_owedStores (s : State) (g : Gang) : (s.putGang g).owedStores = s.owedStores := rfl
@[simp] theorem State.putGang_exports (s : State) (g : Gang) : (s.putGang g).exports = s.exports := rfl
@[simp] theorem State.putGang_grants (s : State) (g : Gang) : (s.putGang g).grants = s.grants := rfl
@[simp] theorem State.putGang_groups (s : State) (g : Gang) : (s.putGang g).groups = s.groups := rfl
@[simp] theorem State.putGang_island (s : State) (g : Gang) : (s.putGang g).island = s.island := rfl
@[simp] theorem State.putGang_retired (s : State) (g : Gang) : (s.putGang g).retired = s.retired := rfl
@[simp] theorem State.putGang_failing (s : State) (g : Gang) : (s.putGang g).failing = s.failing := rfl
@[simp] theorem State.putGang_halting (s : State) (g : Gang) : (s.putGang g).halting = s.halting := rfl
@[simp] theorem State.putGang_records (s : State) (g : Gang) : (s.putGang g).records = s.records := rfl
@[simp] theorem State.putGang_events (s : State) (g : Gang) : (s.putGang g).events = s.events := rfl
@[simp] theorem State.putGang_picks (s : State) (g : Gang) : (s.putGang g).picks = s.picks := rfl
@[simp] theorem State.putGang_turn (s : State) (g : Gang) : (s.putGang g).turn = s.turn := rfl
@[simp] theorem State.putGang_free (s : State) (g : Gang) : (s.putGang g).free = s.free := rfl
@[simp] theorem State.putGang_answers (s : State) (g : Gang) : (s.putGang g).answers = s.answers := rfl

/-! One directory entry changes (R171). -/

@[simp] theorem State.putDir_cpu (s : State) (d : DirEntry) : (s.putDir d).cpu = s.cpu := rfl
@[simp] theorem State.putDir_others (s : State) (d : DirEntry) : (s.putDir d).others = s.others := rfl
@[simp] theorem State.putDir_cores (s : State) (d : DirEntry) : (s.putDir d).cores = s.cores := rfl
@[simp] theorem State.putDir_sliceCycles (s : State) (d : DirEntry) : (s.putDir d).sliceCycles = s.sliceCycles := rfl
@[simp] theorem State.putDir_contexts (s : State) (d : DirEntry) : (s.putDir d).contexts = s.contexts := rfl
@[simp] theorem State.putDir_mem (s : State) (d : DirEntry) : (s.putDir d).mem = s.mem := rfl
@[simp] theorem State.putDir_bad (s : State) (d : DirEntry) : (s.putDir d).bad = s.bad := rfl
@[simp] theorem State.putDir_stamps (s : State) (d : DirEntry) : (s.putDir d).stamps = s.stamps := rfl
@[simp] theorem State.putDir_discards (s : State) (d : DirEntry) : (s.putDir d).discards = s.discards := rfl
@[simp] theorem State.putDir_resvs (s : State) (d : DirEntry) : (s.putDir d).resvs = s.resvs := rfl
@[simp] theorem State.putDir_nextRid (s : State) (d : DirEntry) : (s.putDir d).nextRid = s.nextRid := rfl
@[simp] theorem State.putDir_weir (s : State) (d : DirEntry) : (s.putDir d).weir = s.weir := rfl
@[simp] theorem State.putDir_tlb (s : State) (d : DirEntry) : (s.putDir d).tlb = s.tlb := rfl
@[simp] theorem State.putDir_used (s : State) (d : DirEntry) : (s.putDir d).used = s.used := rfl
@[simp] theorem State.putDir_copies (s : State) (d : DirEntry) : (s.putDir d).copies = s.copies := rfl
@[simp] theorem State.putDir_fills (s : State) (d : DirEntry) : (s.putDir d).fills = s.fills := rfl
@[simp] theorem State.putDir_invals (s : State) (d : DirEntry) : (s.putDir d).invals = s.invals := rfl
@[simp] theorem State.putDir_lastInval (s : State) (d : DirEntry) : (s.putDir d).lastInval = s.lastInval := rfl
@[simp] theorem State.putDir_refused (s : State) (d : DirEntry) : (s.putDir d).refused = s.refused := rfl
@[simp] theorem State.putDir_tracked (s : State) (d : DirEntry) : (s.putDir d).tracked = s.tracked := rfl
@[simp] theorem State.putDir_l2 (s : State) (d : DirEntry) : (s.putDir d).l2 = s.l2 := rfl
@[simp] theorem State.putDir_storeClock (s : State) (d : DirEntry) : (s.putDir d).storeClock = s.storeClock := rfl
@[simp] theorem State.putDir_stampWrites (s : State) (d : DirEntry) : (s.putDir d).stampWrites = s.stampWrites := rfl
@[simp] theorem State.putDir_gangs (s : State) (d : DirEntry) : (s.putDir d).gangs = s.gangs := rfl
@[simp] theorem State.putDir_nextGang (s : State) (d : DirEntry) : (s.putDir d).nextGang = s.nextGang := rfl
@[simp] theorem State.putDir_launches (s : State) (d : DirEntry) : (s.putDir d).launches = s.launches := rfl
@[simp] theorem State.putDir_queues (s : State) (d : DirEntry) : (s.putDir d).queues = s.queues := rfl
@[simp] theorem State.putDir_clupart (s : State) (d : DirEntry) : (s.putDir d).clupart = s.clupart := rfl
@[simp] theorem State.putDir_tencfg (s : State) (d : DirEntry) : (s.putDir d).tencfg = s.tencfg := rfl
@[simp] theorem State.putDir_deficits (s : State) (d : DirEntry) : (s.putDir d).deficits = s.deficits := rfl
@[simp] theorem State.putDir_served (s : State) (d : DirEntry) : (s.putDir d).served = s.served := rfl
@[simp] theorem State.putDir_holds (s : State) (d : DirEntry) : (s.putDir d).holds = s.holds := rfl
@[simp] theorem State.putDir_cancels (s : State) (d : DirEntry) : (s.putDir d).cancels = s.cancels := rfl
@[simp] theorem State.putDir_sweeps (s : State) (d : DirEntry) : (s.putDir d).sweeps = s.sweeps := rfl
@[simp] theorem State.putDir_portA (s : State) (d : DirEntry) : (s.putDir d).portA = s.portA := rfl
@[simp] theorem State.putDir_portB (s : State) (d : DirEntry) : (s.putDir d).portB = s.portB := rfl
@[simp] theorem State.putDir_selfNum (s : State) (d : DirEntry) : (s.putDir d).selfNum = s.selfNum := rfl
@[simp] theorem State.putDir_selfInc (s : State) (d : DirEntry) : (s.putDir d).selfInc = s.selfInc := rfl
@[simp] theorem State.putDir_peers (s : State) (d : DirEntry) : (s.putDir d).peers = s.peers := rfl
@[simp] theorem State.putDir_owedStores (s : State) (d : DirEntry) : (s.putDir d).owedStores = s.owedStores := rfl
@[simp] theorem State.putDir_exports (s : State) (d : DirEntry) : (s.putDir d).exports = s.exports := rfl
@[simp] theorem State.putDir_grants (s : State) (d : DirEntry) : (s.putDir d).grants = s.grants := rfl
@[simp] theorem State.putDir_groups (s : State) (d : DirEntry) : (s.putDir d).groups = s.groups := rfl
@[simp] theorem State.putDir_island (s : State) (d : DirEntry) : (s.putDir d).island = s.island := rfl
@[simp] theorem State.putDir_retired (s : State) (d : DirEntry) : (s.putDir d).retired = s.retired := rfl
@[simp] theorem State.putDir_failing (s : State) (d : DirEntry) : (s.putDir d).failing = s.failing := rfl
@[simp] theorem State.putDir_halting (s : State) (d : DirEntry) : (s.putDir d).halting = s.halting := rfl
@[simp] theorem State.putDir_records (s : State) (d : DirEntry) : (s.putDir d).records = s.records := rfl
@[simp] theorem State.putDir_events (s : State) (d : DirEntry) : (s.putDir d).events = s.events := rfl
@[simp] theorem State.putDir_picks (s : State) (d : DirEntry) : (s.putDir d).picks = s.picks := rfl
@[simp] theorem State.putDir_turn (s : State) (d : DirEntry) : (s.putDir d).turn = s.turn := rfl
@[simp] theorem State.putDir_free (s : State) (d : DirEntry) : (s.putDir d).free = s.free := rfl
@[simp] theorem State.putDir_answers (s : State) (d : DirEntry) : (s.putDir d).answers = s.answers := rfl

/-! One sweep changes (R379). -/

@[simp] theorem State.putSweep_cpu (s : State) (w : Sweep) : (s.putSweep w).cpu = s.cpu := rfl
@[simp] theorem State.putSweep_others (s : State) (w : Sweep) : (s.putSweep w).others = s.others := rfl
@[simp] theorem State.putSweep_cores (s : State) (w : Sweep) : (s.putSweep w).cores = s.cores := rfl
@[simp] theorem State.putSweep_sliceCycles (s : State) (w : Sweep) : (s.putSweep w).sliceCycles = s.sliceCycles := rfl
@[simp] theorem State.putSweep_contexts (s : State) (w : Sweep) : (s.putSweep w).contexts = s.contexts := rfl
@[simp] theorem State.putSweep_mem (s : State) (w : Sweep) : (s.putSweep w).mem = s.mem := rfl
@[simp] theorem State.putSweep_bad (s : State) (w : Sweep) : (s.putSweep w).bad = s.bad := rfl
@[simp] theorem State.putSweep_stamps (s : State) (w : Sweep) : (s.putSweep w).stamps = s.stamps := rfl
@[simp] theorem State.putSweep_discards (s : State) (w : Sweep) : (s.putSweep w).discards = s.discards := rfl
@[simp] theorem State.putSweep_resvs (s : State) (w : Sweep) : (s.putSweep w).resvs = s.resvs := rfl
@[simp] theorem State.putSweep_nextRid (s : State) (w : Sweep) : (s.putSweep w).nextRid = s.nextRid := rfl
@[simp] theorem State.putSweep_weir (s : State) (w : Sweep) : (s.putSweep w).weir = s.weir := rfl
@[simp] theorem State.putSweep_tlb (s : State) (w : Sweep) : (s.putSweep w).tlb = s.tlb := rfl
@[simp] theorem State.putSweep_used (s : State) (w : Sweep) : (s.putSweep w).used = s.used := rfl
@[simp] theorem State.putSweep_copies (s : State) (w : Sweep) : (s.putSweep w).copies = s.copies := rfl
@[simp] theorem State.putSweep_dirs (s : State) (w : Sweep) : (s.putSweep w).dirs = s.dirs := rfl
@[simp] theorem State.putSweep_fills (s : State) (w : Sweep) : (s.putSweep w).fills = s.fills := rfl
@[simp] theorem State.putSweep_invals (s : State) (w : Sweep) : (s.putSweep w).invals = s.invals := rfl
@[simp] theorem State.putSweep_lastInval (s : State) (w : Sweep) : (s.putSweep w).lastInval = s.lastInval := rfl
@[simp] theorem State.putSweep_refused (s : State) (w : Sweep) : (s.putSweep w).refused = s.refused := rfl
@[simp] theorem State.putSweep_tracked (s : State) (w : Sweep) : (s.putSweep w).tracked = s.tracked := rfl
@[simp] theorem State.putSweep_l2 (s : State) (w : Sweep) : (s.putSweep w).l2 = s.l2 := rfl
@[simp] theorem State.putSweep_storeClock (s : State) (w : Sweep) : (s.putSweep w).storeClock = s.storeClock := rfl
@[simp] theorem State.putSweep_stampWrites (s : State) (w : Sweep) : (s.putSweep w).stampWrites = s.stampWrites := rfl
@[simp] theorem State.putSweep_gangs (s : State) (w : Sweep) : (s.putSweep w).gangs = s.gangs := rfl
@[simp] theorem State.putSweep_nextGang (s : State) (w : Sweep) : (s.putSweep w).nextGang = s.nextGang := rfl
@[simp] theorem State.putSweep_launches (s : State) (w : Sweep) : (s.putSweep w).launches = s.launches := rfl
@[simp] theorem State.putSweep_queues (s : State) (w : Sweep) : (s.putSweep w).queues = s.queues := rfl
@[simp] theorem State.putSweep_clupart (s : State) (w : Sweep) : (s.putSweep w).clupart = s.clupart := rfl
@[simp] theorem State.putSweep_tencfg (s : State) (w : Sweep) : (s.putSweep w).tencfg = s.tencfg := rfl
@[simp] theorem State.putSweep_deficits (s : State) (w : Sweep) : (s.putSweep w).deficits = s.deficits := rfl
@[simp] theorem State.putSweep_served (s : State) (w : Sweep) : (s.putSweep w).served = s.served := rfl
@[simp] theorem State.putSweep_holds (s : State) (w : Sweep) : (s.putSweep w).holds = s.holds := rfl
@[simp] theorem State.putSweep_cancels (s : State) (w : Sweep) : (s.putSweep w).cancels = s.cancels := rfl
@[simp] theorem State.putSweep_portA (s : State) (w : Sweep) : (s.putSweep w).portA = s.portA := rfl
@[simp] theorem State.putSweep_portB (s : State) (w : Sweep) : (s.putSweep w).portB = s.portB := rfl
@[simp] theorem State.putSweep_selfNum (s : State) (w : Sweep) : (s.putSweep w).selfNum = s.selfNum := rfl
@[simp] theorem State.putSweep_selfInc (s : State) (w : Sweep) : (s.putSweep w).selfInc = s.selfInc := rfl
@[simp] theorem State.putSweep_peers (s : State) (w : Sweep) : (s.putSweep w).peers = s.peers := rfl
@[simp] theorem State.putSweep_owedStores (s : State) (w : Sweep) : (s.putSweep w).owedStores = s.owedStores := rfl
@[simp] theorem State.putSweep_exports (s : State) (w : Sweep) : (s.putSweep w).exports = s.exports := rfl
@[simp] theorem State.putSweep_grants (s : State) (w : Sweep) : (s.putSweep w).grants = s.grants := rfl
@[simp] theorem State.putSweep_groups (s : State) (w : Sweep) : (s.putSweep w).groups = s.groups := rfl
@[simp] theorem State.putSweep_island (s : State) (w : Sweep) : (s.putSweep w).island = s.island := rfl
@[simp] theorem State.putSweep_retired (s : State) (w : Sweep) : (s.putSweep w).retired = s.retired := rfl
@[simp] theorem State.putSweep_failing (s : State) (w : Sweep) : (s.putSweep w).failing = s.failing := rfl
@[simp] theorem State.putSweep_halting (s : State) (w : Sweep) : (s.putSweep w).halting = s.halting := rfl
@[simp] theorem State.putSweep_records (s : State) (w : Sweep) : (s.putSweep w).records = s.records := rfl
@[simp] theorem State.putSweep_events (s : State) (w : Sweep) : (s.putSweep w).events = s.events := rfl
@[simp] theorem State.putSweep_picks (s : State) (w : Sweep) : (s.putSweep w).picks = s.picks := rfl
@[simp] theorem State.putSweep_turn (s : State) (w : Sweep) : (s.putSweep w).turn = s.turn := rfl
@[simp] theorem State.putSweep_free (s : State) (w : Sweep) : (s.putSweep w).free = s.free := rfl
@[simp] theorem State.putSweep_answers (s : State) (w : Sweep) : (s.putSweep w).answers = s.answers := rfl

/-! Something is to happen later. -/

@[simp] theorem State.post_cpu (s : State) (e : Instr) : (s.post e).cpu = s.cpu := rfl
@[simp] theorem State.post_others (s : State) (e : Instr) : (s.post e).others = s.others := rfl
@[simp] theorem State.post_cores (s : State) (e : Instr) : (s.post e).cores = s.cores := rfl
@[simp] theorem State.post_sliceCycles (s : State) (e : Instr) : (s.post e).sliceCycles = s.sliceCycles := rfl
@[simp] theorem State.post_contexts (s : State) (e : Instr) : (s.post e).contexts = s.contexts := rfl
@[simp] theorem State.post_mem (s : State) (e : Instr) : (s.post e).mem = s.mem := rfl
@[simp] theorem State.post_bad (s : State) (e : Instr) : (s.post e).bad = s.bad := rfl
@[simp] theorem State.post_stamps (s : State) (e : Instr) : (s.post e).stamps = s.stamps := rfl
@[simp] theorem State.post_discards (s : State) (e : Instr) : (s.post e).discards = s.discards := rfl
@[simp] theorem State.post_resvs (s : State) (e : Instr) : (s.post e).resvs = s.resvs := rfl
@[simp] theorem State.post_nextRid (s : State) (e : Instr) : (s.post e).nextRid = s.nextRid := rfl
@[simp] theorem State.post_weir (s : State) (e : Instr) : (s.post e).weir = s.weir := rfl
@[simp] theorem State.post_tlb (s : State) (e : Instr) : (s.post e).tlb = s.tlb := rfl
@[simp] theorem State.post_used (s : State) (e : Instr) : (s.post e).used = s.used := rfl
@[simp] theorem State.post_copies (s : State) (e : Instr) : (s.post e).copies = s.copies := rfl
@[simp] theorem State.post_dirs (s : State) (e : Instr) : (s.post e).dirs = s.dirs := rfl
@[simp] theorem State.post_fills (s : State) (e : Instr) : (s.post e).fills = s.fills := rfl
@[simp] theorem State.post_invals (s : State) (e : Instr) : (s.post e).invals = s.invals := rfl
@[simp] theorem State.post_lastInval (s : State) (e : Instr) : (s.post e).lastInval = s.lastInval := rfl
@[simp] theorem State.post_refused (s : State) (e : Instr) : (s.post e).refused = s.refused := rfl
@[simp] theorem State.post_tracked (s : State) (e : Instr) : (s.post e).tracked = s.tracked := rfl
@[simp] theorem State.post_l2 (s : State) (e : Instr) : (s.post e).l2 = s.l2 := rfl
@[simp] theorem State.post_storeClock (s : State) (e : Instr) : (s.post e).storeClock = s.storeClock := rfl
@[simp] theorem State.post_stampWrites (s : State) (e : Instr) : (s.post e).stampWrites = s.stampWrites := rfl
@[simp] theorem State.post_gangs (s : State) (e : Instr) : (s.post e).gangs = s.gangs := rfl
@[simp] theorem State.post_nextGang (s : State) (e : Instr) : (s.post e).nextGang = s.nextGang := rfl
@[simp] theorem State.post_launches (s : State) (e : Instr) : (s.post e).launches = s.launches := rfl
@[simp] theorem State.post_queues (s : State) (e : Instr) : (s.post e).queues = s.queues := rfl
@[simp] theorem State.post_clupart (s : State) (e : Instr) : (s.post e).clupart = s.clupart := rfl
@[simp] theorem State.post_tencfg (s : State) (e : Instr) : (s.post e).tencfg = s.tencfg := rfl
@[simp] theorem State.post_deficits (s : State) (e : Instr) : (s.post e).deficits = s.deficits := rfl
@[simp] theorem State.post_served (s : State) (e : Instr) : (s.post e).served = s.served := rfl
@[simp] theorem State.post_holds (s : State) (e : Instr) : (s.post e).holds = s.holds := rfl
@[simp] theorem State.post_cancels (s : State) (e : Instr) : (s.post e).cancels = s.cancels := rfl
@[simp] theorem State.post_sweeps (s : State) (e : Instr) : (s.post e).sweeps = s.sweeps := rfl
@[simp] theorem State.post_portA (s : State) (e : Instr) : (s.post e).portA = s.portA := rfl
@[simp] theorem State.post_portB (s : State) (e : Instr) : (s.post e).portB = s.portB := rfl
@[simp] theorem State.post_selfNum (s : State) (e : Instr) : (s.post e).selfNum = s.selfNum := rfl
@[simp] theorem State.post_selfInc (s : State) (e : Instr) : (s.post e).selfInc = s.selfInc := rfl
@[simp] theorem State.post_peers (s : State) (e : Instr) : (s.post e).peers = s.peers := rfl
@[simp] theorem State.post_owedStores (s : State) (e : Instr) : (s.post e).owedStores = s.owedStores := rfl
@[simp] theorem State.post_exports (s : State) (e : Instr) : (s.post e).exports = s.exports := rfl
@[simp] theorem State.post_grants (s : State) (e : Instr) : (s.post e).grants = s.grants := rfl
@[simp] theorem State.post_groups (s : State) (e : Instr) : (s.post e).groups = s.groups := rfl
@[simp] theorem State.post_island (s : State) (e : Instr) : (s.post e).island = s.island := rfl
@[simp] theorem State.post_retired (s : State) (e : Instr) : (s.post e).retired = s.retired := rfl
@[simp] theorem State.post_failing (s : State) (e : Instr) : (s.post e).failing = s.failing := rfl
@[simp] theorem State.post_halting (s : State) (e : Instr) : (s.post e).halting = s.halting := rfl
@[simp] theorem State.post_records (s : State) (e : Instr) : (s.post e).records = s.records := rfl
@[simp] theorem State.post_picks (s : State) (e : Instr) : (s.post e).picks = s.picks := rfl
@[simp] theorem State.post_turn (s : State) (e : Instr) : (s.post e).turn = s.turn := rfl
@[simp] theorem State.post_free (s : State) (e : Instr) : (s.post e).free = s.free := rfl
@[simp] theorem State.post_answers (s : State) (e : Instr) : (s.post e).answers = s.answers := rfl

/-! A refused request is served (R177). -/

@[simp] theorem State.served'_cpu (s : State) (k : Nat) (w : Want) : (s.served' k w).cpu = s.cpu := rfl
@[simp] theorem State.served'_others (s : State) (k : Nat) (w : Want) : (s.served' k w).others = s.others := rfl
@[simp] theorem State.served'_cores (s : State) (k : Nat) (w : Want) : (s.served' k w).cores = s.cores := rfl
@[simp] theorem State.served'_sliceCycles (s : State) (k : Nat) (w : Want) : (s.served' k w).sliceCycles = s.sliceCycles := rfl
@[simp] theorem State.served'_contexts (s : State) (k : Nat) (w : Want) : (s.served' k w).contexts = s.contexts := rfl
@[simp] theorem State.served'_mem (s : State) (k : Nat) (w : Want) : (s.served' k w).mem = s.mem := rfl
@[simp] theorem State.served'_bad (s : State) (k : Nat) (w : Want) : (s.served' k w).bad = s.bad := rfl
@[simp] theorem State.served'_stamps (s : State) (k : Nat) (w : Want) : (s.served' k w).stamps = s.stamps := rfl
@[simp] theorem State.served'_discards (s : State) (k : Nat) (w : Want) : (s.served' k w).discards = s.discards := rfl
@[simp] theorem State.served'_resvs (s : State) (k : Nat) (w : Want) : (s.served' k w).resvs = s.resvs := rfl
@[simp] theorem State.served'_nextRid (s : State) (k : Nat) (w : Want) : (s.served' k w).nextRid = s.nextRid := rfl
@[simp] theorem State.served'_weir (s : State) (k : Nat) (w : Want) : (s.served' k w).weir = s.weir := rfl
@[simp] theorem State.served'_tlb (s : State) (k : Nat) (w : Want) : (s.served' k w).tlb = s.tlb := rfl
@[simp] theorem State.served'_used (s : State) (k : Nat) (w : Want) : (s.served' k w).used = s.used := rfl
@[simp] theorem State.served'_copies (s : State) (k : Nat) (w : Want) : (s.served' k w).copies = s.copies := rfl
@[simp] theorem State.served'_dirs (s : State) (k : Nat) (w : Want) : (s.served' k w).dirs = s.dirs := rfl
@[simp] theorem State.served'_fills (s : State) (k : Nat) (w : Want) : (s.served' k w).fills = s.fills := rfl
@[simp] theorem State.served'_invals (s : State) (k : Nat) (w : Want) : (s.served' k w).invals = s.invals := rfl
@[simp] theorem State.served'_lastInval (s : State) (k : Nat) (w : Want) : (s.served' k w).lastInval = s.lastInval := rfl
@[simp] theorem State.served'_tracked (s : State) (k : Nat) (w : Want) : (s.served' k w).tracked = s.tracked := rfl
@[simp] theorem State.served'_l2 (s : State) (k : Nat) (w : Want) : (s.served' k w).l2 = s.l2 := rfl
@[simp] theorem State.served'_storeClock (s : State) (k : Nat) (w : Want) : (s.served' k w).storeClock = s.storeClock := rfl
@[simp] theorem State.served'_stampWrites (s : State) (k : Nat) (w : Want) : (s.served' k w).stampWrites = s.stampWrites := rfl
@[simp] theorem State.served'_gangs (s : State) (k : Nat) (w : Want) : (s.served' k w).gangs = s.gangs := rfl
@[simp] theorem State.served'_nextGang (s : State) (k : Nat) (w : Want) : (s.served' k w).nextGang = s.nextGang := rfl
@[simp] theorem State.served'_launches (s : State) (k : Nat) (w : Want) : (s.served' k w).launches = s.launches := rfl
@[simp] theorem State.served'_queues (s : State) (k : Nat) (w : Want) : (s.served' k w).queues = s.queues := rfl
@[simp] theorem State.served'_clupart (s : State) (k : Nat) (w : Want) : (s.served' k w).clupart = s.clupart := rfl
@[simp] theorem State.served'_tencfg (s : State) (k : Nat) (w : Want) : (s.served' k w).tencfg = s.tencfg := rfl
@[simp] theorem State.served'_deficits (s : State) (k : Nat) (w : Want) : (s.served' k w).deficits = s.deficits := rfl
@[simp] theorem State.served'_served (s : State) (k : Nat) (w : Want) : (s.served' k w).served = s.served := rfl
@[simp] theorem State.served'_holds (s : State) (k : Nat) (w : Want) : (s.served' k w).holds = s.holds := rfl
@[simp] theorem State.served'_cancels (s : State) (k : Nat) (w : Want) : (s.served' k w).cancels = s.cancels := rfl
@[simp] theorem State.served'_sweeps (s : State) (k : Nat) (w : Want) : (s.served' k w).sweeps = s.sweeps := rfl
@[simp] theorem State.served'_portA (s : State) (k : Nat) (w : Want) : (s.served' k w).portA = s.portA := rfl
@[simp] theorem State.served'_portB (s : State) (k : Nat) (w : Want) : (s.served' k w).portB = s.portB := rfl
@[simp] theorem State.served'_selfNum (s : State) (k : Nat) (w : Want) : (s.served' k w).selfNum = s.selfNum := rfl
@[simp] theorem State.served'_selfInc (s : State) (k : Nat) (w : Want) : (s.served' k w).selfInc = s.selfInc := rfl
@[simp] theorem State.served'_peers (s : State) (k : Nat) (w : Want) : (s.served' k w).peers = s.peers := rfl
@[simp] theorem State.served'_owedStores (s : State) (k : Nat) (w : Want) : (s.served' k w).owedStores = s.owedStores := rfl
@[simp] theorem State.served'_exports (s : State) (k : Nat) (w : Want) : (s.served' k w).exports = s.exports := rfl
@[simp] theorem State.served'_grants (s : State) (k : Nat) (w : Want) : (s.served' k w).grants = s.grants := rfl
@[simp] theorem State.served'_groups (s : State) (k : Nat) (w : Want) : (s.served' k w).groups = s.groups := rfl
@[simp] theorem State.served'_island (s : State) (k : Nat) (w : Want) : (s.served' k w).island = s.island := rfl
@[simp] theorem State.served'_retired (s : State) (k : Nat) (w : Want) : (s.served' k w).retired = s.retired := rfl
@[simp] theorem State.served'_failing (s : State) (k : Nat) (w : Want) : (s.served' k w).failing = s.failing := rfl
@[simp] theorem State.served'_halting (s : State) (k : Nat) (w : Want) : (s.served' k w).halting = s.halting := rfl
@[simp] theorem State.served'_records (s : State) (k : Nat) (w : Want) : (s.served' k w).records = s.records := rfl
@[simp] theorem State.served'_events (s : State) (k : Nat) (w : Want) : (s.served' k w).events = s.events := rfl
@[simp] theorem State.served'_picks (s : State) (k : Nat) (w : Want) : (s.served' k w).picks = s.picks := rfl
@[simp] theorem State.served'_turn (s : State) (k : Nat) (w : Want) : (s.served' k w).turn = s.turn := rfl
@[simp] theorem State.served'_free (s : State) (k : Nat) (w : Want) : (s.served' k w).free = s.free := rfl
@[simp] theorem State.served'_answers (s : State) (k : Nat) (w : Want) : (s.served' k w).answers = s.answers := rfl

/-! A tracked copy (R170). -/

@[simp] theorem State.holdGrain_cpu (s : State) (h : Held) : (s.holdGrain h).cpu = s.cpu := rfl
@[simp] theorem State.holdGrain_others (s : State) (h : Held) : (s.holdGrain h).others = s.others := rfl
@[simp] theorem State.holdGrain_cores (s : State) (h : Held) : (s.holdGrain h).cores = s.cores := rfl
@[simp] theorem State.holdGrain_sliceCycles (s : State) (h : Held) : (s.holdGrain h).sliceCycles = s.sliceCycles := rfl
@[simp] theorem State.holdGrain_contexts (s : State) (h : Held) : (s.holdGrain h).contexts = s.contexts := rfl
@[simp] theorem State.holdGrain_mem (s : State) (h : Held) : (s.holdGrain h).mem = s.mem := rfl
@[simp] theorem State.holdGrain_bad (s : State) (h : Held) : (s.holdGrain h).bad = s.bad := rfl
@[simp] theorem State.holdGrain_stamps (s : State) (h : Held) : (s.holdGrain h).stamps = s.stamps := rfl
@[simp] theorem State.holdGrain_discards (s : State) (h : Held) : (s.holdGrain h).discards = s.discards := rfl
@[simp] theorem State.holdGrain_resvs (s : State) (h : Held) : (s.holdGrain h).resvs = s.resvs := rfl
@[simp] theorem State.holdGrain_nextRid (s : State) (h : Held) : (s.holdGrain h).nextRid = s.nextRid := rfl
@[simp] theorem State.holdGrain_weir (s : State) (h : Held) : (s.holdGrain h).weir = s.weir := rfl
@[simp] theorem State.holdGrain_tlb (s : State) (h : Held) : (s.holdGrain h).tlb = s.tlb := rfl
@[simp] theorem State.holdGrain_used (s : State) (h : Held) : (s.holdGrain h).used = s.used := rfl
@[simp] theorem State.holdGrain_copies (s : State) (h : Held) : (s.holdGrain h).copies = s.copies := rfl
@[simp] theorem State.holdGrain_dirs (s : State) (h : Held) : (s.holdGrain h).dirs = s.dirs := rfl
@[simp] theorem State.holdGrain_fills (s : State) (h : Held) : (s.holdGrain h).fills = s.fills := rfl
@[simp] theorem State.holdGrain_invals (s : State) (h : Held) : (s.holdGrain h).invals = s.invals := rfl
@[simp] theorem State.holdGrain_lastInval (s : State) (h : Held) : (s.holdGrain h).lastInval = s.lastInval := rfl
@[simp] theorem State.holdGrain_refused (s : State) (h : Held) : (s.holdGrain h).refused = s.refused := rfl
@[simp] theorem State.holdGrain_l2 (s : State) (h : Held) : (s.holdGrain h).l2 = s.l2 := rfl
@[simp] theorem State.holdGrain_storeClock (s : State) (h : Held) : (s.holdGrain h).storeClock = s.storeClock := rfl
@[simp] theorem State.holdGrain_stampWrites (s : State) (h : Held) : (s.holdGrain h).stampWrites = s.stampWrites := rfl
@[simp] theorem State.holdGrain_gangs (s : State) (h : Held) : (s.holdGrain h).gangs = s.gangs := rfl
@[simp] theorem State.holdGrain_nextGang (s : State) (h : Held) : (s.holdGrain h).nextGang = s.nextGang := rfl
@[simp] theorem State.holdGrain_launches (s : State) (h : Held) : (s.holdGrain h).launches = s.launches := rfl
@[simp] theorem State.holdGrain_queues (s : State) (h : Held) : (s.holdGrain h).queues = s.queues := rfl
@[simp] theorem State.holdGrain_clupart (s : State) (h : Held) : (s.holdGrain h).clupart = s.clupart := rfl
@[simp] theorem State.holdGrain_tencfg (s : State) (h : Held) : (s.holdGrain h).tencfg = s.tencfg := rfl
@[simp] theorem State.holdGrain_deficits (s : State) (h : Held) : (s.holdGrain h).deficits = s.deficits := rfl
@[simp] theorem State.holdGrain_served (s : State) (h : Held) : (s.holdGrain h).served = s.served := rfl
@[simp] theorem State.holdGrain_holds (s : State) (h : Held) : (s.holdGrain h).holds = s.holds := rfl
@[simp] theorem State.holdGrain_cancels (s : State) (h : Held) : (s.holdGrain h).cancels = s.cancels := rfl
@[simp] theorem State.holdGrain_sweeps (s : State) (h : Held) : (s.holdGrain h).sweeps = s.sweeps := rfl
@[simp] theorem State.holdGrain_portA (s : State) (h : Held) : (s.holdGrain h).portA = s.portA := rfl
@[simp] theorem State.holdGrain_portB (s : State) (h : Held) : (s.holdGrain h).portB = s.portB := rfl
@[simp] theorem State.holdGrain_selfNum (s : State) (h : Held) : (s.holdGrain h).selfNum = s.selfNum := rfl
@[simp] theorem State.holdGrain_selfInc (s : State) (h : Held) : (s.holdGrain h).selfInc = s.selfInc := rfl
@[simp] theorem State.holdGrain_peers (s : State) (h : Held) : (s.holdGrain h).peers = s.peers := rfl
@[simp] theorem State.holdGrain_owedStores (s : State) (h : Held) : (s.holdGrain h).owedStores = s.owedStores := rfl
@[simp] theorem State.holdGrain_exports (s : State) (h : Held) : (s.holdGrain h).exports = s.exports := rfl
@[simp] theorem State.holdGrain_grants (s : State) (h : Held) : (s.holdGrain h).grants = s.grants := rfl
@[simp] theorem State.holdGrain_groups (s : State) (h : Held) : (s.holdGrain h).groups = s.groups := rfl
@[simp] theorem State.holdGrain_island (s : State) (h : Held) : (s.holdGrain h).island = s.island := rfl
@[simp] theorem State.holdGrain_retired (s : State) (h : Held) : (s.holdGrain h).retired = s.retired := rfl
@[simp] theorem State.holdGrain_failing (s : State) (h : Held) : (s.holdGrain h).failing = s.failing := rfl
@[simp] theorem State.holdGrain_halting (s : State) (h : Held) : (s.holdGrain h).halting = s.halting := rfl
@[simp] theorem State.holdGrain_records (s : State) (h : Held) : (s.holdGrain h).records = s.records := rfl
@[simp] theorem State.holdGrain_events (s : State) (h : Held) : (s.holdGrain h).events = s.events := rfl
@[simp] theorem State.holdGrain_picks (s : State) (h : Held) : (s.holdGrain h).picks = s.picks := rfl
@[simp] theorem State.holdGrain_turn (s : State) (h : Held) : (s.holdGrain h).turn = s.turn := rfl
@[simp] theorem State.holdGrain_free (s : State) (h : Held) : (s.holdGrain h).free = s.free := rfl
@[simp] theorem State.holdGrain_answers (s : State) (h : Held) : (s.holdGrain h).answers = s.answers := rfl

/-! Copies of a die see a write of the die (R180). -/

@[simp] theorem State.syncCopies_cpu (s : State) (d k n : Nat) : (s.syncCopies d k n).cpu = s.cpu := rfl
@[simp] theorem State.syncCopies_others (s : State) (d k n : Nat) : (s.syncCopies d k n).others = s.others := rfl
@[simp] theorem State.syncCopies_cores (s : State) (d k n : Nat) : (s.syncCopies d k n).cores = s.cores := rfl
@[simp] theorem State.syncCopies_sliceCycles (s : State) (d k n : Nat) : (s.syncCopies d k n).sliceCycles = s.sliceCycles := rfl
@[simp] theorem State.syncCopies_contexts (s : State) (d k n : Nat) : (s.syncCopies d k n).contexts = s.contexts := rfl
@[simp] theorem State.syncCopies_mem (s : State) (d k n : Nat) : (s.syncCopies d k n).mem = s.mem := rfl
@[simp] theorem State.syncCopies_bad (s : State) (d k n : Nat) : (s.syncCopies d k n).bad = s.bad := rfl
@[simp] theorem State.syncCopies_stamps (s : State) (d k n : Nat) : (s.syncCopies d k n).stamps = s.stamps := rfl
@[simp] theorem State.syncCopies_discards (s : State) (d k n : Nat) : (s.syncCopies d k n).discards = s.discards := rfl
@[simp] theorem State.syncCopies_resvs (s : State) (d k n : Nat) : (s.syncCopies d k n).resvs = s.resvs := rfl
@[simp] theorem State.syncCopies_nextRid (s : State) (d k n : Nat) : (s.syncCopies d k n).nextRid = s.nextRid := rfl
@[simp] theorem State.syncCopies_weir (s : State) (d k n : Nat) : (s.syncCopies d k n).weir = s.weir := rfl
@[simp] theorem State.syncCopies_tlb (s : State) (d k n : Nat) : (s.syncCopies d k n).tlb = s.tlb := rfl
@[simp] theorem State.syncCopies_used (s : State) (d k n : Nat) : (s.syncCopies d k n).used = s.used := rfl
@[simp] theorem State.syncCopies_dirs (s : State) (d k n : Nat) : (s.syncCopies d k n).dirs = s.dirs := rfl
@[simp] theorem State.syncCopies_fills (s : State) (d k n : Nat) : (s.syncCopies d k n).fills = s.fills := rfl
@[simp] theorem State.syncCopies_invals (s : State) (d k n : Nat) : (s.syncCopies d k n).invals = s.invals := rfl
@[simp] theorem State.syncCopies_lastInval (s : State) (d k n : Nat) : (s.syncCopies d k n).lastInval = s.lastInval := rfl
@[simp] theorem State.syncCopies_refused (s : State) (d k n : Nat) : (s.syncCopies d k n).refused = s.refused := rfl
@[simp] theorem State.syncCopies_tracked (s : State) (d k n : Nat) : (s.syncCopies d k n).tracked = s.tracked := rfl
@[simp] theorem State.syncCopies_l2 (s : State) (d k n : Nat) : (s.syncCopies d k n).l2 = s.l2 := rfl
@[simp] theorem State.syncCopies_storeClock (s : State) (d k n : Nat) : (s.syncCopies d k n).storeClock = s.storeClock := rfl
@[simp] theorem State.syncCopies_stampWrites (s : State) (d k n : Nat) : (s.syncCopies d k n).stampWrites = s.stampWrites := rfl
@[simp] theorem State.syncCopies_gangs (s : State) (d k n : Nat) : (s.syncCopies d k n).gangs = s.gangs := rfl
@[simp] theorem State.syncCopies_nextGang (s : State) (d k n : Nat) : (s.syncCopies d k n).nextGang = s.nextGang := rfl
@[simp] theorem State.syncCopies_launches (s : State) (d k n : Nat) : (s.syncCopies d k n).launches = s.launches := rfl
@[simp] theorem State.syncCopies_queues (s : State) (d k n : Nat) : (s.syncCopies d k n).queues = s.queues := rfl
@[simp] theorem State.syncCopies_clupart (s : State) (d k n : Nat) : (s.syncCopies d k n).clupart = s.clupart := rfl
@[simp] theorem State.syncCopies_tencfg (s : State) (d k n : Nat) : (s.syncCopies d k n).tencfg = s.tencfg := rfl
@[simp] theorem State.syncCopies_deficits (s : State) (d k n : Nat) : (s.syncCopies d k n).deficits = s.deficits := rfl
@[simp] theorem State.syncCopies_served (s : State) (d k n : Nat) : (s.syncCopies d k n).served = s.served := rfl
@[simp] theorem State.syncCopies_holds (s : State) (d k n : Nat) : (s.syncCopies d k n).holds = s.holds := rfl
@[simp] theorem State.syncCopies_cancels (s : State) (d k n : Nat) : (s.syncCopies d k n).cancels = s.cancels := rfl
@[simp] theorem State.syncCopies_sweeps (s : State) (d k n : Nat) : (s.syncCopies d k n).sweeps = s.sweeps := rfl
@[simp] theorem State.syncCopies_portA (s : State) (d k n : Nat) : (s.syncCopies d k n).portA = s.portA := rfl
@[simp] theorem State.syncCopies_portB (s : State) (d k n : Nat) : (s.syncCopies d k n).portB = s.portB := rfl
@[simp] theorem State.syncCopies_selfNum (s : State) (d k n : Nat) : (s.syncCopies d k n).selfNum = s.selfNum := rfl
@[simp] theorem State.syncCopies_selfInc (s : State) (d k n : Nat) : (s.syncCopies d k n).selfInc = s.selfInc := rfl
@[simp] theorem State.syncCopies_peers (s : State) (d k n : Nat) : (s.syncCopies d k n).peers = s.peers := rfl
@[simp] theorem State.syncCopies_owedStores (s : State) (d k n : Nat) : (s.syncCopies d k n).owedStores = s.owedStores := rfl
@[simp] theorem State.syncCopies_exports (s : State) (d k n : Nat) : (s.syncCopies d k n).exports = s.exports := rfl
@[simp] theorem State.syncCopies_grants (s : State) (d k n : Nat) : (s.syncCopies d k n).grants = s.grants := rfl
@[simp] theorem State.syncCopies_groups (s : State) (d k n : Nat) : (s.syncCopies d k n).groups = s.groups := rfl
@[simp] theorem State.syncCopies_island (s : State) (d k n : Nat) : (s.syncCopies d k n).island = s.island := rfl
@[simp] theorem State.syncCopies_retired (s : State) (d k n : Nat) : (s.syncCopies d k n).retired = s.retired := rfl
@[simp] theorem State.syncCopies_failing (s : State) (d k n : Nat) : (s.syncCopies d k n).failing = s.failing := rfl
@[simp] theorem State.syncCopies_halting (s : State) (d k n : Nat) : (s.syncCopies d k n).halting = s.halting := rfl
@[simp] theorem State.syncCopies_records (s : State) (d k n : Nat) : (s.syncCopies d k n).records = s.records := rfl
@[simp] theorem State.syncCopies_events (s : State) (d k n : Nat) : (s.syncCopies d k n).events = s.events := rfl
@[simp] theorem State.syncCopies_picks (s : State) (d k n : Nat) : (s.syncCopies d k n).picks = s.picks := rfl
@[simp] theorem State.syncCopies_turn (s : State) (d k n : Nat) : (s.syncCopies d k n).turn = s.turn := rfl
@[simp] theorem State.syncCopies_free (s : State) (d k n : Nat) : (s.syncCopies d k n).free = s.free := rfl
@[simp] theorem State.syncCopies_answers (s : State) (d k n : Nat) : (s.syncCopies d k n).answers = s.answers := rfl

/-! Copies share their grain (R170). -/

@[simp] theorem State.demote_cpu (s : State) (a n : Nat) : (s.demote a n).cpu = s.cpu := rfl
@[simp] theorem State.demote_others (s : State) (a n : Nat) : (s.demote a n).others = s.others := rfl
@[simp] theorem State.demote_sliceCycles (s : State) (a n : Nat) : (s.demote a n).sliceCycles = s.sliceCycles := rfl
@[simp] theorem State.demote_contexts (s : State) (a n : Nat) : (s.demote a n).contexts = s.contexts := rfl
@[simp] theorem State.demote_mem (s : State) (a n : Nat) : (s.demote a n).mem = s.mem := rfl
@[simp] theorem State.demote_bad (s : State) (a n : Nat) : (s.demote a n).bad = s.bad := rfl
@[simp] theorem State.demote_stamps (s : State) (a n : Nat) : (s.demote a n).stamps = s.stamps := rfl
@[simp] theorem State.demote_discards (s : State) (a n : Nat) : (s.demote a n).discards = s.discards := rfl
@[simp] theorem State.demote_resvs (s : State) (a n : Nat) : (s.demote a n).resvs = s.resvs := rfl
@[simp] theorem State.demote_nextRid (s : State) (a n : Nat) : (s.demote a n).nextRid = s.nextRid := rfl
@[simp] theorem State.demote_weir (s : State) (a n : Nat) : (s.demote a n).weir = s.weir := rfl
@[simp] theorem State.demote_tlb (s : State) (a n : Nat) : (s.demote a n).tlb = s.tlb := rfl
@[simp] theorem State.demote_used (s : State) (a n : Nat) : (s.demote a n).used = s.used := rfl
@[simp] theorem State.demote_copies (s : State) (a n : Nat) : (s.demote a n).copies = s.copies := rfl
@[simp] theorem State.demote_dirs (s : State) (a n : Nat) : (s.demote a n).dirs = s.dirs := rfl
@[simp] theorem State.demote_fills (s : State) (a n : Nat) : (s.demote a n).fills = s.fills := rfl
@[simp] theorem State.demote_invals (s : State) (a n : Nat) : (s.demote a n).invals = s.invals := rfl
@[simp] theorem State.demote_lastInval (s : State) (a n : Nat) : (s.demote a n).lastInval = s.lastInval := rfl
@[simp] theorem State.demote_refused (s : State) (a n : Nat) : (s.demote a n).refused = s.refused := rfl
@[simp] theorem State.demote_l2 (s : State) (a n : Nat) : (s.demote a n).l2 = s.l2 := rfl
@[simp] theorem State.demote_storeClock (s : State) (a n : Nat) : (s.demote a n).storeClock = s.storeClock := rfl
@[simp] theorem State.demote_stampWrites (s : State) (a n : Nat) : (s.demote a n).stampWrites = s.stampWrites := rfl
@[simp] theorem State.demote_gangs (s : State) (a n : Nat) : (s.demote a n).gangs = s.gangs := rfl
@[simp] theorem State.demote_nextGang (s : State) (a n : Nat) : (s.demote a n).nextGang = s.nextGang := rfl
@[simp] theorem State.demote_launches (s : State) (a n : Nat) : (s.demote a n).launches = s.launches := rfl
@[simp] theorem State.demote_queues (s : State) (a n : Nat) : (s.demote a n).queues = s.queues := rfl
@[simp] theorem State.demote_clupart (s : State) (a n : Nat) : (s.demote a n).clupart = s.clupart := rfl
@[simp] theorem State.demote_tencfg (s : State) (a n : Nat) : (s.demote a n).tencfg = s.tencfg := rfl
@[simp] theorem State.demote_deficits (s : State) (a n : Nat) : (s.demote a n).deficits = s.deficits := rfl
@[simp] theorem State.demote_served (s : State) (a n : Nat) : (s.demote a n).served = s.served := rfl
@[simp] theorem State.demote_holds (s : State) (a n : Nat) : (s.demote a n).holds = s.holds := rfl
@[simp] theorem State.demote_cancels (s : State) (a n : Nat) : (s.demote a n).cancels = s.cancels := rfl
@[simp] theorem State.demote_sweeps (s : State) (a n : Nat) : (s.demote a n).sweeps = s.sweeps := rfl
@[simp] theorem State.demote_portA (s : State) (a n : Nat) : (s.demote a n).portA = s.portA := rfl
@[simp] theorem State.demote_portB (s : State) (a n : Nat) : (s.demote a n).portB = s.portB := rfl
@[simp] theorem State.demote_selfNum (s : State) (a n : Nat) : (s.demote a n).selfNum = s.selfNum := rfl
@[simp] theorem State.demote_selfInc (s : State) (a n : Nat) : (s.demote a n).selfInc = s.selfInc := rfl
@[simp] theorem State.demote_peers (s : State) (a n : Nat) : (s.demote a n).peers = s.peers := rfl
@[simp] theorem State.demote_owedStores (s : State) (a n : Nat) : (s.demote a n).owedStores = s.owedStores := rfl
@[simp] theorem State.demote_exports (s : State) (a n : Nat) : (s.demote a n).exports = s.exports := rfl
@[simp] theorem State.demote_grants (s : State) (a n : Nat) : (s.demote a n).grants = s.grants := rfl
@[simp] theorem State.demote_groups (s : State) (a n : Nat) : (s.demote a n).groups = s.groups := rfl
@[simp] theorem State.demote_island (s : State) (a n : Nat) : (s.demote a n).island = s.island := rfl
@[simp] theorem State.demote_retired (s : State) (a n : Nat) : (s.demote a n).retired = s.retired := rfl
@[simp] theorem State.demote_failing (s : State) (a n : Nat) : (s.demote a n).failing = s.failing := rfl
@[simp] theorem State.demote_halting (s : State) (a n : Nat) : (s.demote a n).halting = s.halting := rfl
@[simp] theorem State.demote_records (s : State) (a n : Nat) : (s.demote a n).records = s.records := rfl
@[simp] theorem State.demote_events (s : State) (a n : Nat) : (s.demote a n).events = s.events := rfl
@[simp] theorem State.demote_picks (s : State) (a n : Nat) : (s.demote a n).picks = s.picks := rfl
@[simp] theorem State.demote_turn (s : State) (a n : Nat) : (s.demote a n).turn = s.turn := rfl
@[simp] theorem State.demote_free (s : State) (a n : Nat) : (s.demote a n).free = s.free := rfl
@[simp] theorem State.demote_answers (s : State) (a n : Nat) : (s.demote a n).answers = s.answers := rfl

/-! Owned copies are recalled (R175). -/

@[simp] theorem State.recallOwned_cpu (s : State) (a n : Nat) : (s.recallOwned a n).cpu = s.cpu := rfl
@[simp] theorem State.recallOwned_others (s : State) (a n : Nat) : (s.recallOwned a n).others = s.others := rfl
@[simp] theorem State.recallOwned_sliceCycles (s : State) (a n : Nat) : (s.recallOwned a n).sliceCycles = s.sliceCycles := rfl
@[simp] theorem State.recallOwned_contexts (s : State) (a n : Nat) : (s.recallOwned a n).contexts = s.contexts := rfl
@[simp] theorem State.recallOwned_mem (s : State) (a n : Nat) : (s.recallOwned a n).mem = s.mem := rfl
@[simp] theorem State.recallOwned_bad (s : State) (a n : Nat) : (s.recallOwned a n).bad = s.bad := rfl
@[simp] theorem State.recallOwned_stamps (s : State) (a n : Nat) : (s.recallOwned a n).stamps = s.stamps := rfl
@[simp] theorem State.recallOwned_discards (s : State) (a n : Nat) : (s.recallOwned a n).discards = s.discards := rfl
@[simp] theorem State.recallOwned_resvs (s : State) (a n : Nat) : (s.recallOwned a n).resvs = s.resvs := rfl
@[simp] theorem State.recallOwned_nextRid (s : State) (a n : Nat) : (s.recallOwned a n).nextRid = s.nextRid := rfl
@[simp] theorem State.recallOwned_weir (s : State) (a n : Nat) : (s.recallOwned a n).weir = s.weir := rfl
@[simp] theorem State.recallOwned_tlb (s : State) (a n : Nat) : (s.recallOwned a n).tlb = s.tlb := rfl
@[simp] theorem State.recallOwned_used (s : State) (a n : Nat) : (s.recallOwned a n).used = s.used := rfl
@[simp] theorem State.recallOwned_copies (s : State) (a n : Nat) : (s.recallOwned a n).copies = s.copies := rfl
@[simp] theorem State.recallOwned_fills (s : State) (a n : Nat) : (s.recallOwned a n).fills = s.fills := rfl
@[simp] theorem State.recallOwned_invals (s : State) (a n : Nat) : (s.recallOwned a n).invals = s.invals := rfl
@[simp] theorem State.recallOwned_lastInval (s : State) (a n : Nat) : (s.recallOwned a n).lastInval = s.lastInval := rfl
@[simp] theorem State.recallOwned_refused (s : State) (a n : Nat) : (s.recallOwned a n).refused = s.refused := rfl
@[simp] theorem State.recallOwned_l2 (s : State) (a n : Nat) : (s.recallOwned a n).l2 = s.l2 := rfl
@[simp] theorem State.recallOwned_storeClock (s : State) (a n : Nat) : (s.recallOwned a n).storeClock = s.storeClock := rfl
@[simp] theorem State.recallOwned_stampWrites (s : State) (a n : Nat) : (s.recallOwned a n).stampWrites = s.stampWrites := rfl
@[simp] theorem State.recallOwned_gangs (s : State) (a n : Nat) : (s.recallOwned a n).gangs = s.gangs := rfl
@[simp] theorem State.recallOwned_nextGang (s : State) (a n : Nat) : (s.recallOwned a n).nextGang = s.nextGang := rfl
@[simp] theorem State.recallOwned_launches (s : State) (a n : Nat) : (s.recallOwned a n).launches = s.launches := rfl
@[simp] theorem State.recallOwned_queues (s : State) (a n : Nat) : (s.recallOwned a n).queues = s.queues := rfl
@[simp] theorem State.recallOwned_clupart (s : State) (a n : Nat) : (s.recallOwned a n).clupart = s.clupart := rfl
@[simp] theorem State.recallOwned_tencfg (s : State) (a n : Nat) : (s.recallOwned a n).tencfg = s.tencfg := rfl
@[simp] theorem State.recallOwned_deficits (s : State) (a n : Nat) : (s.recallOwned a n).deficits = s.deficits := rfl
@[simp] theorem State.recallOwned_served (s : State) (a n : Nat) : (s.recallOwned a n).served = s.served := rfl
@[simp] theorem State.recallOwned_holds (s : State) (a n : Nat) : (s.recallOwned a n).holds = s.holds := rfl
@[simp] theorem State.recallOwned_cancels (s : State) (a n : Nat) : (s.recallOwned a n).cancels = s.cancels := rfl
@[simp] theorem State.recallOwned_sweeps (s : State) (a n : Nat) : (s.recallOwned a n).sweeps = s.sweeps := rfl
@[simp] theorem State.recallOwned_portA (s : State) (a n : Nat) : (s.recallOwned a n).portA = s.portA := rfl
@[simp] theorem State.recallOwned_portB (s : State) (a n : Nat) : (s.recallOwned a n).portB = s.portB := rfl
@[simp] theorem State.recallOwned_selfNum (s : State) (a n : Nat) : (s.recallOwned a n).selfNum = s.selfNum := rfl
@[simp] theorem State.recallOwned_selfInc (s : State) (a n : Nat) : (s.recallOwned a n).selfInc = s.selfInc := rfl
@[simp] theorem State.recallOwned_peers (s : State) (a n : Nat) : (s.recallOwned a n).peers = s.peers := rfl
@[simp] theorem State.recallOwned_owedStores (s : State) (a n : Nat) : (s.recallOwned a n).owedStores = s.owedStores := rfl
@[simp] theorem State.recallOwned_exports (s : State) (a n : Nat) : (s.recallOwned a n).exports = s.exports := rfl
@[simp] theorem State.recallOwned_grants (s : State) (a n : Nat) : (s.recallOwned a n).grants = s.grants := rfl
@[simp] theorem State.recallOwned_groups (s : State) (a n : Nat) : (s.recallOwned a n).groups = s.groups := rfl
@[simp] theorem State.recallOwned_island (s : State) (a n : Nat) : (s.recallOwned a n).island = s.island := rfl
@[simp] theorem State.recallOwned_retired (s : State) (a n : Nat) : (s.recallOwned a n).retired = s.retired := rfl
@[simp] theorem State.recallOwned_failing (s : State) (a n : Nat) : (s.recallOwned a n).failing = s.failing := rfl
@[simp] theorem State.recallOwned_halting (s : State) (a n : Nat) : (s.recallOwned a n).halting = s.halting := rfl
@[simp] theorem State.recallOwned_records (s : State) (a n : Nat) : (s.recallOwned a n).records = s.records := rfl
@[simp] theorem State.recallOwned_events (s : State) (a n : Nat) : (s.recallOwned a n).events = s.events := rfl
@[simp] theorem State.recallOwned_picks (s : State) (a n : Nat) : (s.recallOwned a n).picks = s.picks := rfl
@[simp] theorem State.recallOwned_turn (s : State) (a n : Nat) : (s.recallOwned a n).turn = s.turn := rfl
@[simp] theorem State.recallOwned_free (s : State) (a n : Nat) : (s.recallOwned a n).free = s.free := rfl
@[simp] theorem State.recallOwned_answers (s : State) (a n : Nat) : (s.recallOwned a n).answers = s.answers := rfl

/-! An access from outside is answered. -/

@[simp] theorem State.answer_cpu (s : State) (a : Option (BitVec 128)) : (s.answer a).cpu = s.cpu := rfl
@[simp] theorem State.answer_others (s : State) (a : Option (BitVec 128)) : (s.answer a).others = s.others := rfl
@[simp] theorem State.answer_cores (s : State) (a : Option (BitVec 128)) : (s.answer a).cores = s.cores := rfl
@[simp] theorem State.answer_sliceCycles (s : State) (a : Option (BitVec 128)) : (s.answer a).sliceCycles = s.sliceCycles := rfl
@[simp] theorem State.answer_contexts (s : State) (a : Option (BitVec 128)) : (s.answer a).contexts = s.contexts := rfl
@[simp] theorem State.answer_mem (s : State) (a : Option (BitVec 128)) : (s.answer a).mem = s.mem := rfl
@[simp] theorem State.answer_bad (s : State) (a : Option (BitVec 128)) : (s.answer a).bad = s.bad := rfl
@[simp] theorem State.answer_stamps (s : State) (a : Option (BitVec 128)) : (s.answer a).stamps = s.stamps := rfl
@[simp] theorem State.answer_discards (s : State) (a : Option (BitVec 128)) : (s.answer a).discards = s.discards := rfl
@[simp] theorem State.answer_resvs (s : State) (a : Option (BitVec 128)) : (s.answer a).resvs = s.resvs := rfl
@[simp] theorem State.answer_nextRid (s : State) (a : Option (BitVec 128)) : (s.answer a).nextRid = s.nextRid := rfl
@[simp] theorem State.answer_weir (s : State) (a : Option (BitVec 128)) : (s.answer a).weir = s.weir := rfl
@[simp] theorem State.answer_tlb (s : State) (a : Option (BitVec 128)) : (s.answer a).tlb = s.tlb := rfl
@[simp] theorem State.answer_used (s : State) (a : Option (BitVec 128)) : (s.answer a).used = s.used := rfl
@[simp] theorem State.answer_copies (s : State) (a : Option (BitVec 128)) : (s.answer a).copies = s.copies := rfl
@[simp] theorem State.answer_dirs (s : State) (a : Option (BitVec 128)) : (s.answer a).dirs = s.dirs := rfl
@[simp] theorem State.answer_fills (s : State) (a : Option (BitVec 128)) : (s.answer a).fills = s.fills := rfl
@[simp] theorem State.answer_invals (s : State) (a : Option (BitVec 128)) : (s.answer a).invals = s.invals := rfl
@[simp] theorem State.answer_lastInval (s : State) (a : Option (BitVec 128)) : (s.answer a).lastInval = s.lastInval := rfl
@[simp] theorem State.answer_refused (s : State) (a : Option (BitVec 128)) : (s.answer a).refused = s.refused := rfl
@[simp] theorem State.answer_tracked (s : State) (a : Option (BitVec 128)) : (s.answer a).tracked = s.tracked := rfl
@[simp] theorem State.answer_l2 (s : State) (a : Option (BitVec 128)) : (s.answer a).l2 = s.l2 := rfl
@[simp] theorem State.answer_storeClock (s : State) (a : Option (BitVec 128)) : (s.answer a).storeClock = s.storeClock := rfl
@[simp] theorem State.answer_stampWrites (s : State) (a : Option (BitVec 128)) : (s.answer a).stampWrites = s.stampWrites := rfl
@[simp] theorem State.answer_gangs (s : State) (a : Option (BitVec 128)) : (s.answer a).gangs = s.gangs := rfl
@[simp] theorem State.answer_nextGang (s : State) (a : Option (BitVec 128)) : (s.answer a).nextGang = s.nextGang := rfl
@[simp] theorem State.answer_launches (s : State) (a : Option (BitVec 128)) : (s.answer a).launches = s.launches := rfl
@[simp] theorem State.answer_queues (s : State) (a : Option (BitVec 128)) : (s.answer a).queues = s.queues := rfl
@[simp] theorem State.answer_clupart (s : State) (a : Option (BitVec 128)) : (s.answer a).clupart = s.clupart := rfl
@[simp] theorem State.answer_tencfg (s : State) (a : Option (BitVec 128)) : (s.answer a).tencfg = s.tencfg := rfl
@[simp] theorem State.answer_deficits (s : State) (a : Option (BitVec 128)) : (s.answer a).deficits = s.deficits := rfl
@[simp] theorem State.answer_served (s : State) (a : Option (BitVec 128)) : (s.answer a).served = s.served := rfl
@[simp] theorem State.answer_holds (s : State) (a : Option (BitVec 128)) : (s.answer a).holds = s.holds := rfl
@[simp] theorem State.answer_cancels (s : State) (a : Option (BitVec 128)) : (s.answer a).cancels = s.cancels := rfl
@[simp] theorem State.answer_sweeps (s : State) (a : Option (BitVec 128)) : (s.answer a).sweeps = s.sweeps := rfl
@[simp] theorem State.answer_portA (s : State) (a : Option (BitVec 128)) : (s.answer a).portA = s.portA := rfl
@[simp] theorem State.answer_portB (s : State) (a : Option (BitVec 128)) : (s.answer a).portB = s.portB := rfl
@[simp] theorem State.answer_selfNum (s : State) (a : Option (BitVec 128)) : (s.answer a).selfNum = s.selfNum := rfl
@[simp] theorem State.answer_selfInc (s : State) (a : Option (BitVec 128)) : (s.answer a).selfInc = s.selfInc := rfl
@[simp] theorem State.answer_peers (s : State) (a : Option (BitVec 128)) : (s.answer a).peers = s.peers := rfl
@[simp] theorem State.answer_owedStores (s : State) (a : Option (BitVec 128)) : (s.answer a).owedStores = s.owedStores := rfl
@[simp] theorem State.answer_exports (s : State) (a : Option (BitVec 128)) : (s.answer a).exports = s.exports := rfl
@[simp] theorem State.answer_grants (s : State) (a : Option (BitVec 128)) : (s.answer a).grants = s.grants := rfl
@[simp] theorem State.answer_groups (s : State) (a : Option (BitVec 128)) : (s.answer a).groups = s.groups := rfl
@[simp] theorem State.answer_island (s : State) (a : Option (BitVec 128)) : (s.answer a).island = s.island := rfl
@[simp] theorem State.answer_retired (s : State) (a : Option (BitVec 128)) : (s.answer a).retired = s.retired := rfl
@[simp] theorem State.answer_failing (s : State) (a : Option (BitVec 128)) : (s.answer a).failing = s.failing := rfl
@[simp] theorem State.answer_halting (s : State) (a : Option (BitVec 128)) : (s.answer a).halting = s.halting := rfl
@[simp] theorem State.answer_records (s : State) (a : Option (BitVec 128)) : (s.answer a).records = s.records := rfl
@[simp] theorem State.answer_events (s : State) (a : Option (BitVec 128)) : (s.answer a).events = s.events := rfl
@[simp] theorem State.answer_picks (s : State) (a : Option (BitVec 128)) : (s.answer a).picks = s.picks := rfl
@[simp] theorem State.answer_turn (s : State) (a : Option (BitVec 128)) : (s.answer a).turn = s.turn := rfl
@[simp] theorem State.answer_free (s : State) (a : Option (BitVec 128)) : (s.answer a).free = s.free := rfl

/-! An instruction begins. -/

@[simp] theorem State.anew_cpu (s : State)  : (s.anew).cpu = s.cpu := rfl
@[simp] theorem State.anew_others (s : State)  : (s.anew).others = s.others := rfl
@[simp] theorem State.anew_cores (s : State)  : (s.anew).cores = s.cores := rfl
@[simp] theorem State.anew_sliceCycles (s : State)  : (s.anew).sliceCycles = s.sliceCycles := rfl
@[simp] theorem State.anew_contexts (s : State)  : (s.anew).contexts = s.contexts := rfl
@[simp] theorem State.anew_mem (s : State)  : (s.anew).mem = s.mem := rfl
@[simp] theorem State.anew_bad (s : State)  : (s.anew).bad = s.bad := rfl
@[simp] theorem State.anew_stamps (s : State)  : (s.anew).stamps = s.stamps := rfl
@[simp] theorem State.anew_discards (s : State)  : (s.anew).discards = s.discards := rfl
@[simp] theorem State.anew_resvs (s : State)  : (s.anew).resvs = s.resvs := rfl
@[simp] theorem State.anew_nextRid (s : State)  : (s.anew).nextRid = s.nextRid := rfl
@[simp] theorem State.anew_weir (s : State)  : (s.anew).weir = s.weir := rfl
@[simp] theorem State.anew_tlb (s : State)  : (s.anew).tlb = s.tlb := rfl
@[simp] theorem State.anew_copies (s : State)  : (s.anew).copies = s.copies := rfl
@[simp] theorem State.anew_dirs (s : State)  : (s.anew).dirs = s.dirs := rfl
@[simp] theorem State.anew_fills (s : State)  : (s.anew).fills = s.fills := rfl
@[simp] theorem State.anew_invals (s : State)  : (s.anew).invals = s.invals := rfl
@[simp] theorem State.anew_lastInval (s : State)  : (s.anew).lastInval = s.lastInval := rfl
@[simp] theorem State.anew_refused (s : State)  : (s.anew).refused = s.refused := rfl
@[simp] theorem State.anew_tracked (s : State)  : (s.anew).tracked = s.tracked := rfl
@[simp] theorem State.anew_l2 (s : State)  : (s.anew).l2 = s.l2 := rfl
@[simp] theorem State.anew_storeClock (s : State)  : (s.anew).storeClock = s.storeClock := rfl
@[simp] theorem State.anew_stampWrites (s : State)  : (s.anew).stampWrites = s.stampWrites := rfl
@[simp] theorem State.anew_gangs (s : State)  : (s.anew).gangs = s.gangs := rfl
@[simp] theorem State.anew_nextGang (s : State)  : (s.anew).nextGang = s.nextGang := rfl
@[simp] theorem State.anew_launches (s : State)  : (s.anew).launches = s.launches := rfl
@[simp] theorem State.anew_queues (s : State)  : (s.anew).queues = s.queues := rfl
@[simp] theorem State.anew_clupart (s : State)  : (s.anew).clupart = s.clupart := rfl
@[simp] theorem State.anew_tencfg (s : State)  : (s.anew).tencfg = s.tencfg := rfl
@[simp] theorem State.anew_deficits (s : State)  : (s.anew).deficits = s.deficits := rfl
@[simp] theorem State.anew_served (s : State)  : (s.anew).served = s.served := rfl
@[simp] theorem State.anew_holds (s : State)  : (s.anew).holds = s.holds := rfl
@[simp] theorem State.anew_cancels (s : State)  : (s.anew).cancels = s.cancels := rfl
@[simp] theorem State.anew_sweeps (s : State)  : (s.anew).sweeps = s.sweeps := rfl
@[simp] theorem State.anew_portA (s : State)  : (s.anew).portA = s.portA := rfl
@[simp] theorem State.anew_portB (s : State)  : (s.anew).portB = s.portB := rfl
@[simp] theorem State.anew_selfNum (s : State)  : (s.anew).selfNum = s.selfNum := rfl
@[simp] theorem State.anew_selfInc (s : State)  : (s.anew).selfInc = s.selfInc := rfl
@[simp] theorem State.anew_peers (s : State)  : (s.anew).peers = s.peers := rfl
@[simp] theorem State.anew_owedStores (s : State)  : (s.anew).owedStores = s.owedStores := rfl
@[simp] theorem State.anew_exports (s : State)  : (s.anew).exports = s.exports := rfl
@[simp] theorem State.anew_grants (s : State)  : (s.anew).grants = s.grants := rfl
@[simp] theorem State.anew_groups (s : State)  : (s.anew).groups = s.groups := rfl
@[simp] theorem State.anew_island (s : State)  : (s.anew).island = s.island := rfl
@[simp] theorem State.anew_retired (s : State)  : (s.anew).retired = s.retired := rfl
@[simp] theorem State.anew_failing (s : State)  : (s.anew).failing = s.failing := rfl
@[simp] theorem State.anew_halting (s : State)  : (s.anew).halting = s.halting := rfl
@[simp] theorem State.anew_records (s : State)  : (s.anew).records = s.records := rfl
@[simp] theorem State.anew_events (s : State)  : (s.anew).events = s.events := rfl
@[simp] theorem State.anew_picks (s : State)  : (s.anew).picks = s.picks := rfl
@[simp] theorem State.anew_turn (s : State)  : (s.anew).turn = s.turn := rfl
@[simp] theorem State.anew_free (s : State)  : (s.anew).free = s.free := rfl
@[simp] theorem State.anew_answers (s : State)  : (s.anew).answers = s.answers := rfl

/-! A chain has been fetched: only the current thread changes. -/

@[simp] theorem State.fetched_others (s : State)  : (s.fetched).others = s.others := rfl
@[simp] theorem State.fetched_cores (s : State)  : (s.fetched).cores = s.cores := rfl
@[simp] theorem State.fetched_sliceCycles (s : State)  : (s.fetched).sliceCycles = s.sliceCycles := rfl
@[simp] theorem State.fetched_contexts (s : State)  : (s.fetched).contexts = s.contexts := rfl
@[simp] theorem State.fetched_mem (s : State)  : (s.fetched).mem = s.mem := rfl
@[simp] theorem State.fetched_bad (s : State)  : (s.fetched).bad = s.bad := rfl
@[simp] theorem State.fetched_stamps (s : State)  : (s.fetched).stamps = s.stamps := rfl
@[simp] theorem State.fetched_discards (s : State)  : (s.fetched).discards = s.discards := rfl
@[simp] theorem State.fetched_resvs (s : State)  : (s.fetched).resvs = s.resvs := rfl
@[simp] theorem State.fetched_nextRid (s : State)  : (s.fetched).nextRid = s.nextRid := rfl
@[simp] theorem State.fetched_weir (s : State)  : (s.fetched).weir = s.weir := rfl
@[simp] theorem State.fetched_tlb (s : State)  : (s.fetched).tlb = s.tlb := rfl
@[simp] theorem State.fetched_copies (s : State)  : (s.fetched).copies = s.copies := rfl
@[simp] theorem State.fetched_dirs (s : State)  : (s.fetched).dirs = s.dirs := rfl
@[simp] theorem State.fetched_fills (s : State)  : (s.fetched).fills = s.fills := rfl
@[simp] theorem State.fetched_invals (s : State)  : (s.fetched).invals = s.invals := rfl
@[simp] theorem State.fetched_lastInval (s : State)  : (s.fetched).lastInval = s.lastInval := rfl
@[simp] theorem State.fetched_refused (s : State)  : (s.fetched).refused = s.refused := rfl
@[simp] theorem State.fetched_tracked (s : State)  : (s.fetched).tracked = s.tracked := rfl
@[simp] theorem State.fetched_l2 (s : State)  : (s.fetched).l2 = s.l2 := rfl
@[simp] theorem State.fetched_storeClock (s : State)  : (s.fetched).storeClock = s.storeClock := rfl
@[simp] theorem State.fetched_stampWrites (s : State)  : (s.fetched).stampWrites = s.stampWrites := rfl
@[simp] theorem State.fetched_gangs (s : State)  : (s.fetched).gangs = s.gangs := rfl
@[simp] theorem State.fetched_nextGang (s : State)  : (s.fetched).nextGang = s.nextGang := rfl
@[simp] theorem State.fetched_launches (s : State)  : (s.fetched).launches = s.launches := rfl
@[simp] theorem State.fetched_queues (s : State)  : (s.fetched).queues = s.queues := rfl
@[simp] theorem State.fetched_clupart (s : State)  : (s.fetched).clupart = s.clupart := rfl
@[simp] theorem State.fetched_tencfg (s : State)  : (s.fetched).tencfg = s.tencfg := rfl
@[simp] theorem State.fetched_deficits (s : State)  : (s.fetched).deficits = s.deficits := rfl
@[simp] theorem State.fetched_served (s : State)  : (s.fetched).served = s.served := rfl
@[simp] theorem State.fetched_holds (s : State)  : (s.fetched).holds = s.holds := rfl
@[simp] theorem State.fetched_cancels (s : State)  : (s.fetched).cancels = s.cancels := rfl
@[simp] theorem State.fetched_sweeps (s : State)  : (s.fetched).sweeps = s.sweeps := rfl
@[simp] theorem State.fetched_portA (s : State)  : (s.fetched).portA = s.portA := rfl
@[simp] theorem State.fetched_portB (s : State)  : (s.fetched).portB = s.portB := rfl
@[simp] theorem State.fetched_selfNum (s : State)  : (s.fetched).selfNum = s.selfNum := rfl
@[simp] theorem State.fetched_selfInc (s : State)  : (s.fetched).selfInc = s.selfInc := rfl
@[simp] theorem State.fetched_peers (s : State)  : (s.fetched).peers = s.peers := rfl
@[simp] theorem State.fetched_owedStores (s : State)  : (s.fetched).owedStores = s.owedStores := rfl
@[simp] theorem State.fetched_exports (s : State)  : (s.fetched).exports = s.exports := rfl
@[simp] theorem State.fetched_grants (s : State)  : (s.fetched).grants = s.grants := rfl
@[simp] theorem State.fetched_groups (s : State)  : (s.fetched).groups = s.groups := rfl
@[simp] theorem State.fetched_island (s : State)  : (s.fetched).island = s.island := rfl
@[simp] theorem State.fetched_retired (s : State)  : (s.fetched).retired = s.retired := rfl
@[simp] theorem State.fetched_failing (s : State)  : (s.fetched).failing = s.failing := rfl
@[simp] theorem State.fetched_halting (s : State)  : (s.fetched).halting = s.halting := rfl
@[simp] theorem State.fetched_records (s : State)  : (s.fetched).records = s.records := rfl
@[simp] theorem State.fetched_events (s : State)  : (s.fetched).events = s.events := rfl
@[simp] theorem State.fetched_picks (s : State)  : (s.fetched).picks = s.picks := rfl
@[simp] theorem State.fetched_turn (s : State)  : (s.fetched).turn = s.turn := rfl
@[simp] theorem State.fetched_free (s : State)  : (s.fetched).free = s.free := rfl
@[simp] theorem State.fetched_answers (s : State)  : (s.fetched).answers = s.answers := rfl

/-! An event comes back. -/

@[simp] theorem State.postAgain_cpu (s : State) (e : Instr) : (s.postAgain e).cpu = s.cpu := rfl
@[simp] theorem State.postAgain_others (s : State) (e : Instr) : (s.postAgain e).others = s.others := rfl
@[simp] theorem State.postAgain_cores (s : State) (e : Instr) : (s.postAgain e).cores = s.cores := rfl
@[simp] theorem State.postAgain_sliceCycles (s : State) (e : Instr) : (s.postAgain e).sliceCycles = s.sliceCycles := rfl
@[simp] theorem State.postAgain_contexts (s : State) (e : Instr) : (s.postAgain e).contexts = s.contexts := rfl
@[simp] theorem State.postAgain_mem (s : State) (e : Instr) : (s.postAgain e).mem = s.mem := rfl
@[simp] theorem State.postAgain_bad (s : State) (e : Instr) : (s.postAgain e).bad = s.bad := rfl
@[simp] theorem State.postAgain_stamps (s : State) (e : Instr) : (s.postAgain e).stamps = s.stamps := rfl
@[simp] theorem State.postAgain_discards (s : State) (e : Instr) : (s.postAgain e).discards = s.discards := rfl
@[simp] theorem State.postAgain_resvs (s : State) (e : Instr) : (s.postAgain e).resvs = s.resvs := rfl
@[simp] theorem State.postAgain_nextRid (s : State) (e : Instr) : (s.postAgain e).nextRid = s.nextRid := rfl
@[simp] theorem State.postAgain_weir (s : State) (e : Instr) : (s.postAgain e).weir = s.weir := rfl
@[simp] theorem State.postAgain_tlb (s : State) (e : Instr) : (s.postAgain e).tlb = s.tlb := rfl
@[simp] theorem State.postAgain_used (s : State) (e : Instr) : (s.postAgain e).used = s.used := rfl
@[simp] theorem State.postAgain_copies (s : State) (e : Instr) : (s.postAgain e).copies = s.copies := rfl
@[simp] theorem State.postAgain_dirs (s : State) (e : Instr) : (s.postAgain e).dirs = s.dirs := rfl
@[simp] theorem State.postAgain_fills (s : State) (e : Instr) : (s.postAgain e).fills = s.fills := rfl
@[simp] theorem State.postAgain_invals (s : State) (e : Instr) : (s.postAgain e).invals = s.invals := rfl
@[simp] theorem State.postAgain_lastInval (s : State) (e : Instr) : (s.postAgain e).lastInval = s.lastInval := rfl
@[simp] theorem State.postAgain_refused (s : State) (e : Instr) : (s.postAgain e).refused = s.refused := rfl
@[simp] theorem State.postAgain_tracked (s : State) (e : Instr) : (s.postAgain e).tracked = s.tracked := rfl
@[simp] theorem State.postAgain_l2 (s : State) (e : Instr) : (s.postAgain e).l2 = s.l2 := rfl
@[simp] theorem State.postAgain_storeClock (s : State) (e : Instr) : (s.postAgain e).storeClock = s.storeClock := rfl
@[simp] theorem State.postAgain_stampWrites (s : State) (e : Instr) : (s.postAgain e).stampWrites = s.stampWrites := rfl
@[simp] theorem State.postAgain_gangs (s : State) (e : Instr) : (s.postAgain e).gangs = s.gangs := rfl
@[simp] theorem State.postAgain_nextGang (s : State) (e : Instr) : (s.postAgain e).nextGang = s.nextGang := rfl
@[simp] theorem State.postAgain_launches (s : State) (e : Instr) : (s.postAgain e).launches = s.launches := rfl
@[simp] theorem State.postAgain_queues (s : State) (e : Instr) : (s.postAgain e).queues = s.queues := rfl
@[simp] theorem State.postAgain_clupart (s : State) (e : Instr) : (s.postAgain e).clupart = s.clupart := rfl
@[simp] theorem State.postAgain_tencfg (s : State) (e : Instr) : (s.postAgain e).tencfg = s.tencfg := rfl
@[simp] theorem State.postAgain_deficits (s : State) (e : Instr) : (s.postAgain e).deficits = s.deficits := rfl
@[simp] theorem State.postAgain_served (s : State) (e : Instr) : (s.postAgain e).served = s.served := rfl
@[simp] theorem State.postAgain_holds (s : State) (e : Instr) : (s.postAgain e).holds = s.holds := rfl
@[simp] theorem State.postAgain_cancels (s : State) (e : Instr) : (s.postAgain e).cancels = s.cancels := rfl
@[simp] theorem State.postAgain_sweeps (s : State) (e : Instr) : (s.postAgain e).sweeps = s.sweeps := rfl
@[simp] theorem State.postAgain_portA (s : State) (e : Instr) : (s.postAgain e).portA = s.portA := rfl
@[simp] theorem State.postAgain_portB (s : State) (e : Instr) : (s.postAgain e).portB = s.portB := rfl
@[simp] theorem State.postAgain_selfNum (s : State) (e : Instr) : (s.postAgain e).selfNum = s.selfNum := rfl
@[simp] theorem State.postAgain_selfInc (s : State) (e : Instr) : (s.postAgain e).selfInc = s.selfInc := rfl
@[simp] theorem State.postAgain_peers (s : State) (e : Instr) : (s.postAgain e).peers = s.peers := rfl
@[simp] theorem State.postAgain_owedStores (s : State) (e : Instr) : (s.postAgain e).owedStores = s.owedStores := rfl
@[simp] theorem State.postAgain_exports (s : State) (e : Instr) : (s.postAgain e).exports = s.exports := rfl
@[simp] theorem State.postAgain_grants (s : State) (e : Instr) : (s.postAgain e).grants = s.grants := rfl
@[simp] theorem State.postAgain_groups (s : State) (e : Instr) : (s.postAgain e).groups = s.groups := rfl
@[simp] theorem State.postAgain_island (s : State) (e : Instr) : (s.postAgain e).island = s.island := rfl
@[simp] theorem State.postAgain_retired (s : State) (e : Instr) : (s.postAgain e).retired = s.retired := rfl
@[simp] theorem State.postAgain_failing (s : State) (e : Instr) : (s.postAgain e).failing = s.failing := rfl
@[simp] theorem State.postAgain_halting (s : State) (e : Instr) : (s.postAgain e).halting = s.halting := rfl
@[simp] theorem State.postAgain_records (s : State) (e : Instr) : (s.postAgain e).records = s.records := rfl
@[simp] theorem State.postAgain_picks (s : State) (e : Instr) : (s.postAgain e).picks = s.picks := rfl
@[simp] theorem State.postAgain_turn (s : State) (e : Instr) : (s.postAgain e).turn = s.turn := rfl
@[simp] theorem State.postAgain_free (s : State) (e : Instr) : (s.postAgain e).free = s.free := rfl
@[simp] theorem State.postAgain_answers (s : State) (e : Instr) : (s.postAgain e).answers = s.answers := rfl

/-! Fields that depend on nothing (R201). -/

@[simp] theorem Thread.dropFlow_id (t : Thread) (rs : List Nat) : (t.dropFlow rs).id = t.id := rfl
@[simp] theorem Thread.dropFlow_state (t : Thread) (rs : List Nat) : (t.dropFlow rs).state = t.state := rfl
@[simp] theorem Thread.dropFlow_sup (t : Thread) (rs : List Nat) : (t.dropFlow rs).sup = t.sup := rfl
@[simp] theorem Thread.dropFlow_ctx (t : Thread) (rs : List Nat) : (t.dropFlow rs).ctx = t.ctx := rfl
@[simp] theorem Thread.dropFlow_tenant (t : Thread) (rs : List Nat) : (t.dropFlow rs).tenant = t.tenant := rfl
@[simp] theorem Thread.dropFlow_task (t : Thread) (rs : List Nat) : (t.dropFlow rs).task = t.task := rfl
@[simp] theorem Thread.dropFlow_graphno (t : Thread) (rs : List Nat) : (t.dropFlow rs).graphno = t.graphno := rfl
@[simp] theorem Thread.dropFlow_launch (t : Thread) (rs : List Nat) : (t.dropFlow rs).launch = t.launch := rfl
@[simp] theorem Thread.dropFlow_gang (t : Thread) (rs : List Nat) : (t.dropFlow rs).gang = t.gang := rfl
@[simp] theorem Thread.dropFlow_rank (t : Thread) (rs : List Nat) : (t.dropFlow rs).rank = t.rank := rfl
@[simp] theorem Thread.dropFlow_size (t : Thread) (rs : List Nat) : (t.dropFlow rs).size = t.size := rfl
@[simp] theorem Thread.dropFlow_nregs (t : Thread) (rs : List Nat) : (t.dropFlow rs).nregs = t.nregs := rfl
@[simp] theorem Thread.dropFlow_nvregs (t : Thread) (rs : List Nat) : (t.dropFlow rs).nvregs = t.nvregs := rfl
@[simp] theorem Thread.dropFlow_rbase (t : Thread) (rs : List Nat) : (t.dropFlow rs).rbase = t.rbase := rfl
@[simp] theorem Thread.dropFlow_vbase (t : Thread) (rs : List Nat) : (t.dropFlow rs).vbase = t.vbase := rfl
@[simp] theorem Thread.dropFlow_g (t : Thread) (rs : List Nat) : (t.dropFlow rs).g = t.g := rfl
@[simp] theorem Thread.dropFlow_v (t : Thread) (rs : List Nat) : (t.dropFlow rs).v = t.v := rfl
@[simp] theorem Thread.dropFlow_badG (t : Thread) (rs : List Nat) : (t.dropFlow rs).badG = t.badG := rfl
@[simp] theorem Thread.dropFlow_badV (t : Thread) (rs : List Nat) : (t.dropFlow rs).badV = t.badV := rfl
@[simp] theorem Thread.dropFlow_p (t : Thread) (rs : List Nat) : (t.dropFlow rs).p = t.p := rfl
@[simp] theorem Thread.dropFlow_pc (t : Thread) (rs : List Nat) : (t.dropFlow rs).pc = t.pc := rfl
@[simp] theorem Thread.dropFlow_iter (t : Thread) (rs : List Nat) : (t.dropFlow rs).iter = t.iter := rfl
@[simp] theorem Thread.dropFlow_weirlim (t : Thread) (rs : List Nat) : (t.dropFlow rs).weirlim = t.weirlim := rfl
@[simp] theorem Thread.dropFlow_tapeb (t : Thread) (rs : List Nat) : (t.dropFlow rs).tapeb = t.tapeb := rfl
@[simp] theorem Thread.dropFlow_tapel (t : Thread) (rs : List Nat) : (t.dropFlow rs).tapel = t.tapel := rfl
@[simp] theorem Thread.dropFlow_tapep (t : Thread) (rs : List Nat) : (t.dropFlow rs).tapep = t.tapep := rfl
@[simp] theorem Thread.dropFlow_dmode (t : Thread) (rs : List Nat) : (t.dropFlow rs).dmode = t.dmode := rfl
@[simp] theorem Thread.dropFlow_trapvec (t : Thread) (rs : List Nat) : (t.dropFlow rs).trapvec = t.trapvec := rfl
@[simp] theorem Thread.dropFlow_trappc (t : Thread) (rs : List Nat) : (t.dropFlow rs).trappc = t.trappc := rfl
@[simp] theorem Thread.dropFlow_trapcause (t : Thread) (rs : List Nat) : (t.dropFlow rs).trapcause = t.trapcause := rfl
@[simp] theorem Thread.dropFlow_trapval (t : Thread) (rs : List Nat) : (t.dropFlow rs).trapval = t.trapval := rfl
@[simp] theorem Thread.dropFlow_fpcsr (t : Thread) (rs : List Nat) : (t.dropFlow rs).fpcsr = t.fpcsr := rfl
@[simp] theorem Thread.dropFlow_rgspan (t : Thread) (rs : List Nat) : (t.dropFlow rs).rgspan = t.rgspan := rfl
@[simp] theorem Thread.dropFlow_cbdesc (t : Thread) (rs : List Nat) : (t.dropFlow rs).cbdesc = t.cbdesc := rfl
@[simp] theorem Thread.dropFlow_savearea (t : Thread) (rs : List Nat) : (t.dropFlow rs).savearea = t.savearea := rfl
@[simp] theorem Thread.dropFlow_monctl (t : Thread) (rs : List Nat) : (t.dropFlow rs).monctl = t.monctl := rfl
@[simp] theorem Thread.dropFlow_flume (t : Thread) (rs : List Nat) : (t.dropFlow rs).flume = t.flume := rfl
@[simp] theorem Thread.dropFlow_batch (t : Thread) (rs : List Nat) : (t.dropFlow rs).batch = t.batch := rfl
@[simp] theorem Thread.dropFlow_row (t : Thread) (rs : List Nat) : (t.dropFlow rs).row = t.row := rfl
@[simp] theorem Thread.dropFlow_mcPos (t : Thread) (rs : List Nat) : (t.dropFlow rs).mcPos = t.mcPos := rfl
@[simp] theorem Thread.dropFlow_mcNeg (t : Thread) (rs : List Nat) : (t.dropFlow rs).mcNeg = t.mcNeg := rfl
@[simp] theorem Thread.dropFlow_mcLow (t : Thread) (rs : List Nat) : (t.dropFlow rs).mcLow = t.mcLow := rfl
@[simp] theorem Thread.dropFlow_mcOwed (t : Thread) (rs : List Nat) : (t.dropFlow rs).mcOwed = t.mcOwed := rfl
@[simp] theorem Thread.dropFlow_resv (t : Thread) (rs : List Nat) : (t.dropFlow rs).resv = t.resv := rfl
@[simp] theorem Thread.dropFlow_arrived (t : Thread) (rs : List Nat) : (t.dropFlow rs).arrived = t.arrived := rfl
@[simp] theorem Thread.dropFlow_ended (t : Thread) (rs : List Nat) : (t.dropFlow rs).ended = t.ended := rfl
@[simp] theorem Thread.dropFlow_lastSealed (t : Thread) (rs : List Nat) : (t.dropFlow rs).lastSealed = t.lastSealed := rfl
@[simp] theorem Thread.dropFlow_since (t : Thread) (rs : List Nat) : (t.dropFlow rs).since = t.since := rfl
@[simp] theorem Thread.dropFlow_wake (t : Thread) (rs : List Nat) : (t.dropFlow rs).wake = t.wake := rfl
@[simp] theorem Thread.dropFlow_held (t : Thread) (rs : List Nat) : (t.dropFlow rs).held = t.held := rfl
@[simp] theorem Thread.dropFlow_nomap (t : Thread) (rs : List Nat) : (t.dropFlow rs).nomap = t.nomap := rfl
@[simp] theorem Thread.dropFlow_future (t : Thread) (rs : List Nat) : (t.dropFlow rs).future = t.future := rfl
@[simp] theorem Thread.dropFlow_reply (t : Thread) (rs : List Nat) : (t.dropFlow rs).reply = t.reply := rfl
@[simp] theorem Thread.dropFlow_homeCoh (t : Thread) (rs : List Nat) : (t.dropFlow rs).homeCoh = t.homeCoh := rfl
@[simp] theorem Thread.dropFlow_relScope (t : Thread) (rs : List Nat) : (t.dropFlow rs).relScope = t.relScope := rfl
@[simp] theorem Thread.dropFlow_postedA (t : Thread) (rs : List Nat) : (t.dropFlow rs).postedA = t.postedA := rfl
@[simp] theorem Thread.dropFlow_postedB (t : Thread) (rs : List Nat) : (t.dropFlow rs).postedB = t.postedB := rfl
@[simp] theorem Thread.dropFlow_volatileA (t : Thread) (rs : List Nat) : (t.dropFlow rs).volatileA = t.volatileA := rfl
@[simp] theorem Thread.dropFlow_volatileB (t : Thread) (rs : List Nat) : (t.dropFlow rs).volatileB = t.volatileB := rfl
@[simp] theorem Thread.dropFlow_awaits (t : Thread) (rs : List Nat) : (t.dropFlow rs).awaits = t.awaits := rfl
@[simp] theorem Thread.dropFlow_pins (t : Thread) (rs : List Nat) : (t.dropFlow rs).pins = t.pins := rfl
@[simp] theorem Thread.dropFlow_agedWait (t : Thread) (rs : List Nat) : (t.dropFlow rs).agedWait = t.agedWait := rfl
@[simp] theorem Thread.dropFlow_walks (t : Thread) (rs : List Nat) : (t.dropFlow rs).walks = t.walks := rfl
@[simp] theorem Thread.dropFlow_asked (t : Thread) (rs : List Nat) : (t.dropFlow rs).asked = t.asked := rfl
@[simp] theorem Thread.dropFlow_seen (t : Thread) (rs : List Nat) : (t.dropFlow rs).seen = t.seen := rfl
@[simp] theorem Thread.dropFlow_heard (t : Thread) (rs : List Nat) : (t.dropFlow rs).heard = t.heard := rfl
@[simp] theorem Thread.dropFlow_front (t : Thread) (rs : List Nat) : (t.dropFlow rs).front = t.front := rfl
@[simp] theorem Thread.dropFlow_got (t : Thread) (rs : List Nat) : (t.dropFlow rs).got = t.got := rfl
@[simp] theorem Thread.dropFlow_flumeFlow (t : Thread) (rs : List Nat) : (t.dropFlow rs).flumeFlow = t.flumeFlow := rfl
@[simp] theorem Thread.dropFlow_counted (t : Thread) (rs : List Nat) : (t.dropFlow rs).counted = t.counted := rfl

/-! A thread goes on at an address (R50, R51). -/

@[simp] theorem Thread.goTo_id (t : Thread) (pc : Word) : (t.goTo pc).id = t.id := rfl
@[simp] theorem Thread.goTo_sup (t : Thread) (pc : Word) : (t.goTo pc).sup = t.sup := rfl
@[simp] theorem Thread.goTo_ctx (t : Thread) (pc : Word) : (t.goTo pc).ctx = t.ctx := rfl
@[simp] theorem Thread.goTo_tenant (t : Thread) (pc : Word) : (t.goTo pc).tenant = t.tenant := rfl
@[simp] theorem Thread.goTo_task (t : Thread) (pc : Word) : (t.goTo pc).task = t.task := rfl
@[simp] theorem Thread.goTo_graphno (t : Thread) (pc : Word) : (t.goTo pc).graphno = t.graphno := rfl
@[simp] theorem Thread.goTo_launch (t : Thread) (pc : Word) : (t.goTo pc).launch = t.launch := rfl
@[simp] theorem Thread.goTo_gang (t : Thread) (pc : Word) : (t.goTo pc).gang = t.gang := rfl
@[simp] theorem Thread.goTo_rank (t : Thread) (pc : Word) : (t.goTo pc).rank = t.rank := rfl
@[simp] theorem Thread.goTo_size (t : Thread) (pc : Word) : (t.goTo pc).size = t.size := rfl
@[simp] theorem Thread.goTo_nregs (t : Thread) (pc : Word) : (t.goTo pc).nregs = t.nregs := rfl
@[simp] theorem Thread.goTo_nvregs (t : Thread) (pc : Word) : (t.goTo pc).nvregs = t.nvregs := rfl
@[simp] theorem Thread.goTo_rbase (t : Thread) (pc : Word) : (t.goTo pc).rbase = t.rbase := rfl
@[simp] theorem Thread.goTo_vbase (t : Thread) (pc : Word) : (t.goTo pc).vbase = t.vbase := rfl
@[simp] theorem Thread.goTo_g (t : Thread) (pc : Word) : (t.goTo pc).g = t.g := rfl
@[simp] theorem Thread.goTo_v (t : Thread) (pc : Word) : (t.goTo pc).v = t.v := rfl
@[simp] theorem Thread.goTo_badG (t : Thread) (pc : Word) : (t.goTo pc).badG = t.badG := rfl
@[simp] theorem Thread.goTo_badV (t : Thread) (pc : Word) : (t.goTo pc).badV = t.badV := rfl
@[simp] theorem Thread.goTo_p (t : Thread) (pc : Word) : (t.goTo pc).p = t.p := rfl
@[simp] theorem Thread.goTo_iter (t : Thread) (pc : Word) : (t.goTo pc).iter = t.iter := rfl
@[simp] theorem Thread.goTo_weirlim (t : Thread) (pc : Word) : (t.goTo pc).weirlim = t.weirlim := rfl
@[simp] theorem Thread.goTo_tapeb (t : Thread) (pc : Word) : (t.goTo pc).tapeb = t.tapeb := rfl
@[simp] theorem Thread.goTo_tapel (t : Thread) (pc : Word) : (t.goTo pc).tapel = t.tapel := rfl
@[simp] theorem Thread.goTo_tapep (t : Thread) (pc : Word) : (t.goTo pc).tapep = t.tapep := rfl
@[simp] theorem Thread.goTo_dmode (t : Thread) (pc : Word) : (t.goTo pc).dmode = t.dmode := rfl
@[simp] theorem Thread.goTo_trapvec (t : Thread) (pc : Word) : (t.goTo pc).trapvec = t.trapvec := rfl
@[simp] theorem Thread.goTo_trappc (t : Thread) (pc : Word) : (t.goTo pc).trappc = t.trappc := rfl
@[simp] theorem Thread.goTo_trapcause (t : Thread) (pc : Word) : (t.goTo pc).trapcause = t.trapcause := rfl
@[simp] theorem Thread.goTo_trapval (t : Thread) (pc : Word) : (t.goTo pc).trapval = t.trapval := rfl
@[simp] theorem Thread.goTo_fpcsr (t : Thread) (pc : Word) : (t.goTo pc).fpcsr = t.fpcsr := rfl
@[simp] theorem Thread.goTo_rgspan (t : Thread) (pc : Word) : (t.goTo pc).rgspan = t.rgspan := rfl
@[simp] theorem Thread.goTo_cbdesc (t : Thread) (pc : Word) : (t.goTo pc).cbdesc = t.cbdesc := rfl
@[simp] theorem Thread.goTo_savearea (t : Thread) (pc : Word) : (t.goTo pc).savearea = t.savearea := rfl
@[simp] theorem Thread.goTo_monctl (t : Thread) (pc : Word) : (t.goTo pc).monctl = t.monctl := rfl
@[simp] theorem Thread.goTo_flume (t : Thread) (pc : Word) : (t.goTo pc).flume = t.flume := rfl
@[simp] theorem Thread.goTo_batch (t : Thread) (pc : Word) : (t.goTo pc).batch = t.batch := rfl
@[simp] theorem Thread.goTo_row (t : Thread) (pc : Word) : (t.goTo pc).row = t.row := rfl
@[simp] theorem Thread.goTo_mcPos (t : Thread) (pc : Word) : (t.goTo pc).mcPos = t.mcPos := rfl
@[simp] theorem Thread.goTo_mcNeg (t : Thread) (pc : Word) : (t.goTo pc).mcNeg = t.mcNeg := rfl
@[simp] theorem Thread.goTo_mcLow (t : Thread) (pc : Word) : (t.goTo pc).mcLow = t.mcLow := rfl
@[simp] theorem Thread.goTo_mcOwed (t : Thread) (pc : Word) : (t.goTo pc).mcOwed = t.mcOwed := rfl
@[simp] theorem Thread.goTo_resv (t : Thread) (pc : Word) : (t.goTo pc).resv = t.resv := rfl
@[simp] theorem Thread.goTo_ended (t : Thread) (pc : Word) : (t.goTo pc).ended = t.ended := rfl
@[simp] theorem Thread.goTo_lastSealed (t : Thread) (pc : Word) : (t.goTo pc).lastSealed = t.lastSealed := rfl
@[simp] theorem Thread.goTo_since (t : Thread) (pc : Word) : (t.goTo pc).since = t.since := rfl
@[simp] theorem Thread.goTo_nomap (t : Thread) (pc : Word) : (t.goTo pc).nomap = t.nomap := rfl
@[simp] theorem Thread.goTo_future (t : Thread) (pc : Word) : (t.goTo pc).future = t.future := rfl
@[simp] theorem Thread.goTo_homeCoh (t : Thread) (pc : Word) : (t.goTo pc).homeCoh = t.homeCoh := rfl
@[simp] theorem Thread.goTo_relScope (t : Thread) (pc : Word) : (t.goTo pc).relScope = t.relScope := rfl
@[simp] theorem Thread.goTo_postedA (t : Thread) (pc : Word) : (t.goTo pc).postedA = t.postedA := rfl
@[simp] theorem Thread.goTo_postedB (t : Thread) (pc : Word) : (t.goTo pc).postedB = t.postedB := rfl
@[simp] theorem Thread.goTo_volatileA (t : Thread) (pc : Word) : (t.goTo pc).volatileA = t.volatileA := rfl
@[simp] theorem Thread.goTo_volatileB (t : Thread) (pc : Word) : (t.goTo pc).volatileB = t.volatileB := rfl
@[simp] theorem Thread.goTo_seen (t : Thread) (pc : Word) : (t.goTo pc).seen = t.seen := rfl
@[simp] theorem Thread.goTo_heard (t : Thread) (pc : Word) : (t.goTo pc).heard = t.heard := rfl
@[simp] theorem Thread.goTo_front (t : Thread) (pc : Word) : (t.goTo pc).front = t.front := rfl
@[simp] theorem Thread.goTo_got (t : Thread) (pc : Word) : (t.goTo pc).got = t.got := rfl
@[simp] theorem Thread.goTo_flow (t : Thread) (pc : Word) : (t.goTo pc).flow = t.flow := rfl
@[simp] theorem Thread.goTo_flumeFlow (t : Thread) (pc : Word) : (t.goTo pc).flumeFlow = t.flumeFlow := rfl
@[simp] theorem Thread.goTo_counted (t : Thread) (pc : Word) : (t.goTo pc).counted = t.counted := rfl

/-! A thread returns from its handler (R240). -/

@[simp] theorem Thread.returnTo_id (t : Thread) (pc : Word) : (t.returnTo pc).id = t.id := rfl
@[simp] theorem Thread.returnTo_sup (t : Thread) (pc : Word) : (t.returnTo pc).sup = t.sup := rfl
@[simp] theorem Thread.returnTo_ctx (t : Thread) (pc : Word) : (t.returnTo pc).ctx = t.ctx := rfl
@[simp] theorem Thread.returnTo_tenant (t : Thread) (pc : Word) : (t.returnTo pc).tenant = t.tenant := rfl
@[simp] theorem Thread.returnTo_task (t : Thread) (pc : Word) : (t.returnTo pc).task = t.task := rfl
@[simp] theorem Thread.returnTo_graphno (t : Thread) (pc : Word) : (t.returnTo pc).graphno = t.graphno := rfl
@[simp] theorem Thread.returnTo_launch (t : Thread) (pc : Word) : (t.returnTo pc).launch = t.launch := rfl
@[simp] theorem Thread.returnTo_gang (t : Thread) (pc : Word) : (t.returnTo pc).gang = t.gang := rfl
@[simp] theorem Thread.returnTo_rank (t : Thread) (pc : Word) : (t.returnTo pc).rank = t.rank := rfl
@[simp] theorem Thread.returnTo_size (t : Thread) (pc : Word) : (t.returnTo pc).size = t.size := rfl
@[simp] theorem Thread.returnTo_nregs (t : Thread) (pc : Word) : (t.returnTo pc).nregs = t.nregs := rfl
@[simp] theorem Thread.returnTo_nvregs (t : Thread) (pc : Word) : (t.returnTo pc).nvregs = t.nvregs := rfl
@[simp] theorem Thread.returnTo_rbase (t : Thread) (pc : Word) : (t.returnTo pc).rbase = t.rbase := rfl
@[simp] theorem Thread.returnTo_vbase (t : Thread) (pc : Word) : (t.returnTo pc).vbase = t.vbase := rfl
@[simp] theorem Thread.returnTo_g (t : Thread) (pc : Word) : (t.returnTo pc).g = t.g := rfl
@[simp] theorem Thread.returnTo_v (t : Thread) (pc : Word) : (t.returnTo pc).v = t.v := rfl
@[simp] theorem Thread.returnTo_badG (t : Thread) (pc : Word) : (t.returnTo pc).badG = t.badG := rfl
@[simp] theorem Thread.returnTo_badV (t : Thread) (pc : Word) : (t.returnTo pc).badV = t.badV := rfl
@[simp] theorem Thread.returnTo_p (t : Thread) (pc : Word) : (t.returnTo pc).p = t.p := rfl
@[simp] theorem Thread.returnTo_iter (t : Thread) (pc : Word) : (t.returnTo pc).iter = t.iter := rfl
@[simp] theorem Thread.returnTo_weirlim (t : Thread) (pc : Word) : (t.returnTo pc).weirlim = t.weirlim := rfl
@[simp] theorem Thread.returnTo_tapeb (t : Thread) (pc : Word) : (t.returnTo pc).tapeb = t.tapeb := rfl
@[simp] theorem Thread.returnTo_tapel (t : Thread) (pc : Word) : (t.returnTo pc).tapel = t.tapel := rfl
@[simp] theorem Thread.returnTo_tapep (t : Thread) (pc : Word) : (t.returnTo pc).tapep = t.tapep := rfl
@[simp] theorem Thread.returnTo_dmode (t : Thread) (pc : Word) : (t.returnTo pc).dmode = t.dmode := rfl
@[simp] theorem Thread.returnTo_trapvec (t : Thread) (pc : Word) : (t.returnTo pc).trapvec = t.trapvec := rfl
@[simp] theorem Thread.returnTo_trappc (t : Thread) (pc : Word) : (t.returnTo pc).trappc = t.trappc := rfl
@[simp] theorem Thread.returnTo_trapval (t : Thread) (pc : Word) : (t.returnTo pc).trapval = t.trapval := rfl
@[simp] theorem Thread.returnTo_fpcsr (t : Thread) (pc : Word) : (t.returnTo pc).fpcsr = t.fpcsr := rfl
@[simp] theorem Thread.returnTo_rgspan (t : Thread) (pc : Word) : (t.returnTo pc).rgspan = t.rgspan := rfl
@[simp] theorem Thread.returnTo_cbdesc (t : Thread) (pc : Word) : (t.returnTo pc).cbdesc = t.cbdesc := rfl
@[simp] theorem Thread.returnTo_savearea (t : Thread) (pc : Word) : (t.returnTo pc).savearea = t.savearea := rfl
@[simp] theorem Thread.returnTo_monctl (t : Thread) (pc : Word) : (t.returnTo pc).monctl = t.monctl := rfl
@[simp] theorem Thread.returnTo_flume (t : Thread) (pc : Word) : (t.returnTo pc).flume = t.flume := rfl
@[simp] theorem Thread.returnTo_batch (t : Thread) (pc : Word) : (t.returnTo pc).batch = t.batch := rfl
@[simp] theorem Thread.returnTo_row (t : Thread) (pc : Word) : (t.returnTo pc).row = t.row := rfl
@[simp] theorem Thread.returnTo_mcPos (t : Thread) (pc : Word) : (t.returnTo pc).mcPos = t.mcPos := rfl
@[simp] theorem Thread.returnTo_mcNeg (t : Thread) (pc : Word) : (t.returnTo pc).mcNeg = t.mcNeg := rfl
@[simp] theorem Thread.returnTo_mcLow (t : Thread) (pc : Word) : (t.returnTo pc).mcLow = t.mcLow := rfl
@[simp] theorem Thread.returnTo_mcOwed (t : Thread) (pc : Word) : (t.returnTo pc).mcOwed = t.mcOwed := rfl
@[simp] theorem Thread.returnTo_resv (t : Thread) (pc : Word) : (t.returnTo pc).resv = t.resv := rfl
@[simp] theorem Thread.returnTo_ended (t : Thread) (pc : Word) : (t.returnTo pc).ended = t.ended := rfl
@[simp] theorem Thread.returnTo_lastSealed (t : Thread) (pc : Word) : (t.returnTo pc).lastSealed = t.lastSealed := rfl
@[simp] theorem Thread.returnTo_since (t : Thread) (pc : Word) : (t.returnTo pc).since = t.since := rfl
@[simp] theorem Thread.returnTo_nomap (t : Thread) (pc : Word) : (t.returnTo pc).nomap = t.nomap := rfl
@[simp] theorem Thread.returnTo_future (t : Thread) (pc : Word) : (t.returnTo pc).future = t.future := rfl
@[simp] theorem Thread.returnTo_homeCoh (t : Thread) (pc : Word) : (t.returnTo pc).homeCoh = t.homeCoh := rfl
@[simp] theorem Thread.returnTo_relScope (t : Thread) (pc : Word) : (t.returnTo pc).relScope = t.relScope := rfl
@[simp] theorem Thread.returnTo_postedA (t : Thread) (pc : Word) : (t.returnTo pc).postedA = t.postedA := rfl
@[simp] theorem Thread.returnTo_postedB (t : Thread) (pc : Word) : (t.returnTo pc).postedB = t.postedB := rfl
@[simp] theorem Thread.returnTo_volatileA (t : Thread) (pc : Word) : (t.returnTo pc).volatileA = t.volatileA := rfl
@[simp] theorem Thread.returnTo_volatileB (t : Thread) (pc : Word) : (t.returnTo pc).volatileB = t.volatileB := rfl
@[simp] theorem Thread.returnTo_seen (t : Thread) (pc : Word) : (t.returnTo pc).seen = t.seen := rfl
@[simp] theorem Thread.returnTo_heard (t : Thread) (pc : Word) : (t.returnTo pc).heard = t.heard := rfl
@[simp] theorem Thread.returnTo_front (t : Thread) (pc : Word) : (t.returnTo pc).front = t.front := rfl
@[simp] theorem Thread.returnTo_got (t : Thread) (pc : Word) : (t.returnTo pc).got = t.got := rfl
@[simp] theorem Thread.returnTo_flow (t : Thread) (pc : Word) : (t.returnTo pc).flow = t.flow := rfl
@[simp] theorem Thread.returnTo_flumeFlow (t : Thread) (pc : Word) : (t.returnTo pc).flumeFlow = t.flumeFlow := rfl
@[simp] theorem Thread.returnTo_counted (t : Thread) (pc : Word) : (t.returnTo pc).counted = t.counted := rfl

/-! What they do change. -/

@[simp] theorem State.advance_pc (s : State) (n : Nat) : (s.advance n).cpu.pc = s.cpu.pc + BitVec.ofNat 64 n := rfl
@[simp] theorem State.goneTo_pc (s : State) (t : Word) : (s.goneTo t).cpu.pc = t := rfl
@[simp] theorem State.homeWrite_mem (s : State) (a : Nat) (bs : List Byte) :
    (s.homeWrite a bs).mem = Memory.writes s.mem a bs := rfl
@[simp] theorem State.setStamp_stamps (s : State) (g : Nat) (x : BitVec 32) :
    (s.setStamp g x).stamps = assocSet g x s.stamps := rfl
@[simp] theorem State.post_events (s : State) (e : Instr) : (s.post e).events = s.events ++ [e] := rfl
@[simp] theorem State.answer_answers (s : State) (a : Option (BitVec 128)) : (s.answer a).answers = a :: s.answers := rfl
@[simp] theorem Thread.goTo_pc (t : Thread) (pc : Word) : (t.goTo pc).pc = pc := rfl
@[simp] theorem Thread.goTo_state (t : Thread) (pc : Word) : (t.goTo pc).state = .ready := rfl
@[simp] theorem Thread.returnTo_pc (t : Thread) (pc : Word) : (t.returnTo pc).pc = pc := rfl

/-- A write of a register changes the register file and the check of the register (R477). -/
theorem Thread.setReg_fields (t : Thread) (i : Nat) (x : Word) : t.setReg i x = { t with g := (t.setReg i x).g, badG := (t.setReg i x).badG } := by
  unfold Thread.setReg; split <;> rfl

/-- g0 discards what is written (R57). -/
@[simp] theorem Thread.setReg_zero (t : Thread) (x : Word) : t.setReg 0 x = t := by simp [Thread.setReg]

/-- The gang, launch and context tables keep the other parts of the state. -/
theorem State.putContext_fields (s : State) (c : Context) : s.putContext c = { s with contexts := (s.putContext c).contexts } := by
  rfl

theorem State.putThread_fields (s : State) (t : Thread) :
    s.putThread t = { s with cpu := (s.putThread t).cpu, others := (s.putThread t).others } := by
  unfold State.putThread; split <;> rfl

theorem State.mapThreads_fields (s : State) (p : Thread → Bool) (f : Thread → Thread) :
    s.mapThreads p f = { s with cpu := (s.mapThreads p f).cpu, others := (s.mapThreads p f).others } := by
  rfl

/-- A self-test starts: an event and a free choice (R478). -/
theorem State.selfTest_fields (s : State) (u : Option TestUnit) :
    s.selfTest u = { s with events := (s.selfTest u).events, free := (s.selfTest u).free } := by
  cases u <;> rfl

/-- A write that copies of a die see changes copies alone (R205). -/
theorem State.syncFor_fields (s : State) (slot k n : Nat) : s.syncFor slot k n = { s with copies := (s.syncFor slot k n).copies } := by
  unfold State.syncFor; split <;> rfl

/-- A line comes to its slice's local partition: nothing else changes, but for the free choice of the line it displaces (R169). -/
theorem State.keepLine_fields (s : State) (a n ctx : Nat) (dirty : Bool) :
    s.keepLine a n ctx dirty = { s with l2 := (s.keepLine a n ctx dirty).l2, free := (s.keepLine a n ctx dirty).free } := by
  unfold State.keepLine
  dsimp only
  split
  · rfl
  · split
    · rfl
    · split <;> rfl

/-- Reading a register that pops touches the flume queue alone (R64). -/
theorem State.popped_fields (s : State) (r : Reg) :
    s.popped r = { s with cpu := { s.cpu with flume := (s.popped r).cpu.flume } } := by
  unfold State.popped; split <;> rfl

/-- A field written: a register of the current thread, or a queue downstream. -/
theorem State.written_fields (s : State) (r : Reg) (x : Word) :
    s.written r x = { s with cpu := (s.written r x).cpu, others := (s.written r x).others } := by
  unfold State.written
  split
  · unfold State.pushed
    split
    · exact State.putThread_fields _ _
    · rfl
  · rfl

@[simp] theorem State.popped_mem (s : State) (r : Reg) : (s.popped r).mem = s.mem := by rw [State.popped_fields]
@[simp] theorem State.popped_pc (s : State) (r : Reg) : (s.popped r).cpu.pc = s.cpu.pc := by rw [State.popped_fields]
@[simp] theorem State.popped_regs (s : State) (r : Reg) : (s.popped r).cpu.g = s.cpu.g := by rw [State.popped_fields]
@[simp] theorem State.written_mem (s : State) (r : Reg) (x : Word) : (s.written r x).mem = s.mem := by rw [State.written_fields]
@[simp] theorem State.written_stamps (s : State) (r : Reg) (x : Word) : (s.written r x).stamps = s.stamps := by
  rw [State.written_fields]

end Sys2Proof.Machine
end

