-- ==== Sys2Proof/Tests/Slice0.lean ====
section
/-!
SUPPORT. Tests: words written out from the encodings of the spec, ill-formed terms that the check refuses, single steps
checked against the spec's own examples and rules, and, for each obligation with hypotheses, a witness that they can be met
together. `wit_<Statement>` names the part of the statement it is about; each says on which state and operands.
-/
set_option maxRecDepth 20000
set_option exponentiation.threshold 600
set_option Elab.async false
namespace Sys2Proof.Tests
open Sys2Proof Sys2Proof.Machine

/-! Small states. -/

/-- Registers with the values listed, the rest 0. -/
def regs (l : List (Nat × Word)) : Vector Word 128 :=
  l.foldl (fun v e => if h : e.1 < 128 then v.set e.1 e.2 h else v) (Vector.replicate 128 0)

/-- A supervisor thread of gang 1 in slot 0 of core 0, with every register its instructions may name. -/
def thr : Thread :=
  { Thread.free 0 with
    state := .ready, sup := true, gang := 1, size := 2, nregs := 128, nvregs := 16, pc := 0x10000, trapvec := 0x12000
    g := regs [(2, 0x20000), (3, 0x24000), (4, 0x28000), (5, 7), (6, 0x20040), (7, 0x30000), (8, 0x34000), (9, 0x38000)], flume := [11, 22] }

/-- An entry of die 0's TLB for the page of context 0 at `va`. -/
def leaf (va : Nat) (pte dw0 dw1 dw2 : Word) : TlbEntry :=
  { die := 0, ctx := 0, va := va, span := 0, pte := pte, dw0 := dw0, dw1 := dw1, dw2 := dw2 }

/-- Context 0: its supervisor block at PA 0x80000. -/
def ctx0 : Context :=
  { num := 0, tenant := 0, priv := true, pageroot := 0, regiontab := 0, supvec := 0x80000, hctx := 0, closing := false,
    scrubbing := false, releaser := 0, frames := 0, nframes := 0 }

/-- A plain page at VA 0x20000, an aged one at 0x24000, a differentiable one of FP32 at 0x28000 with its shadow at 0x2C000,
a plain page for that, and plain pages of homes 2, 1 and 3 at 0x30000,
0x34000 and 0x38000, and two plain pages at 0x40000 and 0x44000. -/
def pages : List TlbEntry :=
  [leaf 0x20000 0x1000003F 4 0 0, leaf 0x24000 0x1400003F 5 0 0, leaf 0x28000 0x1800003F 6 0x28000 0x2C000,
   leaf 0x2C000 0x1C00003F 4 0 0, leaf 0x30000 0x0200003F 4 0 0,
   leaf 0x34000 0x0100003F 4 0 0, leaf 0x38000 0x0300003F 4 0 0,
   leaf 0x40000 0x2000003F 4 0 0, leaf 0x44000 0x2400003F 4 0 0]

/-- The thread above with its flume partners in slot 0 of cores 1 and 7, and those pages. -/
def st : State :=
  { State.reset with
    cpu := thr, others := [{ thr with id := 64, flume := [] }, { thr with id := 448, flume := [] }], contexts := [ctx0], tlb := pages }

/-- The same with another thread. -/
def on (s : State) (f : Thread → Thread) : State := { s with cpu := f s.cpu }

/-- `r` is a success with this value. -/
def isOk {α : Type} [DecidableEq α] (r : Except Stop (α × State)) (a : α) : Bool :=
  match r with | .ok p => decide (p.1 = a) | .error _ => false
/-- The state it leaves. -/
def leaves {α : Type} (r : Except Stop (α × State)) : State := match r with | .ok p => p.2 | .error _ => State.reset
theorem isOk_eq {α : Type} [DecidableEq α] {r : Except Stop (α × State)} {a : α} (h : isOk r a = true) : r = .ok (a, leaves r) := by
  unfold isOk at h
  split at h
  · simp only [decide_eq_true_eq] at h
    subst h; rfl
  · cases h

/-- Doublewords and shorter values in memory: address, bytes, value. -/
def setM (s : State) (l : List (Nat × Nat × Nat)) : State :=
  { s with mem := l.foldl (fun m e => Memory.writes m e.1 (leBytes e.2.1 e.2.2)) s.mem }

/-- The translation of `va` by entry `n` of the list. -/
def xl (n : Nat) (va : Nat) : Xlat :=
  let e := (pages[n]?).getD (leaf 0 0 0 0 0)
  { entry := e, va := va, pa := e.physical va }

/-- The chain without prefixes, guarded by p0; the one with XR; the one whose guard p1 is 0. -/
def ch : Chain := { guard := 0, inv := false, hasXQ := false, hasXR := false, nxi := 0 }
def chXR : Chain := { ch with hasXR := true }
def chOff : Chain := { ch with guard := 1 }

/-! Decoding: for every encoded constructor, halfwords written out from the layouts of R25 to R36, the opcode map (R44) and the
encoding that the instruction's own entry gives. -/

def decodes (l : List (List Half × Instr)) : Bool :=
  l.all fun p => match decode p.1 with | .ok i rest => decide (i = p.2) && decide (rest = []) | _ => false

theorem test_decode_page0_a : decodes
    [([0x0155], .udf ch 0x155 0 0 []),
     ([0x0400], .nop ch),
     ([0x0822], .mov ch 1 2),
     ([0x0C7F], .movi ch 3 (-1)),
     ([0xF585, 0x1022], .add { ch with hasXR := true } 33 66 5),
     ([0xF585, 0x1422], .sub { ch with hasXR := true } 33 66 5),
     ([0xF585, 0x1C22], .mul { ch with hasXR := true } 33 66 5),
     ([0xF585, 0x2022], .mulh { ch with hasXR := true } 33 66 5),
     ([0xF585, 0x2422], .mulhu { ch with hasXR := true } 33 66 5),
     ([0xF585, 0x2822], .div { ch with hasXR := true } 33 66 5),
     ([0xF585, 0x2C22], .divu { ch with hasXR := true } 33 66 5),
     ([0xF585, 0x3022], .rem { ch with hasXR := true } 33 66 5),
     ([0xF585, 0x3422], .remu { ch with hasXR := true } 33 66 5),
     ([0xF585, 0x3822], .and { ch with hasXR := true } 33 66 5),
     ([0xF585, 0x3C22], .or { ch with hasXR := true } 33 66 5),
     ([0xF585, 0x4022], .xor { ch with hasXR := true } 33 66 5),
     ([0xF585, 0x5022], .shl { ch with hasXR := true } 33 66 5),
     ([0xF585, 0x5422], .shr { ch with hasXR := true } 33 66 5),
     ([0xF585, 0x5822], .sar { ch with hasXR := true } 33 66 5),
     ([0xF585, 0x7022], .min { ch with hasXR := true } 33 66 5)] = true := by decide
theorem test_decode_page0_b : decodes
    [([0xF585, 0x7422], .max { ch with hasXR := true } 33 66 5),
     ([0xF700, 0xF3EF, 0x183F], .addi { ch with hasXR := true, nxi := 1 } 97 (-513)),
     ([0xF700, 0xF3EF, 0xE83F], .muli { ch with hasXR := true, nxi := 1 } 97 (-513)),
     ([0xF3FF, 0x445F], .andi { ch with nxi := 1 } 2 0x7FFF),
     ([0xF3FF, 0x485F], .ori { ch with nxi := 1 } 2 0x7FFF),
     ([0xF3FF, 0x4C5F], .xori { ch with nxi := 1 } 2 0x7FFF),
     ([0xF001, 0x5C5F], .shli { ch with nxi := 1 } 2 63),
     ([0xF001, 0x605F], .shri { ch with nxi := 1 } 2 63),
     ([0xF001, 0x645F], .sari { ch with nxi := 1 } 2 63),
     ([0xF7C0, 0x6BFE], .clz { ch with hasXR := true } 127 126),
     ([0xF7C0, 0x6FFE], .popc { ch with hasXR := true } 127 126),
     ([0xFCB5, 0x7889], .ceq { ch with guard := 2, inv := true, hasXQ := true } 4 9 0x15),
     ([0xFCB5, 0x7C89], .cne { ch with guard := 2, inv := true, hasXQ := true } 4 9 0x15),
     ([0xFCB5, 0x8089], .clt { ch with guard := 2, inv := true, hasXQ := true } 4 9 0x15),
     ([0xFCB5, 0x8489], .cle { ch with guard := 2, inv := true, hasXQ := true } 4 9 0x15),
     ([0xFCB5, 0x8889], .cltu { ch with guard := 2, inv := true, hasXQ := true } 4 9 0x15),
     ([0xFCB5, 0x8C89], .cleu { ch with guard := 2, inv := true, hasXQ := true } 4 9 0x15),
     ([0xFC03, 0x9090], .ceqi { ch with hasXQ := true } 4 (-16) 3),
     ([0x94E0], .prd ch 7),
     ([0xF700, 0x98E0], .pwr { ch with hasXR := true } 103)] = true := by decide
theorem test_decode_page0_c : decodes
    [([0x9E00], .br ch (-512)),
     ([0xF000, 0xA1F0], .bl { ch with nxi := 1 } 15 16),
     ([0xA40F], .jr ch 0 15),
     ([0xA83F], .loop ch 1 (-1)),
     ([0xAC00], .endThread ch),
     ([0xFC0A, 0xF3FE, 0xB126], .ldb { ch with hasXQ := true, nxi := 1 } 9 6 (-2) ⟨.ordered, .device⟩),
     ([0xFC0A, 0xF3FE, 0xB526], .ldh { ch with hasXQ := true, nxi := 1 } 9 6 (-2) ⟨.ordered, .device⟩),
     ([0xFC0A, 0xF3FE, 0xB926], .ldw { ch with hasXQ := true, nxi := 1 } 9 6 (-2) ⟨.ordered, .device⟩),
     ([0xFC0A, 0xF3FE, 0xBD26], .ldd { ch with hasXQ := true, nxi := 1 } 9 6 (-2) ⟨.ordered, .device⟩),
     ([0xFC0A, 0xF3FE, 0xC526], .stb { ch with hasXQ := true, nxi := 1 } 9 6 (-2) ⟨.ordered, .device⟩),
     ([0xFC0A, 0xF3FE, 0xC926], .sth { ch with hasXQ := true, nxi := 1 } 9 6 (-2) ⟨.ordered, .device⟩),
     ([0xFC0A, 0xF3FE, 0xCD26], .stw { ch with hasXQ := true, nxi := 1 } 9 6 (-2) ⟨.ordered, .device⟩),
     ([0xFC0A, 0xF3FE, 0xD126], .std { ch with hasXQ := true, nxi := 1 } 9 6 (-2) ⟨.ordered, .device⟩),
     ([0xC022], .sextB ch 1 2),
     ([0xFC01, 0xC022], .sextH { ch with hasXQ := true } 1 2),
     ([0xFC02, 0xC022], .sextW { ch with hasXQ := true } 1 2),
     ([0xD42B], .mfs ch 1 11),
     ([0xD89F], .mts ch 4 31),
     ([0xDC05], .trap ch 5),
     ([0xFC04, 0xE000], .fenceFull { ch with hasXQ := true } .fabric)] = true := by decide
theorem test_decode_page0_d : decodes
    [([0xFC0C, 0xE000], .fenceAcq { ch with hasXQ := true } .fabric),
     ([0xFC14, 0xE000], .fenceRel { ch with hasXQ := true } .fabric),
     ([0xFC19, 0xE000], .fenceIfetch { ch with hasXQ := true } .cluster),
     ([0xE460], .waitr ch 3),
     ([0xEC00], .gbar ch)] = true := by decide
theorem test_decode_page1_a : decodes
    [([0xF801, 0xF585, 0x0022], .fadd { ch with hasXR := true } 33 66 5),
     ([0xF801, 0xF585, 0x0422], .fsub { ch with hasXR := true } 33 66 5),
     ([0xF801, 0xF585, 0x0822], .fmul { ch with hasXR := true } 33 66 5),
     ([0xF801, 0xF585, 0x0C22], .ffma { ch with hasXR := true } 33 66 5),
     ([0xF801, 0xF585, 0x1022], .fdiv { ch with hasXR := true } 33 66 5),
     ([0xF801, 0xF585, 0x1822], .fmin { ch with hasXR := true } 33 66 5),
     ([0xF801, 0xF585, 0x1C22], .fmax { ch with hasXR := true } 33 66 5),
     ([0xF801, 0x1422], .fsqrt ch 1 2),
     ([0xF801, 0xFC1F, 0x2089], .fceq { ch with hasXQ := true } 4 9 0x1F),
     ([0xF801, 0xFC1F, 0x2489], .fclt { ch with hasXQ := true } 4 9 0x1F),
     ([0xF801, 0xFC1F, 0x2889], .fcle { ch with hasXQ := true } 4 9 0x1F),
     ([0xF801, 0x2C22], .fcvti ch 1 2),
     ([0xF801, 0xFC01, 0x2C22], .fcvtiRz { ch with hasXQ := true } 1 2),
     ([0xF801, 0x3022], .icvtf ch 1 2),
     ([0xF801, 0xFC01, 0x3022], .icvtfU { ch with hasXQ := true } 1 2),
     ([0xF801, 0xF404, 0x3443], .vadd { ch with hasXR := true } 2 3 4),
     ([0xF801, 0xF404, 0x3843], .vsub { ch with hasXR := true } 2 3 4),
     ([0xF801, 0xF404, 0x3C43], .vmul { ch with hasXR := true } 2 3 4),
     ([0xF801, 0xF404, 0x4043], .vfma { ch with hasXR := true } 2 3 4),
     ([0xF801, 0xF404, 0x4443], .vmax { ch with hasXR := true } 2 3 4)] = true := by decide
theorem test_decode_page1_b : decodes
    [([0xF801, 0xF404, 0x4843], .vmin { ch with hasXR := true } 2 3 4),
     ([0xF801, 0xF404, 0x4C43], .viadd { ch with hasXR := true } 2 3 4),
     ([0xF801, 0xF440, 0x5043], .vbcast { ch with hasXR := true } 2 35),
     ([0xF801, 0xFC05, 0x5422], .vextr { ch with hasXQ := true } 1 2 5),
     ([0xF801, 0xFC0F, 0x5822], .vins { ch with hasXQ := true } 1 2 15),
     ([0xF801, 0x5C22], .vsum ch 1 2),
     ([0xF801, 0x6022], .vmaxr ch 1 2),
     ([0xF801, 0xF040, 0x6406], .vld { ch with nxi := 1 } 0 6 64 ⟨.plain, .core⟩),
     ([0xF801, 0xF040, 0x6806], .vst { ch with nxi := 1 } 0 6 64 ⟨.plain, .core⟩),
     ([0xF801, 0xF40F, 0xFC13, 0x6C22], .vldx { ch with hasXQ := true, hasXR := true } 1 2 15 ⟨.volatile, .system⟩),
     ([0xF801, 0xF40F, 0xFC13, 0x7022], .vstx { ch with hasXQ := true, hasXR := true } 1 2 15 ⟨.volatile, .system⟩),
     ([0xF801, 0xFC01, 0x7420], .vcvtBf16Fp32 { ch with hasXQ := true } 1 0),
     ([0xF801, 0xFC02, 0x7420], .vcvtFp32Bf16 { ch with hasXQ := true } 1 0),
     ([0xF801, 0xFC03, 0x7420], .vcvtDl8Fp32 { ch with hasXQ := true } 1 0),
     ([0xF801, 0xFC04, 0x7420], .vcvtFp32Dl8 { ch with hasXQ := true } 1 0),
     ([0xF801, 0xF43F, 0x7822], .vsel { ch with hasXR := true } 1 2 63)] = true := by decide
theorem test_decode_page2_a : decodes
    [([0xF802, 0xF402, 0xFC02, 0x0026], .ldaw { ch with hasXQ := true, hasXR := true } 1 6 2 0 2),
     ([0xF802, 0xF404, 0xF008, 0x0466], .ldat { ch with hasXR := true, nxi := 1 } 3 6 4 8 0),
     ([0xF802, 0x08A6], .sta ch 5 6 0),
     ([0xF802, 0xF407, 0xFC1F, 0x0C48], .vlda { ch with hasXQ := true, hasXR := true } 2 8 7 0 31),
     ([0xF802, 0xF040, 0x1048], .vsta { ch with nxi := 1 } 2 8 64),
     ([0xF802, 0x1402], .itadv ch 2),
     ([0xF802, 0x1802], .dmode ch 2),
     ([0xF802, 0x1C66], .adjrd ch 3 6 0 ⟨.plain, .core⟩),
     ([0xF802, 0xFC0A, 0x2086], .adjwr { ch with hasXQ := true } 4 6 0 ⟨.ordered, .device⟩),
     ([0xF802, 0xFC0A, 0x2468], .lr { ch with hasXQ := true } 3 8 0 ⟨.ordered, .device⟩),
     ([0xF802, 0xF406, 0x28A7], .sc { ch with hasXR := true } 5 7 6 0 ⟨.plain, .core⟩),
     ([0xF802, 0xF406, 0x2CA7], .aadd { ch with hasXR := true } 5 7 6 0 ⟨.plain, .core⟩),
     ([0xF802, 0xF406, 0x30A7], .aand { ch with hasXR := true } 5 7 6 0 ⟨.plain, .core⟩),
     ([0xF802, 0xF406, 0x34A7], .aor { ch with hasXR := true } 5 7 6 0 ⟨.plain, .core⟩),
     ([0xF802, 0xF406, 0x38A7], .axor { ch with hasXR := true } 5 7 6 0 ⟨.plain, .core⟩),
     ([0xF802, 0xF406, 0x3CA7], .amin { ch with hasXR := true } 5 7 6 0 ⟨.plain, .core⟩),
     ([0xF802, 0xF406, 0x40A7], .amax { ch with hasXR := true } 5 7 6 0 ⟨.plain, .core⟩),
     ([0xF802, 0xF406, 0x44A7], .aswp { ch with hasXR := true } 5 7 6 0 ⟨.plain, .core⟩),
     ([0xF802, 0xF406, 0xFC0A, 0x48A7], .cas { ch with hasXQ := true, hasXR := true } 5 7 6 0 ⟨.ordered, .device⟩),
     ([0xF802, 0xF40C, 0xF010, 0x4D47], .casx { ch with hasXR := true, nxi := 1 } 10 7 12 16 ⟨.plain, .core⟩)] = true := by decide
theorem test_decode_page2_b : decodes
    [([0xF802, 0x50A7], .rupdAdjoint ch 5 7 0 ⟨.plain, .core⟩),
     ([0xF802, 0xF401, 0x50A7], .rupdQ64Add { ch with hasXR := true } 5 7 0 ⟨.plain, .core⟩),
     ([0xF802, 0xF402, 0x50A7], .rupdFp32Add { ch with hasXR := true } 5 7 0 ⟨.plain, .core⟩),
     ([0xF802, 0xF403, 0x50A7], .rupdIntAdd { ch with hasXR := true } 5 7 0 ⟨.plain, .core⟩),
     ([0xF802, 0xF404, 0x50A7], .rupdMin { ch with hasXR := true } 5 7 0 ⟨.plain, .core⟩),
     ([0xF802, 0xF405, 0x50A7], .rupdMax { ch with hasXR := true } 5 7 0 ⟨.plain, .core⟩),
     ([0xF802, 0xF406, 0x50A7], .rupdOr { ch with hasXR := true } 5 7 0 ⟨.plain, .core⟩),
     ([0xF802, 0xF407, 0x50A7], .rupdAnd { ch with hasXR := true } 5 7 0 ⟨.plain, .core⟩),
     ([0xF802, 0xF406, 0x5485], .spawn { ch with hasXR := true } 4 5 6),
     ([0xF802, 0x5840], .cpreq ch 2),
     ([0xF802, 0x5C00], .cpseal ch),
     ([0xF802, 0xF001, 0x6008], .cpwait { ch with nxi := 1 } 40),
     ([0xF802, 0x6500], .mbget ch 8),
     ([0xF802, 0xFC01, 0x6500], .mbgetNw { ch with hasXQ := true } 8),
     ([0xF802, 0x690D], .xfer ch 8 13),
     ([0xF802, 0x6D8D], .mbpost ch 12 13),
     ([0xF802, 0xFC03, 0x70A0], .xpush { ch with hasXQ := true } 5 true true),
     ([0xF802, 0xFC02, 0x70A0], .xpush { ch with hasXQ := true } 5 false true),
     ([0xF802, 0xFC12, 0x7500], .pfs { ch with hasXQ := true } 8 2 true),
     ([0xF802, 0xFC01, 0xF100, 0x7806], .pfx { ch with hasXQ := true, nxi := 1 } 6 256 true)] = true := by decide
theorem test_decode_page2_c : decodes
    [([0xF802, 0xF001, 0x7C48], .cwait { ch with nxi := 1 } 2 40),
     ([0xF802, 0xF001, 0x8048], .cfree { ch with nxi := 1 } 2 40),
     ([0xF802, 0xF001, 0x8448], .cadv { ch with nxi := 1 } 2 40),
     ([0xF802, 0xF001, 0x8848], .cpost { ch with nxi := 1 } 2 40),
     ([0xF802, 0xFC03, 0x8C85], .smap { ch with hasXQ := true } 4 5 3),
     ([0xF802, 0xFC03, 0x9000], .sunmap { ch with hasXQ := true } 3),
     ([0xF802, 0x9400], .sflush ch 0),
     ([0xF802, 0x9845], .hcfg ch 2 5)] = true := by decide
theorem test_decode_page3_a : decodes
    [([0xF803, 0x000F], .fmtset ch 15),
     ([0xF803, 0x0000], .fmtsetRelease ch),
     ([0xF803, 0x0440], .fmtrd ch 2),
     ([0xF803, 0x0822], .mma ch 1 2),
     ([0xF803, 0xFC04, 0x0D04], .mmat { ch with hasXQ := true } 0 2 4 4),
     ([0xF803, 0x1061], .mmasp ch 3 1),
     ([0xF803, 0x1440], .tzero ch 2),
     ([0xF803, 0xFC05, 0x1845], .trd { ch with hasXQ := true } 2 1 37),
     ([0xF803, 0xFC05, 0x1C45], .twr { ch with hasXQ := true } 2 1 37),
     ([0xF803, 0xFC01, 0xF040, 0x2066], .tld { ch with hasXQ := true, nxi := 1 } 3 6 64 1),
     ([0xF803, 0xFC02, 0xF040, 0x2466], .tst { ch with hasXQ := true, nxi := 1 } 3 6 64 2),
     ([0xF803, 0xFC03, 0xF040, 0x2866], .tstt { ch with hasXQ := true, nxi := 1 } 3 6 64 3),
     ([0xF803, 0x2C85], .qblk ch 4 0 5),
     ([0xF803, 0xF407, 0xFC01, 0x3064], .vqnt { ch with hasXQ := true, hasXR := true } 3 4 7 1),
     ([0xF803, 0xF407, 0xFC01, 0x3464], .vdqnt { ch with hasXQ := true, hasXR := true } 3 4 7 1),
     ([0xF803, 0xFC01, 0x38A0], .scpush { ch with hasXQ := true } 5 true),
     ([0xF803, 0x3C89], .rgrow ch 0 1 9 0),
     ([0xF803, 0x4000], .msync ch)] = true := by decide
theorem test_decode_page4_a : decodes
    [([0xF804, 0x00A0], .tqadd ch 5),
     ([0xF804, 0x0485], .depadd ch 4 5),
     ([0xF804, 0x08C0], .cancel ch 6),
     ([0xF804, 0xF406, 0x0C64], .cbpush { ch with hasXR := true } 3 4 6),
     ([0xF804, 0x1000], .cbseal ch),
     ([0xF804, 0x1500], .cbnext ch 8),
     ([0xF804, 0x1900], .cbdone ch 8),
     ([0xF804, 0xF407, 0xFC0C, 0xF100, 0x1C06], .mcst { ch with hasXQ := true, hasXR := true, nxi := 1 } 0 6 7 256 true),
     ([0xF804, 0x2060], .mcwait ch 3),
     ([0xF804, 0x242C], .ffence ch 1 12 0),
     ([0xF804, 0x2800], .eret ch),
     ([0xF804, 0xFC01, 0x2800], .eretNext { ch with hasXQ := true }),
     ([0xF804, 0x2C03], .svc ch 3),
     ([0xF804, 0x30A0], .tlbinvVa ch 5),
     ([0xF804, 0xFC01, 0x3000], .tlbinvCtx { ch with hasXQ := true }),
     ([0xF804, 0xFC02, 0x30A0], .tlbinvReg { ch with hasXQ := true } 5)] = true := by decide

/-! Witnesses: integer instructions, predicates, register fields. -/

/-- IntegerTwoSource without XR: ADD g5, g126 pops an entry. -/
theorem wit_IntegerTwoSource : guardOn ch st.cpu.p = true ∧ st.usable (uses2 ch 5 126 0) [] = true := by decide +kernel
/-- With XR, and the highest register as destination. -/
theorem wit_IntegerTwoSource_XR : guardOn chXR st.cpu.p = true ∧ st.usable (uses2 chXR 125 5 63) [] = true := by decide +kernel
/-- With XR, to the flume port. -/
theorem wit_IntegerTwoSource_push : guardOn chXR st.cpu.p = true ∧ st.usable (uses2 chXR 127 126 0) [] = true := by decide +kernel
theorem wit_IntegerOneSource : guardOn ch st.cpu.p = true ∧ st.usable [.wr 127, .rd 126] [] = true := by decide +kernel
theorem wit_IntegerImmediate : guardOn ch st.cpu.p = true ∧ st.usable [.rw 125] [] = true ∧ st.usable [.wr 127] [] = true := by decide +kernel
/-- Compares with both sources popped. -/
theorem wit_Compares : guardOn ch st.cpu.p = true ∧ st.usable [.rd 126, .rd 126] [] = true ∧ st.usable [.rd 0] [] = true := by decide +kernel
theorem wit_PredicateWord : guardOn ch st.cpu.p = true ∧ st.usable [.wr 0] [] = true ∧ st.usable [.rd 126] [] = true := by decide +kernel
/-- The two ends of the plain registers, an entry to pop, and a partner downstream. -/
theorem wit_RegisterFields : (0 < (1 : Reg).toNat ∧ (1 : Reg).toNat < 126) ∧ (0 < (125 : Reg).toNat ∧ (125 : Reg).toNat < 126) ∧
    st.cpu.flume = 11 :: [22] ∧ st.thread? st.cpu.downstream = some { thr with id := 64, flume := [] } :=
  ⟨by decide, by decide, by decide, by decide⟩

/-! Witnesses: transfers, guards, traps. -/

/-- Branches: the lowest target 0 and the highest even one below 2^58; a register target. -/
theorem wit_Branches : guardOn ch st.cpu.p = true ∧ legalTarget (st.cpu.pc + 2 * (-0x8000)) = true ∧
    legalTarget (st.cpu.pc + 2 * (0x1FFFFFFFFFF7FFF : Word)) = true ∧ st.usable [.wr 1] [] = true ∧
    st.usable [.wr 1, .rd 2] [] = true ∧ legalTarget (st.source 2) = true ∧ st.usable [.rw 5] [] = true := by decide
/-- BadTargets: below 0, at 2^58, and an odd register target. -/
theorem wit_BadTargets : guardOn ch st.cpu.p = true ∧ legalTarget (st.cpu.pc + 2 * (-0x8001)) = false ∧
    legalTarget (st.cpu.pc + 2 * (0x1FFFFFFFFFF8000 : Word)) = false ∧ st.usable [.wr 1] [] = true ∧
    st.usable [.rw 5] [] = true ∧ st.source 5 ≠ 1 ∧ legalTarget (st.source 5) = false ∧ st.usable [.wr 1, .rd 5] [] = true := by
  decide
theorem wit_FalseGuard : WellFormed (.add { chOff with hasXQ := true } 1 2 0) = true ∧
    guardOn (Instr.add { chOff with hasXQ := true } 1 2 0).chain st.cpu.p = false := by decide
theorem wit_FalseGuard_notUdf : ∀ c n x m l, Instr.add { chOff with hasXQ := true } 1 2 0 ≠ .udf c n x m l :=
  fun _ _ _ _ _ h => nomatch h
theorem wit_HandlerEntry : (15 : Nat) < 16 ∧ st.cpu.isRill = false ∧ st.cpu.isSluice = false ∧
    (0x18#8) ∈ [0x08#8, 0x09#8, 0x0A#8, 0x0C#8, 0x0D#8, 0x18#8] ∧ st.cpu.trapvec ≠ 0 ∧ legalTarget st.cpu.trapvec = true ∧
    st.cpu.trapcause.getLsbD 16 = false := by decide
/-- SupervisorEntry by its cause, by TRAPVEC = 0 and in a sluice slot. -/
theorem wit_SupervisorEntry : st.cpu.isRill = false ∧ st.cpu.trapcause.getLsbD 16 = false ∧
    (0x01#8) ∉ [0x08#8, 0x09#8, 0x0A#8, 0x0C#8, 0x0D#8, 0x18#8] ∧ (on st fun t => { t with trapvec := 0 }).cpu.trapvec = 0 ∧
    (on st fun t => { t with id := 63 }).cpu.isSluice = true := by decide
/-- A thread in its handler: HND = 1, LEN 4, the outer chain at 0x10040. -/
def inHandler : State := on st fun t => { t with trapcause := 0x10418, trappc := 0x10040 }
/-- SupervisorEntry of an SVC there. -/
theorem wit_SupervisorEntry_svc : inHandler.cpu.trapcause.getLsbD 16 = true ∧ (0x15#8) ∉ [0x08#8, 0x09#8, 0x0A#8, 0x0C#8, 0x0D#8, 0x18#8] := by decide
theorem wit_NestedTrap : inHandler.cpu.isRill = false ∧ inHandler.cpu.trapcause.getLsbD 16 = true ∧ (0x04 : BitVec 8) ≠ 0x15 := by
  decide
theorem wit_TrappingInstructions : guardOn ch st.cpu.p = true ∧ st.cpu.isRill = false := by decide
theorem wit_Eret : guardOn ch inHandler.cpu.p = true ∧ inHandler.cpu.isRill = false ∧ inHandler.cpu.trapcause.getLsbD 16 = true ∧
    legalTarget inHandler.cpu.trappc = true ∧
    legalTarget (inHandler.cpu.trappc + (inHandler.cpu.trapcause.extractLsb' 8 4).setWidth 64) = true ∧
    st.cpu.trapcause.getLsbD 16 = false := by decide

/-! Witnesses: loads and stores. -/

/-- The memory mode without M: plain, scope core. -/
def mm : MemMode := { cls := .plain, scope := .core }
/-- An ordered access at device scope. -/
def mmOrd : MemMode := { cls := .ordered, scope := .device }

/-- ScalarLoads: the last doubleword of the plain page, ordered. -/
theorem wit_ScalarLoads : let ea := st.source 2 + 0x3FF8
    guardOn ch st.cpu.p = true ∧ st.usable [.wr 1, .rd 2] [] = true ∧ ea.toNat % 8 = 0 ∧
    (st.popped 2).goesTo ea true false (xl 0 0x23FF8) = true ∧ plainAccess (xl 0 0x23FF8).entry ea 8 st.cpu.dmode false = true ∧
    st.rangesFree [(xl 0 0x23FF8).place ea 8] false = true ∧ st.volatileFree mmOrd = true ∧
    st.readable ((xl 0 0x23FF8).place ea 8) mmOrd = true := by decide
/-- A volatile access waits for nothing here. -/
theorem wit_ScalarLoads_volatile : st.volatileFree ⟨.volatile, .system⟩ = true ∧ st.volatileFree mm = true ∧
    st.modeFree ⟨.volatile, .system⟩ = true ∧ st.readable ((xl 0 0x23FF8).place (st.source 2 + 0x3FF8) 8) ⟨.volatile, .system⟩ = true := by decide +kernel
/-- An element of the differentiable page. -/
theorem wit_ScalarLoads_element : let ea := st.source 4 + 4
    (st.popped 4).goesTo ea true false (xl 2 0x28004) = true ∧ plainAccess (xl 2 0x28004).entry ea 4 st.cpu.dmode false = true ∧
    st.readable ((xl 2 0x28004).place ea 4) mm = true := by decide
/-- A doubleword of host memory behind port B. -/
theorem wit_ScalarLoads_host : let ea := st.source 7 + 8
    (st.popped 7).goesTo ea true false (xl 4 0x30008) = true ∧ plainAccess (xl 4 0x30008).entry ea 8 st.cpu.dmode false = true ∧
    st.readable ((xl 4 0x30008).place ea 8) mm = true := by decide
theorem wit_ScalarStores : let ea := (st.sources 5 2).2 + 0x10
    guardOn ch st.cpu.p = true ∧ st.usable [.rd 5, .rd 2] [] = true ∧ ea.toNat % 8 = 0 ∧
    (st.popped2 5 2).goesTo ea false true (xl 0 0x20010) = true ∧ plainAccess (xl 0 0x20010).entry ea 8 st.cpu.dmode true = true ∧
    st.rangesFree [(xl 0 0x20010).place ea 8] true = true ∧ st.modeFree mmOrd = true ∧ st.storable (xl 0 0x20010) 8 = true := by
  decide

/-- A posted store to host memory. -/
theorem wit_ScalarStores_host : let ea := (st.sources 5 7).2 + 0x10
    (st.popped2 5 7).goesTo ea false true (xl 4 0x30010) = true ∧ plainAccess (xl 4 0x30010).entry ea 8 st.cpu.dmode true = true ∧
    st.rangesFree [(xl 4 0x30010).place ea 8] true = true ∧ st.storable (xl 4 0x30010) 8 = true := by decide

/-- ScalarTraps: an odd address, one at 2^58, an aged page, and tables that hold nothing. -/
theorem wit_ScalarTraps : guardOn ch st.cpu.p = true ∧ st.usable [.wr 1, .rd 3] [] = true ∧ st.usable [.rd 5, .rd 3] [] = true ∧
    (let ea := st.source 3 + 1; (st.popped 3).accessFails ea 8 true false (scalarTakes ea 8) = some (0x04, 0)) ∧
    (let ea := st.source 3 + 0x3FFFFFFFFFDC000; (st.popped 3).accessFails ea 8 true false (scalarTakes ea 8) = some (0x05, 0)) ∧
    (let ea := st.source 3 + 8; (st.popped 3).accessFails ea 8 true false (scalarTakes ea 8) = some (0x07, 0)) ∧
    (let ea := (st.sources 5 3).2 + 8; (st.popped2 5 3).accessFails ea 8 false true (scalarTakes ea 8) = some (0x07, 0)) ∧
    (st.source 3 + 0xDC000).toNat % 8 = 0 ∧ (st.popped 3).translated (st.source 3 + 0xDC000) = some .absent ∧
    (st.popped2 5 3).translated ((st.sources 5 3).2 + 0xDC000) = some .absent := by decide +kernel
/-- A page with no permission to read or write, and at user level the same with no USER. -/
def stShut (pte : Word) : State := on { st with tlb := [leaf 0x20000 pte 4 0 0] } fun t => { t with sup := false }
theorem wit_ScalarTraps_permission : (let s := stShut 0x10000033; let ea := s.source 2
      (s.popped 2).accessFails ea 8 true false (scalarTakes ea 8) = some (0x05, 0) ∧
      (s.popped2 5 2).accessFails ea 8 false true (scalarTakes ea 8) = some (0x05, 0)) ∧
    (let s := stShut 0x1000001F; let ea := s.source 2
      (s.popped 2).accessFails ea 8 true false (scalarTakes ea 8) = some (0x05, 0)) := by decide +kernel
/-- VectorTraps: an address that is no multiple of 64, an aged page, and lane 15 alone one byte off. -/
def stLane : State := on st fun t => { t with v := t.v.set 2 (BitVec.ofNat 512 (2 ^ 480)) }
theorem wit_VectorTraps : guardOn ch st.cpu.p = true ∧ st.cpu.isRill = false ∧ st.usable [.rd 3] [15] = true ∧
    (st.popped 3).unmapped (st.source 3 + 32 + 32) = true ∧
    (st.popped 3).accessFails (st.source 3 + 32) 64 true false (vectorTakes (st.source 3 + 32)) = some (0x04, 0) ∧
    (st.popped 3).accessFails (st.source 3 + 64) 64 false true (vectorTakes (st.source 3 + 64)) = some (0x07, 0) ∧
    stLane.usable [.rd 2] [1, 2] = true ∧ stLane.goodV [2] = true ∧
    (stLane.accessFails (stLane.source 2 + 1) 4 true false (fun x => x.kind == 0)) = some (0x04, 0) := by decide +kernel
theorem wit_VectorTraps_lane : let as := (List.range 16).map fun l => stLane.source 2 + (stLane.cpu.v[2].extractLsb' (32 * l) 32).signExtend 64
    as[15]? = some (stLane.source 2 + 1) ∧ ∃ u, gatherPlaces true false (as.take 15) (stLane.popped 2) =
      .ok (List.replicate 15 ((xl 0 0x20000).place 0x20000 4), u) := ⟨by decide, _, isOk_eq (by decide +kernel)⟩
theorem wit_VectorTraps_after : (leaves (gatherPlaces true false (((List.range 16).map fun l => stLane.source 2 +
      (stLane.cpu.v[2].extractLsb' (32 * l) 32).signExtend 64).take 15) (stLane.popped 2))).accessFails (stLane.source 2 + 1) 4 true false (fun x => x.kind == 0) =
    some (0x04, 0) := by decide +kernel

/-- Registers 2 and 3 hold the bases of the cistern and handle apertures. -/
def withApertures : State := on st fun t => { t with g := regs [(2, BitVec.ofNat 64 Config.cisternAperture), (3, BitVec.ofNat 64 Config.handleAperture)] }
/-- Window 0 of the thread covers the first 512 bytes of the plain page, its first grain filled. -/
def fill0 : WinFill := { va := 0x20000, size := 128, home := 0x10000, state := .modified }
def stWin : State :=
  { st with cores := [{ Core.fresh 0 with windows := [{ num := 0, owner := 0, va := 0x20000, f := 0, n := 1, fills := [fill0] }] }] }
def winPlace : Place := { va := 0x20010, key := 0x10010, n := 8, src := .window 0 0 fill0, off := none }
theorem wit_WindowAccesses : guardOn ch stWin.cpu.p = true ∧ stWin.usable [.wr 1, .rd 2] [] = true ∧
    stWin.usable [.rd 5, .rd 2] [] = true ∧ (stWin.source 2 + 0x10).toNat % 8 = 0 ∧ ((stWin.sources 5 2).2 + 0x10).toNat % 8 = 0 ∧
    stWin.rangesFree [winPlace] false = true ∧ stWin.readable winPlace mm = true ∧ stWin.rangesFree [winPlace] true = true ∧
    stWin.modeFree mm = true ∧ stWin.writable winPlace = true := by decide
theorem wit_WindowAccesses_load : placeAt (stWin.source 2 + 0x10) 8 true false (stWin.popped 2) = .ok (winPlace, stWin) := by rfl
theorem wit_WindowAccesses_store : placeAt ((stWin.sources 5 2).2 + 0x10) 8 false true (stWin.popped2 5 2) = .ok (winPlace, stWin) := by rfl
theorem wit_WindowAccesses_notPage : ∀ x, winPlace.src ≠ .page x := fun _ h => nomatch h
/-- WindowTraps: window 0 with no grain filled, over a page with no permission, one that is aged, and one of home 2. -/
def stUnfilled (va : Nat) (e : TlbEntry) : State :=
  { st with tlb := [e], cores := [{ Core.fresh 0 with windows := [{ num := 0, owner := 0, va := va, f := 0, n := 1, fills := [] }] }] }
theorem wit_WindowTraps : let e := leaf 0x20000 0x10000033 4 0 0
    let s := stUnfilled 0x20000 e
    guardOn ch s.cpu.p = true ∧ s.usable [.wr 1, .rd 2] [] = true ∧ s.usable [.rd 5, .rd 2] [] = true ∧ (s.source 2 + 8).toNat % 8 = 0 ∧
    s.cpu.isRill = false ∧ inAperture (s.source 2 + 8) = false ∧ (s.source 2 + 8).toNat < 2 ^ 58 ∧
    first? (fun w => w.owner == s.cpu.id && w.covers (s.source 2 + 8).toNat) s.myCore.windows =
      some { num := 0, owner := 0, va := 0x20000, f := 0, n := 1, fills := [] } ∧
    s.canWalk (s.source 2 + 8) = true ∧ lookup s s.cpu.walker (s.source 2 + 8).toNat = .leaf e ∧
    s.forbids e true false = true ∧ s.forbids e false true = true := by decide +kernel
theorem wit_WindowTraps_region :
    (let s := stUnfilled 0x24000 (xl 1 0).entry;
      (lookup s s.cpu.walker (s.source 3 + 8).toNat = .leaf (xl 1 0).entry) ∧ s.forbids (xl 1 0).entry true true = false ∧ (xl 1 0).entry.kind ≠ 0) ∧
    (let s := stUnfilled 0x30000 (xl 4 0).entry;
      lookup s s.cpu.walker (s.source 7 + 8).toNat = .leaf (xl 4 0).entry ∧ s.forbids (xl 4 0).entry true true = false ∧ (xl 4 0).entry.home ≠ 0) := by decide +kernel
/-- The first byte of each aperture, with no window mapped and no handle configured. -/
theorem wit_WindowTraps_apertures : let s := withApertures
    s.usable [.wr 1, .rd 2] [] = true ∧ (s.source 2).toNat = Config.cisternAperture ∧ (s.source 2).toNat < 2 ^ 58 ∧ s.apertureShut (s.source 2) = true ∧
    (s.source 3).toNat = Config.handleAperture ∧ (s.source 3).toNat < Config.handleApertureEnd ∧ s.handleShut (s.source 3) = true ∧
    (s.source 2).toNat % 8 = 0 ∧ (s.source 3).toNat % 8 = 0 := by decide +kernel
/-- HomeWrite: a reservation on the granule, one off it. -/
theorem wit_HomeWrite : overlaps 0x10038 16 0x10040 64 = true ∧ overlaps 0x10038 8 0x10040 64 = false := by decide

/-- VectorLoadStore: its two sectors, and four pieces at a peer. -/
def vecPs : List Place := ((xl 0 0x20040).place 0x20040 32).split ++ ((xl 0 0x20060).place 0x20060 32).split
theorem wit_VectorLoadStore : let ea := st.source 6 + 0
    guardOn ch st.cpu.p = true ∧ st.cpu.isRill = false ∧ st.usable [.rd 6] [15] = true ∧ ea.toNat % 64 = 0 ∧ vecPs.length = 2 ∧
    (st.popped 6).goesTo ea true false (xl 0 0x20040) = true ∧
    ((st.popped 6).cached (xl 0 0x20040)).goesTo (ea + 32) true false (xl 0 0x20060) = true ∧
    plainAccess (xl 0 0x20040).entry ea (xl 0 0x20040).entry.elemWidth st.cpu.dmode false = true ∧
    st.rangesFree vecPs false = true ∧ st.volatileFree mm = true ∧ (∀ p ∈ vecPs, st.readable p mm = true) := by decide
theorem wit_VectorLoadStore_store : let ea := st.source 6 + 0
    (st.popped 6).goesTo ea false true (xl 0 0x20040) = true ∧
    ((st.popped 6).cached (xl 0 0x20040)).goesTo (ea + 32) false true (xl 0 0x20060) = true ∧
    plainAccess (xl 0 0x20040).entry ea (xl 0 0x20040).entry.elemWidth st.cpu.dmode true = true ∧
    st.rangesFree vecPs true = true ∧ st.goodV [15] = true ∧ st.modeFree mm = true ∧ (∀ p ∈ vecPs, st.writable p = true) := by decide
theorem wit_VectorLoadStore_peer :
    (((xl 6 0x38000).place 0x38000 32).split ++ ((xl 6 0x38020).place 0x38020 32).split).map (fun p => (p.va, p.n)) =
      [(0x38000, 16), (0x38010, 16), (0x38020, 16), (0x38030, 16)] := by decide

/-- GatherScatter with every offset 0: sixteen lanes at one address. -/
def gatherPs : List Place := List.replicate 16 ((xl 0 0x20000).place 0x20000 4)
theorem wit_GatherScatter : guardOn ch st.cpu.p = true ∧ st.cpu.isRill = false ∧ st.usable [.rd 2] [1, 2] = true ∧
    st.rangesFree gatherPs false = true ∧ st.rangesFree gatherPs true = true ∧ st.modeFree mm = true ∧ st.goodV [1, 2] = true ∧
    st.goodV [2] = true := by decide
theorem wit_GatherScatter_free : ∀ p ∈ gatherPs, st.readable p mm = true ∧ st.writable p = true := by
  intro p hp
  rw [(List.mem_replicate.mp hp).2]
  exact ⟨by decide, by decide⟩
/-- The addresses of the lanes. -/
def gatherVas : List Word := (List.range 16).map fun l => st.source 2 + (st.cpu.v[2].extractLsb' (32 * l) 32).signExtend 64
theorem wit_GatherScatter_load : ∃ u, gatherPlaces true false gatherVas (st.popped 2) = .ok (gatherPs, u) :=
  ⟨_, isOk_eq (by decide +kernel)⟩
theorem wit_GatherScatter_store : ∃ u, gatherPlaces false true gatherVas (st.popped 2) = .ok (gatherPs, u) :=
  ⟨_, isOk_eq (by decide +kernel)⟩

/-! Witnesses: floating point and vectors. -/

theorem wit_FloatScalar : guardOn ch st.cpu.p = true ∧ guardOn chXR st.cpu.p = true ∧ st.cpu.isRill = false ∧
    st.usable (uses2 ch 125 126 0) [] = true ∧ st.usable (uses2 chXR 127 126 63) [] = true ∧
    st.usable [.rw 5, .rd 126, .rd (wide 63)] [] = true ∧ st.usable [.wr 127, .rd 126] [] = true := by decide
theorem wit_FloatCompares : guardOn ch st.cpu.p = true ∧ st.cpu.isRill = false ∧ st.usable [.rd 126, .rd 126] [] = true ∧
    (isNaN 0x7F800001 || isNaN 0) = true ∧ isNaN 0x7F800000 = false := by decide
theorem wit_DefaultNaN : isNaN (fadd 0 0x7F800000 0xFF800000).1 = true ∧ isInf 0x7F800000 = true ∧ isInf 0xFF800000 = true ∧
    signF 0x7F800000 ≠ signF 0xFF800000 ∧ isZeroF 0x80000000 = true := by decide
/-- Rounding: the largest finite value, the least subnormal and a zero; sums, products and roots at and on both sides of zero. -/
theorem wit_Rounding : ([0x7F7FFFFF, 0x00000001, 0x80000000, 0xBF800000, 0x3F800000].all fun x => expF x != 255) = true ∧ unitsF 0x00000001 ≠ 0 ∧ unitsF 0x80000000 = 0 ∧
    unitsF 0x3F800000 + unitsF 0xBF800000 = 0 ∧ unitsF 0x3F800000 - unitsF 0x3F800000 = 0 ∧
    unitsF 0x3F800000 * 2 ^ 149 + unitsF 0xBF800000 * unitsF 0x3F800000 = 0 ∧ 0 < unitsF 0x7F7FFFFF ∧ unitsF 0xBF800000 < 0 ∧
    (-2 ^ 63 : Int).natAbs < 2 ^ 64 ∧ (0 : Int).natAbs < 2 ^ 64 := by decide +kernel
theorem wit_Rounding_finite : ∃ w : F32, expF w ≠ 255 ∧ 0 ≤ unitsF w := ⟨0, by decide, by decide⟩
/-- Conversions: NaNs, infinities and finite values; the codes 1 and 127 of DL8; scales that are not positive and finite; values whose
quotient lies at the top and above it; blocks of zeros, of 1 and of an infinity; the bounds of a Q64 value and of its exponent. -/
theorem wit_Conversions : isNaN 0x7FC00000 = true ∧ isInf 0xFF800000 = true ∧ expF 0x5F000000 ≠ 255 ∧
    (1 ≤ 1 ∧ 1 + 5 = 6 ∧ 31 < 2 ^ 5) ∧ (1 ≤ 6 ∧ 6 + 0 = 6 ∧ 0 < 2 ^ 0) ∧ (0x7F : Byte) ≠ 0x80 ∧
    unitsF 0x80000000 ≤ 0 ∧ 0 < unitsF 0x3F800000 ∧ (unitsF 0x49742401).natAbs > 10 ^ 6 * unitsF 0x3F800000 ∧
    (unitsF 0x49742400).natAbs ≤ 10 ^ 6 * unitsF 0x3F800000 ∧ ([0x7F800000].any fun x => expF x == 255) = true ∧
    ([0, 0x3F800000].any fun x => expF x == 255) = false ∧ ([0, 0x3F800000].all fun x => (unitsF x).natAbs ≤ 2 ^ 149) = true ∧
    (unitsF 0x3F800000).natAbs = 2 ^ 149 ∧ (unitsF 0).natAbs = 0 ∧
    (-2 : Int) ^ 63 ≤ -2 ^ 63 ∧ (-2 ^ 63 : Int) < 2 ^ 63 ∧ (-160 : Int) ≤ 96 := by decide +kernel
theorem wit_MaximumRule : isNaN 0x7F800000 = false ∧ isNaN 0x80000000 = false := by decide
theorem wit_LaneArithmetic : guardOn ch st.cpu.p = true ∧ guardOn chXR st.cpu.p = true ∧ st.cpu.isRill = false ∧
    st.usable [] [15, 15] = true ∧ st.usable [] [15, 14, 0] = true ∧
    st.goodV [15, 15] = true ∧ st.goodV [14, 0] = true ∧ st.goodV [15, 14, 0] = true ∧ st.goodV [15] = true := by decide
theorem wit_LaneMoves : guardOn ch st.cpu.p = true ∧ st.cpu.isRill = false ∧ st.usable [.rd 126] [15] = true ∧
    st.usable [.wr 127] [15] = true ∧ st.goodV [15] = true ∧ st.goodV [15, 0] = true ∧ st.usable [.rd (wide 63)] [15, 0] = true := by decide

/-! Witnesses: barrier, end, fences, special registers, translations. -/

/-- An update of the thread waits at its home. -/
def upd0 : RupdReq := { fn := 3, addr := 0x10000, x := 7, q := 0, ovf := none, launch := 64, slot := 0 }
def stUpd : State := { st with events := [.rupdApply upd0] }
/-- Both fellows have arrived. -/
def stBar : State :=
  { st with others := st.others.map fun t => { t with state := .parked, arrived := true, held := some (.gbar ch) } }
/-- Barrier: all arrived, one not arrived, and the sluice slot. -/
theorem wit_Barrier : guardOn ch st.cpu.p = true ∧ st.cpu.isRill = false ∧ st.cpu.isSluice = false ∧
    (∀ u ∈ stBar.fellows stBar.cpu, u.arrived = true) ∧ (∃ u ∈ st.fellows st.cpu, u.arrived = false) ∧
    (∀ u ∈ stBar.fellows stBar.cpu, u.held = some (.gbar ch)) ∧ stBar.fellows stBar.cpu ≠ [] ∧
    (on st fun t => { t with id := 63 }).cpu.isSluice = true ∧ st.updating st.cpu.id = false ∧ stBar.updating stBar.cpu.id = false ∧
    stUpd.updating stUpd.cpu.id = true := by decide
theorem wit_EndDrains : guardOn ch st.cpu.p = true ∧ st.cpu.isSluice = false ∧ st.owesNote st.cpu = false := by decide
/-- Fences at the widest scope, and after an earlier one. -/
theorem wit_Fences : guardOn ch st.cpu.p = true ∧ st.releaseFree .fabric = true ∧ (st.cpu.fenced .core).relScope = some .core ∧
    (on st fun t => { t with relScope := some .system }).cpu.relScope = some .system := by decide
theorem wit_ReadSpecial : guardOn ch st.cpu.p = true ∧ st.cpu.isRill = false ∧ st.cpu.sup = true ∧ st.usable [.wr 127] [] = true := by
  decide
theorem wit_WriteSpecial : guardOn ch st.cpu.p = true ∧ st.cpu.isRill = false ∧ st.cpu.sup = true ∧
    st.usable [.rd 126] [] = true ∧ st.context? st.cpu.ctx = some ctx0 ∧ st.walking st.cpu.ctx = false := by decide
theorem wit_DropTranslations : guardOn ch st.cpu.p = true ∧ st.cpu.isRill = false ∧ st.cpu.sup = true ∧
    st.usable [.rd 126] [] = true ∧ st.updating st.cpu.id = false ∧ st.walking st.cpu.ctx = false ∧ st.onItsWay st.cpu.ctx = false := by decide
theorem wit_DropTranslations_carries (p : TlbEntry → Bool) : st.carries p = false := by rfl
/-- A rill in slot 0 of slice 0, its context's pages those above. -/
def stRill : State := on { st with others := [] } fun t => { t with id := 2 ^ 18, nregs := 24, flume := [] }
theorem wit_PrivilegeTraps : guardOn ch stRill.cpu.p = true ∧ stRill.cpu.isRill = true ∧
    (on st fun t => { t with sup := false }).cpu.sup = false ∧ 24 ≤ (24 : BitVec 5).toNat := by decide
/-- Instructions of each page that no rill may execute. -/
theorem wit_PrivilegeTraps_rill : ∀ i ∈ [Instr.tzero ch 0, .mts ch 1 0, .mfs ch 1 0, .itadv ch 1, .cbseal ch, .gbar ch, .eret ch],
    WellFormed i = true ∧ guardOn i.chain stRill.cpu.p = true ∧ rillMay i = false := by decide
theorem wit_RillTraps : (15 : Nat) < 16 ∧ stRill.cpu.isRill = true := by decide
/-- Register 125, the last, holds an error. -/
theorem wit_RegisterErrors : let s := on st fun t => { t with badG := [125] }
    guardOn ch s.cpu.p = true ∧ firstFault s.cpu [.wr 1, .rd 125] = none ∧ (1 : Reg) ≠ 127 ∧ 0 < (125 : Reg).toNat ∧ (125 : Reg).toNat < 126 ∧
    (125 : Reg).toNat ∈ s.cpu.badG := by decide
/-- The same written to the flume. -/
theorem wit_RegisterErrors_push : firstFault st.cpu [.wr 127, .rd 125] = none ∧ st.partner st.cpu st.cpu.downstream = true ∧
    (∀ d ∈ st.thread? st.cpu.downstream, d.flume.length < 8) := by decide

/-! Witnesses: aged and differentiable regions. -/

/-- The thread at iteration 5, so that a grain at its base stamp 0 has age 5. -/
def stAge : State := on st fun t => { t with iter := 5 }
/-- AgedLoads: the word at the end of the page, age 5, at lag 5 and at lag 31. -/
theorem wit_AgedLoads : let ea := stAge.source 3 + 0x3FFC
    guardOn ch stAge.cpu.p = true ∧ stAge.cpu.isRill = false ∧ stAge.usable (agedUses [.wr 1, .rd 3] 63) [] = true ∧
    ea.toNat % 4 = 0 ∧ (stAge.popped 3).pageAt ea true false = some (xl 1 0x27FFC) ∧ (xl 1 0x27FFC).agedPage = true ∧
    stAge.rangesFree [agedPlace (xl 1 0x27FFC) ea 4] false = true ∧
    acceptsAge stAge.cpu.iter (stAge.stampOf (grainOf (xl 1 0x27FFC).entry (xl 1 0x27FFC).pa) (xl 1 0x27FFC).entry.basestamp) 5 = true ∧
    acceptsAge stAge.cpu.iter (stAge.stampOf (grainOf (xl 1 0x27FFC).entry (xl 1 0x27FFC).pa) (xl 1 0x27FFC).entry.basestamp) 31 = true ∧
    stAge.bad = [] ∧ stAge.copies = [] ∧ stAge.cpu.agedWait = none ∧ stAge.testing (xl 1 0x27FFC).pa 4 = false := by decide
/-- AgedWaits: lag 4. -/
theorem wit_AgedWaits : let ea := stAge.source 3 + 0
    stAge.testing (xl 1 0x24000).pa 4 = false ∧ stAge.cpu.agedWait = none ∧ stAge.rangesFree [agedPlace (xl 1 0x24000) ea 4] false = true ∧ stAge.weir = [] ∧
    (stAge.popped 3).pageAt ea true false = some (xl 1 0x24000) ∧
    acceptsAge stAge.cpu.iter (stAge.stampOf (grainOf (xl 1 0x24000).entry (xl 1 0x24000).pa) (xl 1 0x24000).entry.basestamp) 4 = false ∧
    (∀ q ∈ stAge.copies, q.home ≠ grainOf (xl 1 0x24000).entry (xl 1 0x24000).pa ∨ q.stamp = none) ∧ stAge.cpu.wake = .none ∧
    (stAge.weir.filter fun w => w.slice == sliceOf (grainOf (xl 1 0x24000).entry (xl 1 0x24000).pa)).length < 256 ∧
    stAge.mayServe stAge.cpu.id (.weir (sliceOf (grainOf (xl 1 0x24000).entry (xl 1 0x24000).pa))) = true := by decide
/-- Another request holds the slice's first ticket. -/
theorem wit_AgedWaits_refused : let n := sliceOf (grainOf (xl 1 0x24000).entry (xl 1 0x24000).pa)
    ({ stAge with refused := [{ slot := 64, want := .weir n, count := 8, ticket := true }] } : State).mayServe stAge.cpu.id (.weir n) = false := by
  decide
theorem wit_AgedVectorLoad : let ea := stAge.source 3 + 0x40
    stAge.usable (agedUses [.rd 3] 0) [15] = true ∧ ea.toNat % 64 = 0 ∧
    (stAge.popped 3).pageAt ea true false = some (xl 1 0x24040) ∧ (xl 1 0x24040).agedPage = true ∧
    stAge.rangesFree [agedPlace (xl 1 0x24040) ea 64] false = true ∧
    (∀ j < 64, acceptsAge stAge.cpu.iter (stAge.stampOf (grainOf (xl 1 0x24040).entry ((xl 1 0x24040).pa + j)) (xl 1 0x24040).entry.basestamp) 5 = true) ∧
    stAge.bad = [] ∧ stAge.copies = [] ∧ stAge.cpu.agedWait = none ∧
    (∀ g ∈ vectorGrains (xl 1 0x24040).entry, stAge.testing ((xl 1 0x24040).pa + g.1) g.2 = false) := by decide
theorem wit_AgedStores : stAge.usable [.rd 3] [] = true ∧ stAge.usable [.rd 5, .rd 3] [] = true ∧
    ((stAge.sources 5 3).2 + 4).toNat % 4 = 0 ∧ (stAge.popped2 5 3).pageAt ((stAge.sources 5 3).2 + 4) false true = some (xl 1 0x24004) ∧
    (xl 1 0x24004).agedPage = true ∧ stAge.rangesFree [agedPlace (xl 1 0x24004) ((stAge.sources 5 3).2 + 4) 4] true = true ∧
    stAge.modeFree MemMode.none = true ∧ stAge.hostFree (xl 1 0x24004).pa 4 = true ∧ stAge.testing (xl 1 0x24004).pa 4 = false := by decide
theorem wit_AgedStores_vector : stAge.usable [.rd 3] [15] = true ∧ (vecBytes stAge.cpu.v[15]).length = 64 ∧
    (stAge.source 3 + 0).toNat % 64 = 0 ∧ (stAge.popped 3).pageAt (stAge.source 3 + 0) false true = some (xl 1 0x24000) ∧
    stAge.goodV [15] = true ∧
    stAge.rangesFree [agedPlace (xl 1 0x24000) (stAge.source 3 + 0) 64] true = true ∧ stAge.hostFree (xl 1 0x24000).pa 64 = true ∧
    (∀ g ∈ vectorGrains (xl 1 0x24000).entry, stAge.testing ((xl 1 0x24000).pa + g.1) g.2 = false) := by decide
theorem wit_AdvanceIteration : guardOn ch st.cpu.p = true ∧ st.cpu.isRill = false := by decide

theorem wit_AdjointCells : let ea := st.source 4 + 4
    st.usable [.wr 1, .rd 4] [] = true ∧ st.volatileFree mm = true ∧ (st.popped 4).pageAt ea true false = some (xl 2 0x28004) ∧
    (xl 2 0x28004).element ea = true ∧ (xl 2 0x28004).entry.cls ≤ 1 ∧
    ((st.popped 4).cached (xl 2 0x28004)).pageAt (cellVa (xl 2 0x28004).entry ea) true false = some (xl 3 0x2C008) ∧
    (xl 3 0x2C008).plainDevice = true ∧ st.rangesFree [cellPlace (xl 3 0x2C008) 8] false = true ∧ st.badAt (xl 3 0x2C008).pa 8 = false ∧
    st.testing (xl 3 0x2C008).pa 8 = false ∧ st.owedAt (xl 3 0x2C008).pa 8 = false ∧ st.updating st.cpu.id = false := by decide
/-- ADJWR of an infinity, which saturates, and of 7 as a subnormal; the region entry lies apart from the cell. -/
theorem wit_AdjointCells_write : let ea := (st.sources 5 4).2 + 4
    st.usable [.rd 5, .rd 4] [] = true ∧ (st.popped2 5 4).pageAt ea true false = some (xl 2 0x28004) ∧
    ((st.popped2 5 4).cached (xl 2 0x28004)).pageAt (cellVa (xl 2 0x28004).entry ea) false true = some (xl 3 0x2C008) ∧
    st.rangesFree [cellPlace (xl 3 0x2C008) 8] true = true ∧ st.modeFree mm = true ∧ st.hostFree (xl 3 0x2C008).pa 8 = true ∧ st.testing (xl 3 0x2C008).pa 8 = false ∧
    st.hostFree (regionAt (st.contextD st.cpu.ctx) (xl 2 0x28004).entry.regionIdx + 1) 1 = true ∧
    (q64Add 0 0x7F800000 (xl 2 0x28004).entry.q).2 = true ∧ (q64Add 0 7 (xl 2 0x28004).entry.q).2 = false ∧
    regionAt (st.contextD st.cpu.ctx) (xl 2 0x28004).entry.regionIdx + 1 < (xl 3 0x2C008).pa := by decide
/-- FixedPointSum: a NaN, an infinity, and 1.5 at exponent 0, a tie. -/
theorem wit_FixedPointSum : (-2 : Int) ^ 63 ≤ 0 ∧ (0 : Int) < 2 ^ 63 ∧ (-160 : Int) ≤ 0 ∧ (0 : Int) ≤ 96 ∧ isNaN 0x7FC00000 = true ∧
    isInf 0xFF800000 = true ∧ expF 0x3FC00000 ≠ 255 := by decide

/-- Recording, with room for one entry on the tape in the plain page. -/
def stRec : State := on st fun t => { t with dmode := 1, tapeb := 0x20100, tapep := 0x20100, tapel := 0x20110 }
theorem wit_RecordedStores : let ea := (stRec.sources 5 4).2 + 4
    stRec.cpu.dmode = 1 ∧ stRec.usable [.rd 5, .rd 4] [] = true ∧ ea.toNat % 4 = 0 ∧
    (stRec.popped2 5 4).goesTo ea false true (xl 2 0x28004) = true ∧ (xl 2 0x28004).element ea = true ∧ (xl 2 0x28004).entry.elemWidth = 4 ∧
    stRec.rangesFree [(xl 2 0x28004).place ea 4] true = true ∧ stRec.modeFree mm = true ∧
    stRec.cpu.tapep.toNat + 16 ≤ stRec.cpu.tapel.toNat ∧
    ((stRec.popped2 5 4).cached (xl 2 0x28004)).pageAt stRec.cpu.tapep true true = some (xl 0 0x20100) ∧
    (xl 0 0x20100).plainDevice = true ∧ stRec.rangesFree [(xl 0 0x20100).place stRec.cpu.tapep 16] true = true ∧
    stRec.readable ((xl 2 0x28004).place ea 4) MemMode.none = true ∧ stRec.storable (xl 2 0x28004) 4 = true ∧
    stRec.storable (xl 0 0x20100) 16 = true ∧ (xl 0 0x20100).key + 16 ≤ (xl 2 0x28004).key := by decide

/-- Reversing: the tape in the plain page is empty, or holds entries from 0x20100 up to 0x20150. -/
def stRev (p : Word) (m : List (Nat × Nat × Nat)) : State := setM (on st fun t => { t with dmode := 2, tapeb := 0x20100, tapep := p, tapel := 0x20200 }) m
/-- ReverseAccesses: a word of the differentiable page whose cell the plain page behind it holds. -/
theorem wit_ReverseAccesses_load : let s := stRev 0x20100 []
    let ea := s.source 4 + 4
    let ovf := regionAt (s.contextD s.cpu.ctx) (xl 2 0x28004).entry.regionIdx + 1
    guardOn ch s.cpu.p = true ∧ s.cpu.isRill = false ∧ s.cpu.dmode = 2 ∧ s.usable [.wr 5, .rd 4] [] = true ∧ s.usable [.wr 127, .rd 4] [] = true ∧
    s.goodG [5] = true ∧ s.goodG [127] = true ∧ ea.toNat % 4 = 0 ∧ (s.popped 4).goesTo ea true false (xl 2 0x28004) = true ∧
    (xl 2 0x28004).element ea = true ∧ (xl 2 0x28004).entry.elemWidth = 4 ∧ (xl 2 0x28004).entry.cls ≤ 1 ∧
    ((s.popped 4).cached (xl 2 0x28004)).pageAt (cellVa (xl 2 0x28004).entry ea) false true = some (xl 3 0x2C008) ∧
    (xl 3 0x2C008).plainDevice = true ∧ s.rangesFree [cellPlace (xl 3 0x2C008) 8] true = true ∧ s.modeFree MemMode.none = true ∧
    s.hostFree (xl 3 0x2C008).pa 8 = true ∧ s.hostFree ovf 1 = true ∧ s.badAt (xl 3 0x2C008).pa 8 = false ∧ s.testing (xl 3 0x2C008).pa 8 = false ∧
    ovf < (xl 3 0x2C008).pa := by decide +kernel
/-- A store of it with the entry of its old bytes on top of the tape, with another entry there, and with an empty tape. -/
theorem wit_ReverseAccesses_store : let s := stRev 0x20110 [(0x10100, 8, 0x28004), (0x10108, 4, 7), (0x1010C, 4, 4)]
    let ea := (s.sources 5 4).2 + 4
    let u := (s.popped2 5 4).cached (xl 2 0x28004)
    let z := xl 0 0x20100
    let y := xl 3 0x2C008
    let en := s.bytesAt (z.place 0x20100 16)
    s.usable [.rd 5, .rd 4] [] = true ∧ s.usable [.rd 126, .rd 4] [] = true ∧ (s.popped2 5 4).goesTo ea false true (xl 2 0x28004) = true ∧
    s.rangesFree [(xl 2 0x28004).place ea 4] true = true ∧ s.modeFree mm = true ∧ (stRev 0x20100 []).cpu.tapep.toNat < 0x20100 + 16 ∧
    s.cpu.tapeb.toNat + 16 ≤ s.cpu.tapep.toNat ∧ s.cpu.tapep - 16 = 0x20100 ∧ u.pageAt 0x20100 true true = some z ∧ z.plainDevice = true ∧
    s.rangesFree [z.place 0x20100 16] false = true ∧ s.readable (z.place 0x20100 16) MemMode.none = true ∧
    leNat (en.take 8) = 0 * 2 ^ 58 + ea.toNat ∧ leNat (en.drop 12) % 2 ^ 8 = 4 ∧ leNat (en.drop 12) / 2 ^ 8 % 64 = (xl 2 0x28004).entry.regionIdx ∧
    leNat (((stRev 0x20110 []).bytesAt (z.place 0x20100 16)).take 8) ≠ ea.toNat ∧ s.myCore.streams = [] ∧
    (u.cached z).pageAt (cellVa (xl 2 0x28004).entry ea) true true = some y ∧ s.rangesFree [cellPlace y 8] true = true ∧ s.badAt y.pa 8 = false ∧
    s.testing y.pa 8 = false ∧ s.owedAt y.pa 8 = false ∧ s.signedAt y.pa = 0 ∧ s.hostFree y.pa 8 = true ∧ s.storable (xl 2 0x28004) 4 = true ∧
    (stRev 0x20110 [(y.pa, 8, 2 ^ 63 - 1)]).signedAt y.pa = 2 ^ 63 - 1 ∧ (stRev 0x20110 [(y.pa, 8, 2 ^ 63)]).signedAt y.pa = -2 ^ 63 := by decide +kernel
/-- The same page with elements of class INT32. -/
theorem wit_ReverseAccesses_integer : let x : Xlat := { xl 2 0x28004 with entry := leaf 0x28000 0x1800003F 0x26 0x28000 0x2C000 }
    let s := { stRev 0x20110 [(0x10100, 8, 0x28004), (0x1010C, 4, 4)] with tlb := [x.entry, (xl 0 0).entry] }
    let ea := (s.sources 5 4).2 + 4
    2 ≤ x.entry.cls ∧ x.entry.elemWidth = 4 ∧ x.element ea = true ∧ (s.popped2 5 4).goesTo ea false true x = true ∧
    ((s.popped2 5 4).cached x).pageAt 0x20100 true true = some (xl 0 0x20100) ∧ s.storable x 4 = true := by decide +kernel
/-- ReverseVectors: sixteen words from the start of the differentiable page; and in a page of BF16, which is shut. -/
theorem wit_ReverseVectors_load : let s := stRev 0x20100 []
    let ea := s.source 4 + 0
    let x := xl 2 0x28000
    let z := xl 2 0x28020
    let y := xl 3 0x2C000
    let ovf := regionAt (s.contextD s.cpu.ctx) x.entry.regionIdx + 1
    s.usable [.rd 4] [15] = true ∧ s.goodV [15] = true ∧ ea.toNat % 64 = 0 ∧ x.element ea = true ∧ (s.popped 4).goesTo ea true false x = true ∧
    ((s.popped 4).cached x).goesTo (ea + 32) true false z = true ∧ x.entry.cls = 0 ∧ (cellVa x.entry ea).toNat % 128 = 0 ∧
    (((s.popped 4).cached x).cached z).pageAt (cellVa x.entry ea) false true = some y ∧ y.plainDevice = true ∧
    s.rangesFree [cellPlace y 128] true = true ∧ s.hostFree y.pa 128 = true ∧ s.hostFree ovf 1 = true ∧ s.badAt y.pa 128 = false ∧ s.testing y.pa 128 = false ∧
    ovf < y.pa ∧ (leaf 0x28000 0x1800003F 0x16 0x28000 0x2C000).cls = 1 := by decide +kernel
def stRevV : State := stRev 0x20150 [(0x10100, 8, 2 ^ 58 + 0x28000), (0x10148, 4, 4)]
def tapePs : List Place := (List.range 5).map fun j => (xl 0 (0x20100 + 16 * j)).place (BitVec.ofNat 64 (0x20100 + 16 * j)) 16
theorem wit_ReverseVectors_store : let s := stRevV
    let ea := s.source 4 + 0
    let x := xl 2 0x28000
    let z := xl 2 0x28020
    let ps := [x.place ea 32, z.place (ea + 32) 32]
    let en := tapePs.flatMap s.bytesAt
    (s.popped 4).goesTo ea false true x = true ∧ ((s.popped 4).cached x).goesTo (ea + 32) false true z = true ∧ s.rangesFree ps true = true ∧
    s.modeFree mm = true ∧ (stRev 0x2014F []).cpu.tapep.toNat < 0x20100 + 80 ∧ s.cpu.tapeb.toNat + 80 ≤ s.cpu.tapep.toNat ∧ s.cpu.tapep - 80 = 0x20100 ∧
    s.rangesFree tapePs false = true ∧ (∀ q ∈ tapePs, s.readable q MemMode.none = true) ∧ leNat (en.take 8) = 2 ^ 58 + ea.toNat ∧
    leNat ((en.drop 72).take 4) % 2 ^ 8 = x.entry.elemWidth ∧ leNat ((en.drop 72).take 4) / 2 ^ 8 % 64 = x.entry.regionIdx ∧
    (∀ q ∈ ps, s.writable q = true) ∧ s.rangesFree [cellPlace (xl 3 0x2C000) 128] true = true ∧ s.badAt (xl 3 0x2C000).pa 128 = false ∧
    s.testing (xl 3 0x2C000).pa 128 = false ∧ s.owedAt (xl 3 0x2C000).pa 128 = false ∧ s.hostFree (xl 3 0x2C000).pa 128 = true ∧
    (∀ j < 16, s.signedAt ((xl 3 0x2C000).pa + 8 * j) = 0) ∧
    (stRev 0x20150 [((xl 3 0x2C000).pa + 8 * 15, 8, 2 ^ 63)]).signedAt ((xl 3 0x2C000).pa + 8 * 15) = -2 ^ 63 := by decide +kernel
/-- Its tape places, and the page of its cells after them. -/
def tapeEnd : State := leaves (tapePlaces 0x20100 80 (((stRevV.popped 4).cached (xl 2 0x28000)).cached (xl 2 0x28020)))
theorem wit_ReverseVectors_tape : tapePlaces 0x20100 80 (((stRevV.popped 4).cached (xl 2 0x28000)).cached (xl 2 0x28020)) = .ok (tapePs, tapeEnd) :=
  isOk_eq (by decide +kernel)
theorem wit_ReverseVectors_cells : tapeEnd.pageAt (cellVa (xl 2 0x28000).entry (stRevV.source 4 + 0)) true true = some (xl 3 0x2C000) := by decide +kernel

/-! Witnesses: atomics, reservations, updates, rills. -/

theorem wit_FetchAndOp : let ea := (st.sources 5 2).2 + 8
    guardOn ch st.cpu.p = true ∧ st.usable (agedUses [.rd 5, .rd 2] 63) [] = true ∧
    (st.popped2 5 2).atomicPage ea 8 Homes.swap (xl 0 0x20008) = true ∧ (st.popped2 5 2).atomicPage ea 8 Homes.logic (xl 0 0x20008) = true ∧
    st.atomicFree (xl 0 0x20008) ea 8 mmOrd = true := by decide
/-- FetchAndOp at a host port that supports the AtomicOp. -/
theorem wit_FetchAndOp_host : let s := { st with portA := { HostPort.fresh with atomics := true } }
    let ea := (s.sources 5 7).2 + 8
    (s.popped2 5 7).atomicPage ea 8 Homes.swap (xl 4 0x30008) = true ∧ s.atomicFree (xl 4 0x30008) ea 8 mm = true := by decide
theorem wit_UnsupportedHomes : st.usable (agedUses [.rd 5, .rd 7] 0) [] = true ∧
    (st.popped2 5 7).pageAt ((st.sources 5 7).2 + 8) true true = some (xl 4 0x30008) ∧ (xl 4 0x30008).home = 2 ∧
    (xl 4 0x30008).entry.kind = 0 ∧ (st.port (st.portFor (xl 4 0x30008).pa)).atomics = false ∧
    (st.popped2 5 8).pageAt ((st.sources 5 8).2 + 8) true true = some (xl 5 0x34008) ∧ (xl 5 0x34008).home = 1 ∧
    (st.popped2 5 9).pageAt ((st.sources 5 9).2 + 8) true true = some (xl 6 0x38008) ∧ (xl 6 0x38008).home = 3 := by decide
theorem wit_CompareAndSwap : let ea := (st.sources 5 2).2 + 8
    st.usable [.rd 5, .rd 2, .rw (wide 63)] [] = true ∧ (st.popped2 5 2).atomicPage ea 8 Homes.swap (xl 0 0x20008) = true ∧
    st.atomicFree (xl 0 0x20008) ea 8 mm = true ∧ st.dwordAt (xl 0 0x20008).key = st.source (wide 63) ∧
    st.dwordAt (xl 0 0x20008).key ≠ st.source (wide 5) := by decide
/-- CASX with the highest pairs that can stand there. -/
theorem wit_CompareAndSwap_pair : let ea := st.source 2 + 16
    st.usable [.run 124, .run 125, .rd 2, .run 63, .run 64] [] = true ∧ 0 < (63 : RegC).toNat ∧ st.goodG [124, 125, 63, 64] = true ∧
    (st.popped 2).atomicPage ea 16 Homes.swap (xl 0 0x20010) = true ∧ st.atomicFree (xl 0 0x20010) ea 16 mm = true := by decide
/-- A reservation held on the granule of 0x10000. -/
def stResv : State :=
  { on st (fun t => { t with resv := some (7, 0x10000) }) with resvs := [{ slice := 0, granule := 0x10000, holder := 0, rid := 7 }], nextRid := 8 }
theorem wit_LoadReserveStoreConditional : let ea := st.source 2 + 8
    st.usable [.wr 1, .rd 2] [] = true ∧ (st.popped 2).atomicPage ea 8 Homes.resv (xl 0 0x20008) = true ∧
    st.rangesFree [rmwPlace (xl 0 0x20008) ea 8] true = true ∧ st.volatileFree mm = true ∧ st.badAt (xl 0 0x20008).key 8 = false ∧
    st.testing (xl 0 0x20008).key 8 = false ∧ st.owedAt (xl 0 0x20008).key 8 = false ∧ st.mayGrant (xl 0 0x20008).grain (xl 0 0x20008).entry.grain = true ∧ st.myCore.streams = [] ∧
    (st.resvs.filter fun r => r.slice == sliceOf (xl 0 0x20008).key).length < 128 := by decide
/-- SC where the reservation stands and where none does. -/
theorem wit_LoadReserveStoreConditional_sc : let ea := (stResv.sources 5 2).2 + 8
    stResv.usable (agedUses [.rd 5, .rd 2] 63) [] = true ∧ (stResv.popped2 5 2).atomicPage ea 8 Homes.resv (xl 0 0x20008) = true ∧
    stResv.atomicFree (xl 0 0x20008) ea 8 mm = true ∧
    (stResv.resvs.any fun r => r.holder == stResv.cpu.id && r.granule == (xl 0 0x20008).key / 64 * 64) = true ∧
    (st.resvs.any fun r => r.holder == st.cpu.id && r.granule == (xl 0 0x20008).key / 64 * 64) = false := by decide
theorem wit_WaitForLoss : guardOn ch stResv.cpu.p = true ∧ stResv.usable [.rw 5] [] = true ∧ st.cpu.resv = none ∧
    stResv.cpu.resv ≠ none ∧ stResv.cpu.wake = .none ∧ (on stResv fun t => { t with wake := .timeout }).cpu.wake = .timeout ∧
    (on stResv fun t => { t with wake := .spurious }).cpu.wake = .spurious := by decide
theorem wit_Updates : let ea := (st.sources 5 2).2 + 8
    st.usable [.rd 5, .rd 2] [] = true ∧ (st.popped2 5 2).atomicPage ea 4 Homes.update (xl 0 0x20008) = true ∧
    (st.popped2 5 2).atomicPage ea 8 Homes.update (xl 0 0x20008) = true ∧ st.atomicFree (xl 0 0x20008) ea 4 mm = true ∧
    st.atomicFree (xl 0 0x20008) ea 8 mm = true := by decide
theorem wit_FixedPointUpdates : let ea := (st.sources 5 4).2 + 4
    st.usable [.rd 5, .rd 4] [] = true ∧ (st.popped2 5 4).pageAt ea true true = some (xl 2 0x28004) ∧ (xl 2 0x28004).element ea = true ∧
    (xl 2 0x28004).entry.cls ≤ 1 ∧
    ((st.popped2 5 4).cached (xl 2 0x28004)).pageAt (cellVa (xl 2 0x28004).entry ea) false true = some (xl 3 0x2C008) ∧
    (xl 3 0x2C008).plainDevice = true ∧ st.cpu.isRill = false ∧ st.rangesFree [cellPlace (xl 3 0x2C008) 8] true = true ∧
    st.modeFree mm = true ∧ st.hostFree (regionAt (st.contextD st.cpu.ctx) (xl 2 0x28004).entry.regionIdx + 1) 1 = true ∧
    st.hostFree (xl 3 0x2C008).pa 8 = true ∧ st.badAt (xl 3 0x2C008).pa 8 = false ∧ st.updatingAt st.cpu.id (xl 3 0x2C008).pa 8 = false ∧
    regionAt (st.contextD st.cpu.ctx) (xl 2 0x28004).entry.regionIdx + 1 < (xl 3 0x2C008).pa := by decide
theorem wit_FixedPointUpdates_cell : let ea := (st.sources 5 2).2 + 8
    (st.popped2 5 2).atomicPage ea 8 Homes.update (xl 0 0x20008) = true ∧ (xl 0 0x20008).home = 0 ∧
    st.atomicFree (xl 0 0x20008) ea 8 mm = true ∧ regionAt (st.contextD st.cpu.ctx) (xl 0 0x20008).entry.regionIdx + 1 < (xl 0 0x20008).pa := by
  decide
theorem wit_SpawnsRill : st.usable [.rd 2, .rd 5] [] = true ∧ st.usable [.rd 2, .rd 5, .rd (wide 63)] [] = true ∧
    legalTarget (st.sources 2 5).1 = true ∧ st.freeRillSlot (64 * st.cpu.die + st.cpu.cluster) = some (2 ^ 18) ∧
    st.mayServe st.cpu.id (.rill (64 * st.cpu.die + st.cpu.cluster)) = true ∧
    guardOn ch st.cpu.p = true ∧ st.cpu.isRill = false ∧ st.releaseFree .device = true ∧ st.modeFree MemMode.none = true := by decide

/-! Witnesses: copies, handles, windows, streams. -/

/-- A copy of 64 bytes inside the plain page, with FLAGS `f` and tag `t`. -/
def req (f t : Word) : MailReq := { src := 0x20000, dst := 0x20400, len := 64, flags := f, tag := t }
/-- Registers 10 to 14 hold that request; register 15 the tag, 16 and 17 zero. -/
def withReq (id : Nat) (t : Thread) : Thread :=
  { t with id := id, flume := [], g := regs [(2, 0x20000), (5, 7), (10, 0x20000), (11, 0x20400), (12, 64), (13, 0), (14, 0x80000), (15, 0x80000), (18, 96)] }
def stCp : State := { on st (withReq 0) with cores := [] }
/-- A STOP request may be made at supervisor level alone. -/
theorem wit_CopyRequest :
    let q : MailReq := { src := stCp.cpu.reg 10, dst := stCp.cpu.reg 11, len := stCp.cpu.reg 12, flags := stCp.cpu.reg 13, tag := 0 }
    guardOn ch stCp.cpu.p = true ∧ stCp.cpu.isRill = false ∧ stCp.cpu.isSluice = false ∧
    stCp.usable [.run 10, .run 11, .run 12, .run 13] [] = true ∧ q.src.toNat % 32 = 0 ∧ q.dst.toNat % 32 = 0 ∧ q.len.toNat % 32 = 0 ∧
    0 < q.len.toNat ∧ q.len.toNat ≤ 2 ^ 30 ∧ q.badFlags = false ∧ badRange stCp stCp.cpu.coreId q.ssp q.src q.len = false ∧
    badRange stCp stCp.cpu.coreId q.dsp q.dst q.len = false ∧ (q.stop = true → stCp.cpu.sup = true) ∧ stCp.rowFor stCp.cpu = some 0 ∧
    freeIndex 32 (stCp.myCore.score.map (·.idx)) = some 0 ∧ stCp.myCore.mailbox.length < 16 ∧
    stCp.goodG [10, 11, 12, 13] = true ∧
    stCp.cpu.batch.opened.toNat % 32 < 31 ∧ stCp.cpu.launch < 64 ∧ stCp.releaseFree .core = true ∧ stCp.modeFree MemMode.none = true := by decide +kernel
/-- Batch 0 sealed with one request not posted yet: one batch is unfinished. -/
def stBat : State := on stCp fun t => { t with batch := { Batch.empty with ring := Batch.empty.ring.set 0 1, sealedNo := 1 } }
/-- The same with 64 sealed batches, the oldest unfinished. -/
def stFull : State := on stCp fun t => { t with batch := { Batch.empty with ring := Batch.empty.ring.set 0 1, sealedNo := 64 } }
theorem wit_BatchSealAndWait : stBat.cpu.batch.unfin = 1 ∧ stBat.cpu.batch.unfin < 64 ∧
    batchFail (stBat.cpu.batch.at stBat.cpu.batch.sealedNo.toNat) = 0 ∧ stFull.cpu.batch.unfin = 64 ∧
    stBat.cpu.batch.unfin ≤ (1 : Word).toNat ∧ stBat.cpu.batch.failed 64 = none ∧ (0 : Word).toNat < stBat.cpu.batch.unfin := by decide +kernel
/-- The scoreboard entry of the request, taken by the sluice slot. -/
def sbe0 : Score := { idx := 0, ctx := 0, req := req 0 0x80000, owner := 0, task := 0, rank := 0, savearea := 0, launch := 0, taken := true, entries := [] }
/-- The sluice slot of core 0 with the request in its registers, or in its mailbox. -/
def stXf : State :=
  { on st (withReq 63) with
    others := [{ thr with row := some 0, batch := { Batch.empty with opened := 1 } }]
    cores := [{ Core.fresh 0 with score := [sbe0], rows := [{ num := 0, owner := some 0, batch := Batch.empty, save := none, entry := none }] }] }
def stMb : State := { stXf with cores := [{ Core.fresh 0 with mailbox := [req 0 0x80000], score := [{ sbe0 with taken := false }] }] }
theorem wit_MailboxGet : guardOn ch stMb.cpu.p = true ∧ stMb.cpu.isSluice = true ∧
    stMb.usable ((List.range 5).map fun j => Use.run ((10 : BitVec 5).toNat + j)) [] = true ∧ stMb.myCore.mailbox = [req 0 0x80000] ∧
    stXf.myCore.mailbox = [] := by decide +kernel
/-- MBGET to g0 to g4, the lowest run. -/
theorem wit_MailboxGet_zero : stMb.usable ((List.range 5).map fun j => Use.run ((0 : BitVec 5).toNat + j)) [] = true := by decide +kernel
def side0 : Side := .pages 0x20000 [xl 0 0x20000]
def side1 : Side := .pages 0x20400 [xl 0 0x20400]
theorem wit_TransferMoves : guardOn ch stXf.cpu.p = true ∧ stXf.cpu.isSluice = true ∧
    stXf.usable (((List.range 5).map fun j => Use.run ((10 : BitVec 5).toNat + j)) ++ [.run 16, .run 17]) [] = true ∧
    stXf.goodG ((List.range 5).map fun j => (10 : BitVec 5).toNat + j) = true ∧ stXf.cpu.reply = .none ∧ stXf.cpu.nomap = none ∧ (req 0 0x80000).stop = false ∧
    first? (fun x => x.idx == (req 0 0x80000).sbe && x.taken) stXf.myCore.score = some sbe0 ∧
    (∀ j < 2, stXf.badAt (side0.sector 0 j).1 32 = false ∧ stXf.remoteFails (side0.sector 0 j).2.2 false = false ∧
      stXf.remoteFails (side1.sector 0 j).2.2 true = false ∧ stXf.remoteWaits (side0.sector 0 j).2.2 false = none ∧
      stXf.remoteWaits (side1.sector 0 j).2.2 true = none ∧ stXf.testing (side0.sector 0 j).1 32 = false ∧ stXf.owedAt (side0.sector 0 j).1 32 = false ∧
      stXf.testing (side1.sector 0 j).1 32 = false ∧ stXf.owedAt (side1.sector 0 j).1 32 = false) ∧ stXf.modeFree MemMode.none = true ∧
    (∀ i < 2, ∀ j < 2, i ≠ j → (side1.sector 0 i).1 + 32 ≤ (side1.sector 0 j).1 ∨ (side1.sector 0 j).1 + 32 ≤ (side1.sector 0 i).1) := by
  decide +kernel
theorem wit_TransferMoves_hosts : ∀ j < 2, ∀ x, (side1.sector 0 j).2.2 = some x →
    (x.home = 0 → stXf.hostFree x.pa 32 = true) ∧ (x.home = 2 → (stXf.port (stXf.portFor x.pa)).posts = [])
  | 0, _, _, h => by cases h; decide
  | 1, _, _, h => by cases h; decide
  | n + 2, hj, _, _ => absurd hj (by omega)
def wkXf : Walker := { stXf.cpu.walker with sup := (req 0 0x80000).sup }
def stXf1 : State := leaves (sideOf wkXf (copyNote stXf.cpu sbe0) 0 0x20000 64 false stXf)
theorem wit_TransferMoves_source : sideOf wkXf (copyNote stXf.cpu sbe0) 0 0x20000 64 false stXf = .ok ((side0, none), stXf1) :=
  isOk_eq (by decide)
theorem wit_TransferMoves_destination : ∃ w, sideOf wkXf (copyNote stXf.cpu sbe0) 0 0x20400 64 true stXf1 = .ok ((side1, none), w) :=
  ⟨_, isOk_eq (by decide)⟩
/-- The sluice slot stalled in its XFER. -/
theorem wit_CopyFinish : let s := on stXf fun t => { t with state := .stalled, reply := .copying, held := some (.xfer ch 10 16) }
    s.cpu.state = .stalled ∧ s.cpu.reply = .copying ∧ s.cpu.held = some (.xfer ch 10 16) := by decide +kernel
theorem wit_CopyFinish_post : let u : Thread := { thr with row := some 0, batch := { Batch.empty with opened := 1 } }
    stXf.usable [.run 15, .run 16, .run 17] [] = true ∧ stXf.goodG [15, 16, 17] = true ∧ first? (fun x => x.req.tag == stXf.cpu.reg 15 && x.taken) stXf.myCore.score = some sbe0 ∧
    sbe0.req.postAct = 0 ∧ stXf.cpu.reg 16 = 0 ∧ first? (fun r => r.num == sbe0.req.rowTag) stXf.myCore.rows =
      some { num := 0, owner := some u.id, batch := Batch.empty, save := none, entry := none } ∧ u.id ≠ stXf.cpu.id ∧ stXf.thread? u.id = some u ∧
    sbe0.req.batchTag = u.batch.sealedNo.toNat % 128 ∧ sbe0.launch < 64 ∧ stXf.releaseFree .device = true ∧ stXf.modeFree MemMode.none = true := by
  decide +kernel

/-- Handle 7 a ring of 4 slots of 32 bytes, one of them filled; handle 0 unconfigured. -/
def stRing : State :=
  { st with cores := [{ Core.fresh 0 with handles := (Core.fresh 0).handles.set 7 { base := 0, size := 32, count := 4, ch := 3, filled := 1 } }] }
/-- HandleRings: every case of n against the four slots, at its bounds. -/
theorem wit_HandleRings : let x := stRing.myCore.handles[7]
    guardOn ch stRing.cpu.p = true ∧ stRing.cpu.isRill = false ∧ stRing.unpinned 15 = true ∧ stRing.myCore.handles[0].count = 0 ∧
    stRing.releaseFree .core = true ∧ stRing.modeFree MemMode.none = true ∧ x.count ≠ 0 ∧ (3 : Word).toNat ≤ x.count - x.filled ∧ x.count - x.filled < (4 : Word).toNat ∧ (1 : Word).toNat ≤ x.filled ∧
    x.filled < (2 : Word).toNat ∧ (4 : Word).toNat ≤ x.count ∧ x.count < (5 : Word).toNat := by decide +kernel
/-- HCFG of the largest ring, and of none. -/
theorem wit_HandleRings_configure : let s := on st fun t => { t with g := regs [(1, 0x1000000000000 + 0), (2, BitVec.ofNat 64 (0 + 131072 * 2 ^ 17 + 1 * 2 ^ 35))] }
    s.usable [.rd 2] [] = true ∧ s.unpinned 8 = true ∧ s.source 2 = BitVec.ofNat 64 (0 + 131072 * 2 ^ 17 + 1 * 2 ^ 35) ∧ (131072 : Nat) < 2 ^ 18 ∧ (131072 : Nat) % 32 = 0 ∧
    badRange s s.cpu.coreId 1 (BitVec.ofNat 64 0) (BitVec.ofNat 64 (131072 * 1)) = false ∧
    s.source 0 = BitVec.ofNat 64 (0 + 0 * 2 ^ 17 + 0 * 2 ^ 35) ∧
    (∀ j < 256, s.linesFailed s.cpu.coreId j 1 = false ∧ s.linesTested s.cpu.coreId j 1 = false) := by decide +kernel
/-- XPUSH of offset 96 to the own core and to the next of the ring. -/
theorem wit_HandleRings_push : stXf.cpu.isSluice = true ∧ stXf.usable [.run (18 : BitVec 5).toNat] [] = true ∧ stXf.goodG [18] = true ∧
    (stXf.cpu.reg 18).toNat < 2 ^ 20 ∧ (stXf.cpu.reg 18).toNat % 32 = 0 ∧ (stXf.core stXf.cpu.coreId).q8.length < 16 ∧
    stXf.releaseFree .cluster = true ∧ stXf.modeFree MemMode.none = true ∧
    (stXf.core (stXf.cpu.id / 512 * 8 % 4096 + (stXf.cpu.ring + 1) % 8)).q9.length < 16 := by decide +kernel

/-- SMAP of the whole cistern on the plain page's address, and of window 0 where window 0 stands already. -/
def stMap : State := on st fun t => { t with g := regs [(1, 0x20000), (2, 0x10000), (3, 0x1FF), (10, 0x20000), (11, 64), (12, 3)] }
theorem wit_WindowsAndStreams : guardOn ch stMap.cpu.p = true ∧ stMap.cpu.isRill = false ∧ stMap.usable [.rd 1, .rd 2] [] = true ∧
    stMap.myCore.windows = [] ∧ (stMap.sources 1 2).1.toNat = 0x20000 ∧ (stMap.sources 1 2).2.toNat % 2 ^ 8 = 0 ∧
    (stMap.sources 1 2).2.toNat / 2 ^ 8 % 2 ^ 9 = 256 ∧ 0x20000 % 512 = 0 ∧ 0x20000 + 512 * 256 ≤ 2 ^ 58 ∧ 0 + 256 ≤ 256 ∧ stMap.retired = [] ∧
    stMap.usable [.run 10, .run 11, .run 12, .run 13] [] = true ∧ stMap.goodG [10, 11, 12, 13] = true ∧ stMap.windowFree 0 = true ∧
    stMap.linesFailed stMap.cpu.coreId 0 256 = false ∧ stMap.linesTested stMap.cpu.coreId 0 256 = false ∧
    stMap.linesUnpinned stMap.cpu.coreId 0 256 = true ∧ (stMap.cpu.reg 12).toNat % 2 ^ 32 ≠ 0 ∧ (stMap.cpu.reg 13).toNat % 2 ^ 32 = 0 := by
  decide +kernel
theorem wit_WindowsAndStreams_owned : ∀ x, stWin.window? stWin.cpu.coreId 0 = some x → x.owner = stWin.cpu.id := by
  intro x h; cases h; decide
theorem wit_WindowsAndStreams_free : stWin.windowFree 0 = true := by decide

/-! CisternForms: the witnesses of HandleRings and WindowsAndStreams, the ring of HCFG read from the register. -/
theorem wit_CisternForms : let s := on st fun t => { t with g := regs [(2, BitVec.ofNat 64 (131072 * 2 ^ 17 + 1 * 2 ^ 35))] }
    let x := (s.source 2).toNat
    x < 2 ^ 48 ∧ x / 2 ^ 17 % 2 ^ 18 % 32 = 0 ∧ 32 ≤ x / 2 ^ 17 % 2 ^ 18 ∧ x / 2 ^ 17 % 2 ^ 18 ≤ 131072 ∧ x % 2 ^ 17 % 32 = 0 ∧
    badRange s s.cpu.coreId 1 (BitVec.ofNat 64 (x % 2 ^ 17)) (BitVec.ofNat 64 (x / 2 ^ 17 % 2 ^ 18 * (x / 2 ^ 35))) = false ∧
    (s.source 0).toNat / 2 ^ 35 = 0 ∧ s.usable [.rd 2] [] = true ∧ s.unpinned 8 = true ∧
    (∀ j < 256, s.linesFailed s.cpu.coreId j 1 = false ∧ s.linesTested s.cpu.coreId j 1 = false) := by decide +kernel
theorem wit_CisternForms_push : stXf.cpu.isRill = false ∧
    (stXf.core (stXf.cpu.id / 512 * 8 + (stXf.cpu.ring + 1) % 8)).q9.length < 16 := by decide +kernel

/-! Witnesses: the matrix unit. -/

/-- The thread's own format context, with configuration `cfg`, pending steps `ps` and the queues given. -/
def stFmt (cfg : BitVec 5) (ps : List MmaStep) (q8 q9 : List Word) (f10 f11 : List F32) : State :=
  { st with cores := [{ Core.fresh 0 with fmt := { FmtCtx.none with holder := some 0, cfg := cfg, pending := ps }, q8 := q8, q9 := q9, f10 := f10, f11 := f11 }] }
def step1 : MmaStep :=
  { dst := 1, cfg := 5, aTile := [], aSlot := List.replicate 256 0, bSlot := List.replicate 256 0, aScales := [], bScales := [] }
theorem wit_FormatContext : guardOn ch st.cpu.p = true ∧ st.cpu.isRill = false ∧ st.cpu.isSluice = false ∧ st.matrixTest st.cpu.clusterId = false ∧ st.myCore.fmt.holder = none ∧
    (stFmt 5 [] [] [] [] []).myCore.fmt.holder = some (stFmt 5 [] [] [] [] []).cpu.id ∧ (stFmt 5 [] [] [] [] []).myCore.fmt.pending = [] ∧
    (stFmt 5 [step1] [] [] [] []).myCore.fmt.pending ≠ [] ∧
    ({ st with cores := [{ Core.fresh 0 with fmt := { FmtCtx.none with holder := some 1 } }] } : State).myCore.fmt.holder = some 1 ∧
    (1 : Nat) ≠ st.cpu.id ∧ st.usable [.wr 127] [] = true ∧ st.myCore.q8.length ≤ 16 ∧ st.myCore.f10.length ≤ 256 ∧ st.usable [.rd 5] [] = true ∧
    expF ((st.source 5).setWidth 32) ≠ 255 ∧ 0 < unitsF ((st.source 5).setWidth 32) ∧ st.myCore.f10.length < 256 := by decide
theorem wit_FormatContextTraps : guardOn ch st.cpu.p = true ∧ st.cpu.isRill = false ∧ st.myCore.fmt.holder ≠ some st.cpu.id ∧
    st.usable [.rd 126] [15] = true := by decide
theorem wit_MatrixSteps_holds : (stFmt 5 [] [0, 0x1FF00] [0x100, 0x200] [] []).holdsFmt := ⟨by decide, by decide, by decide⟩
theorem wit_TileMoves_holds : (stFmt 5 [step1] [] [] [] []).holdsFmt := ⟨by decide, by decide, by decide⟩
/-- Two FP32 steps with two slots in each queue, the last at the end of the cistern. -/
theorem wit_MatrixSteps : let s := stFmt 5 [] [0, 0x1FF00] [0x100, 0x200] [] []
    guardOn ch s.cpu.p = true ∧ s.queueReady 1 2 (slotLen 1) s.myCore.q9 s.myCore.f11 = true ∧ s.stepsReady 2 = true ∧
    s.myCore.fmt.cfg.getLsbD 4 = false ∧ (3 : Tile).toNat ∉ s.myCore.fmt.badTiles ∧ s.myCore.fmt.busy 3 = false ∧ (14 : BitVec 4).toNat + (2 : BitVec 5).toNat ≤ 32 / 2 := by decide
/-- A sparse DL8 step with its scales. -/
theorem wit_MatrixSteps_sparse : let s := stFmt 31 [] [0] [0x400] (List.replicate 16 0x3F800000) (List.replicate 16 0x3F800000)
    s.stepsReady 1 = true ∧ s.myCore.fmt.cfg.getLsbD 4 = true ∧ s.queueReady 3 1 (slotLen 3) s.myCore.q9 s.myCore.f11 = true := by decide
theorem wit_TileWrite : ((stFmt 5 [step1] [] [] [] []).core 0).fmt.pending = step1 :: [] ∧ step1.cfg = 5 ∧ step1.aTile = [] ∧ step1.aScales = [] ∧
    step1.bScales = [] ∧ step1.aSlot.length = 256 ∧ step1.bSlot.length = 256 ∧ expF (wordOf step1.aSlot 0) ≠ 255 ∧ expF (wordOf step1.bSlot 0) ≠ 255 := by
  decide
theorem wit_TileMoves : let s := stFmt 5 [step1] [] [] [] []
    s.myCore.fmt.busy 0 = false ∧ (0 : Tile).toNat ∉ s.myCore.fmt.badTiles ∧ s.usable [] [15] = true ∧ s.goodV [15] = true ∧ s.goodV [15, 0] = true ∧
    s.usable [.wr 127] [] = true ∧ s.usable [.rd (wide 63)] [15, 0] = true := by decide
/-- TLD and TST of a DL8 image in the plain page, 34 sectors, and RGROW of a mask of four sectors there. -/
def fmtSt : State := stFmt 15 [] [] [] [] []
def imagePs (n : Nat) : List Place := (List.range n).map fun j => (xl 0 (0x20000 + 32 * j)).place (BitVec.ofNat 64 (0x20000 + 32 * j)) 32
theorem wit_TileImages : guardOn ch fmtSt.cpu.p = true ∧ fmtSt.myCore.fmt.busy 0 = false ∧ fmtSt.myCore.fmt.busy 1 = false ∧
    fmtSt.myCore.fmt.badTiles = [] ∧ fmtSt.usable [.rd 2] [] = true ∧ (fmtSt.source 2 + 0).toNat % 64 = 0 ∧ fmtSt.modeFree MemMode.none = true ∧
    fmtSt.rangesFree (imagePs 34) false = true ∧ fmtSt.rangesFree (imagePs 34) true = true := by decide +kernel
theorem wit_TileImages_free : ∀ p ∈ imagePs 34, fmtSt.readable p MemMode.none = true ∧ fmtSt.writable p = true := by decide +kernel
theorem wit_TileImages_holds : fmtSt.holdsFmt := ⟨by decide, by decide, by decide⟩
theorem wit_TileImages_load : ∃ u, plainPlaces true false (piecesOf (fmtSt.source 2 + 0) 1088) (fmtSt.popped 2) = .ok (imagePs 34, u) :=
  ⟨_, isOk_eq (by decide +kernel)⟩
theorem wit_TileImages_store : ∃ u, plainPlaces false true (piecesOf (fmtSt.source 2 + 0)
    (imageOf 3 fmtSt.myCore.fmt.tiles[0].toList).1.length) (fmtSt.popped 2) = .ok (imagePs 34, u) := ⟨_, isOk_eq (by decide +kernel)⟩
theorem wit_TileImages_regrow : ∃ u, plainPlaces true true (piecesOf (fmtSt.source 2 + 0) 128) (fmtSt.popped 2) = .ok (imagePs 4, u) :=
  ⟨_, isOk_eq (by decide +kernel)⟩

/-! Witnesses: tasks, the Turnout, multicast. -/

/-- A valid task record at VA 0x20000 (PA 0x10000): one member, 8 registers, DEP `dep`, one successor or none. -/
def taskMem (dep : Nat) : List (Nat × Nat × Nat) := [(0x10000, 8, 0x10000), (0x10008, 8, 1 + 8 * 2 ^ 16), (0x10024, 4, dep)]
theorem wit_TaskInstructions : let s := setM st (taskMem 0)
    let x := xl 0 0x20000
    guardOn ch s.cpu.p = true ∧ s.cpu.isRill = false ∧ s.cpu.isSluice = false ∧ s.usable [.rd 2] [] = true ∧ (s.source 2).toNat % 64 = 0 ∧
    (s.popped 2).pageAt (s.source 2) true true = some x ∧ x.plainDevice = true ∧ s.badAt x.key 64 = false ∧ (s.taskRec x.key).valid = true ∧
    s.testing x.key 64 = false ∧ (s.taskRec x.key).sup = false ∧ s.rangesFree [rmwPlace x (s.source 2) 64] true = true ∧ s.hostFree x.key 64 = true ∧
    s.modeFree MemMode.none = true ∧ (s.taskRec x.key).state % 4 = 0 ∧ (s.taskRec x.key).dep = 0 ∧ s.owedAt x.key 64 = false ∧ s.updating s.cpu.id = false ∧
    0 ∈ s.partition s.cpu.tenant ∧ (s.queued 0 s.cpu.tenant).length < 1024 ∧ s.cpu.launch < 64 := by decide +kernel
/-- DEPADD of 7 to DEP, of -1 to a DEP of 1, past 2^31 - 1, and of a task that is queued. -/
theorem wit_TaskInstructions_depadd :
    (0 ≤ ((setM st (taskMem 0)).taskRec 0x10000).dep + ((st.source 5).setWidth 32).toInt) ∧ st.usable [.rw 5, .rd 2] [] = true ∧
    ((setM st (taskMem 1)).taskRec 0x10000).dep + ((0xFFFFFFFFFFFFFFFF : Word).setWidth 32).toInt = 0 ∧
    (2 ^ 31 ≤ ((setM st (taskMem 0x7FFFFFFF)).taskRec 0x10000).dep + ((1 : Word).setWidth 32).toInt) ∧
    ((setM st (taskMem 0)).taskRec 0x10000).dep + ((0xFFFFFFFFFFFFFFFF : Word).setWidth 32).toInt < 0 := by decide +kernel
theorem wit_TaskInstructions_cancel : st.cancelled st.cpu.tenant ((st.source 5).setWidth 32) = false ∧
    (st.cancels.filter fun e => e.tenant == st.cpu.tenant).length < 64 ∧
    ({ st with cancels := [{ tenant := 0, inst := 7, launch := 0 }] } : State).cancelled st.cpu.tenant ((st.source 5).setWidth 32) = true := by decide +kernel

/-- A descriptor at VA 0x20000: a level table for 16 bodies at 0x20400, a list of 8 constraints at 0x20800. -/
def stCb : State := setM (on st fun t => { t with cbdesc := 0x20000 }) [(0x10000, 8, 0x20400), (0x10008, 8, 16), (0x10010, 8, 0x20800), (0x10018, 8, 8)]
def descFree : Desc := { va := 0x20000, home := 0x10000, sweep := none, state := 0 }
/-- One body, number 15, the last. -/
def stPush : State := on stCb fun t => { t with g := regs [(5, 7), (10, 15)] }
def push1 : State := leaves (getDesc (stPush.popped 5))
def push2 : State := leaves (levelPlaces 0x20400 (bodiesOf 15 0) push1)
theorem wit_ConstraintPush_desc : getDesc (stPush.popped 5) = .ok (descFree, push1) := isOk_eq (by decide)
theorem wit_ConstraintPush_table : levelPlaces 0x20400 (bodiesOf 15 0) push1 = .ok ([(0x1040F, 0x2040F)], push2) := isOk_eq (by decide)
theorem wit_ConstraintPush_entry : ∃ u, turnoutReach (BitVec.ofNat 64 (0x20800 + 32 * 0)) true push2 = .ok (0x10800, u) :=
  ⟨_, isOk_eq (by decide)⟩
theorem wit_ConstraintPush : let dw (j : Nat) : Nat := (stPush.dwordAt (descFree.home + 8 * j)).toNat
    guardOn ch stPush.cpu.p = true ∧ stPush.cpu.isRill = false ∧ stPush.usable [.wr 1, .rd 5, .run 10, .run 11] [] = true ∧
    stPush.cpu.reg 10 = 15 ∧ stPush.cpu.reg 11 = 0 ∧ descFree.sweep = none ∧ descFree.state = 0 ∧ dw 0 = 0x20400 ∧ dw 1 = 16 ∧ dw 2 = 0x20800 ∧
    dw 3 = 8 ∧ (∀ x ∈ bodiesOf 15 0, x < dw 1) ∧ stPush.goodG [10, 11] = true ∧ stPush.modeFree MemMode.none = true ∧
    stPush.badAt 0x1040F 1 = false ∧ stPush.testing 0x1040F 1 = false ∧ stPush.hostFree 0x1040F 1 = true ∧ stPush.hostFree 0x10800 32 = true ∧
    stPush.hostFree (descFree.home + 32) 16 = true ∧ stPush.sweeps = [] ∧ stPush.owedAt 0x1040F 1 = false ∧ stPush.testing 0x10800 32 = false ∧
    stPush.testing (descFree.home + 32) 16 = false ∧ stPush.releaseFree .device = true := by decide +kernel
/-- A running sweep of one constraint handed out, its list entry at 0x10800, and the same not handed out yet. -/
def sweepOf (run handed : Bool) : Sweep :=
  { home := 0x10000, ctx := 0, running := run, items := [{ level := 1, entries := [], bodies := [0x1040F], entry := 0x10800, handed := handed, done := false }] }
def stSw (run handed : Bool) : State :=
  setM { on stCb (fun t => { t with g := regs [] }) with sweeps := [sweepOf run handed] } [(0x10020, 8, if run then 2 else 1)]
def descOf (run handed : Bool) : Desc := { va := 0x20000, home := 0x10000, sweep := some (sweepOf run handed), state := if run then 2 else 1 }
theorem wit_SweepRun_desc : (∃ u, getDesc (stSw true true) = .ok (descOf true true, u)) ∧ (∃ u, getDesc (stSw true false) = .ok (descOf true false, u)) ∧
    (∃ u, getDesc (stSw false false) = .ok (descOf false false, u)) := ⟨⟨_, isOk_eq (by decide)⟩, ⟨_, isOk_eq (by decide)⟩, ⟨_, isOk_eq (by decide)⟩⟩
theorem wit_SweepRun_ended : ∃ u, getDesc (setM stCb [(0x10020, 8, 3)]) = .ok ({ descFree with state := 3 }, u) := ⟨_, isOk_eq (by decide)⟩
theorem wit_SweepRun : guardOn ch (stSw true true).cpu.p = true ∧ (stSw true true).cpu.isRill = false ∧ (sweepOf false false).running = false ∧
    (stSw false false).modeFree MemMode.none = true ∧
    (stSw false false).releaseFree .device = true ∧ (stSw false false).testing 0x10020 16 = false ∧ (stSw false false).testing 0x1040F 1 = false ∧
    (stSw true false).owedAt 0x10800 8 = false ∧ (stSw true true).releaseFree .device = true ∧ (stSw true true).testing 0x10020 16 = false ∧
    (stSw false false).hostFree 0x10020 16 = true ∧ (stSw false false).hostFree 0x1040F 1 = true ∧ (sweepOf true false).openLevel = some 1 ∧
    nextOf 1 (sweepOf true false).items 0 = some (0, { level := 1, entries := [], bodies := [0x1040F], entry := 0x10800, handed := false, done := false }) ∧
    (stSw true false).usable [.run 10, .run 11] [] = true ∧ (stSw true false).badAt 0x10800 8 = false ∧ (stSw true false).testing 0x10800 8 = false ∧ (stSw true true).usable [.rd 10] [] = true ∧
    (sweepOf true true).items[((stSw true true).source 10).toNat]? = some { level := 1, entries := [], bodies := [0x1040F], entry := 0x10800, handed := true, done := false } := by
  decide +kernel

/-! MatrixForms: the same descriptor and sweeps. -/
/-- The state that `State.placesOf` leaves. -/
def found (o : Option (List Nat × State)) : State := match o with | some p => p.2 | none => State.reset
theorem found_eq {o : Option (List Nat × State)} {l : List Nat} (h : o.map Prod.fst = some l) : o = some (l, found o) := by
  cases o with
  | none => cases h
  | some p => cases h; rfl
/-- The state once the descriptor's page has been translated. -/
def descState (s : State) : State := found (s.placesOf [s.cpu.cbdesc])
theorem wit_MatrixForms_push : (stPush.popped 5).descriptorAt 0x10000 (descState (stPush.popped 5)) :=
  ⟨by decide, found_eq (by decide), by decide, by decide, by decide⟩
theorem wit_MatrixForms_next : (stSw true false).descriptorAt 0x10000 (descState (stSw true false)) :=
  ⟨by decide, found_eq (by decide), by decide, by decide, by decide⟩
theorem wit_MatrixForms_seal : (stSw false false).descriptorAt 0x10000 (descState (stSw false false)) :=
  ⟨by decide, found_eq (by decide), by decide, by decide, by decide⟩
theorem wit_MatrixForms_places : ∃ v, (descState (stPush.popped 5)).placesOf ((bodiesOf 15 0).map (fun x => BitVec.ofNat 64 (0x20400 + x)) ++
    [BitVec.ofNat 64 (0x20800 + 32 * 0)]) = some ([0x1040F] ++ [0x10800], v) := ⟨_, found_eq (by decide)⟩
theorem wit_MatrixForms_sweep : stPush.sweep? 0x10000 = none ∧ (stPush.dwordAt (0x10000 + 8 * 4)).toNat % 4 = 0 ∧
    (stSw true false).sweep? 0x10000 = some (sweepOf true false) ∧ (stSw false false).sweep? 0x10000 = some (sweepOf false false) ∧
    (setM stCb [(0x10020, 8, 3)]).sweep? 0x10000 = none ∧ ((setM stCb [(0x10020, 8, 3)]).dwordAt (0x10000 + 32)).toNat % 4 = 3 := by decide +kernel
theorem wit_MatrixForms_free : (stSw false false).sweepFree (sweepOf false false) := ⟨by decide, by decide, by decide⟩

/-- Group 3 with its bitmap at VA 0x20000 naming peers 0 and 5; this device is peer 0, and peer 5 grants the page. -/
def stMc : State :=
  setM { on st (fun t => { t with g := regs [(2, 0x20000), (9, 0x38000), (10, 3)] }) with
    groups := [{ num := 3, dw0 := 0x20001, dw1 := 0 }], peers := [{ num := 5, inc := 0, up := true, answers := true }]
    grants := [{ peer := 5, inc := 0, ctx := 0, tables := 0, lo := 0, hi := 0x4000, rd := true, wr := true }] } [(0x10000, 1, 0x21)]
theorem wit_Multicast : stMc.usable [.rd 9, .rd (wide 10)] [12, 13, 14, 15] = true ∧ (stMc.source 9 + 0x3F00).toNat % 256 = 0 ∧
    (stMc.popped 9).pageAt (stMc.source 9 + 0x3F00) false true = some (xl 6 0x3BF00) ∧ (xl 6 0x3BF00).entry.kind = 0 ∧ (xl 6 0x3BF00).home = 3 ∧
    (stMc.source (wide 10)).toNat < 1024 ∧ stMc.groupBitmap stMc.cpu.ctx (stMc.source (wide 10)).toNat = some 0x20000 ∧ stMc.cpu.mcOwed < 16 ∧
    stMc.releaseFree .fabric = true ∧ stMc.modeFree MemMode.none = true ∧ stMc.goodV [12, 13, 14, 15] = true ∧
    stMc.rangesFree [(xl 6 0x3BF00).place (stMc.source 9 + 0x3F00) 256] true = true ∧ (xl 6 0x3BF00).pa + 256 ≤ 2 ^ 40 ∧ stMc.peerGrants stMc.cpu.ctx 5 (xl 6 0x3BF00).pa 256 false true = true ∧
    stMc.usable [.wr 1] [] = true ∧ stMc.cpu.mcOwed = 0 ∧ stMc.owesNote stMc.cpu = false := by decide +kernel
theorem wit_Multicast_owed : ∀ p ∈ [0, 5].filter (· != stMc.selfNum.toNat), stMc.owedAt (peerKey p (xl 6 0x3BF00).pa) 256 = false := by decide +kernel
theorem wit_Multicast_bitmap : ∃ u, readBitmap 0x20000 ((stMc.popped 9).cached (xl 6 0x3BF00)) = .ok ([0, 5], u) := ⟨_, rfl⟩
theorem wit_Multicast_ffence : st.usable [.rd 5, .rd 2] [] = true ∧ ((st.sources 5 2).2 + 8).toNat % 8 = 0 ∧
    (st.popped2 5 2).pageAt ((st.sources 5 2).2 + 8) false true = some (xl 0 0x20008) ∧ st.rangesFree [(xl 0 0x20008).place ((st.sources 5 2).2 + 8) 8] true = true ∧
    st.cpu.batch.unfin = 0 ∧ st.releaseFree .fabric = true ∧ st.storable (xl 0 0x20008) 8 = true := by decide +kernel
theorem wit_MulticastAnswers : st.cpu.state ≠ .free ∧ (∀ p ∈ [0, 4095], p < 4096) ∧ (on st fun t => { t with mcNeg := 1 }).cpu.mcNeg ≠ 0 := by decide +kernel

/-! Witnesses: the supervisor, futures, spill and restore, drains, scrubs. -/

/-- A record of kind 1 for the thread. -/
def note1 : Note :=
  { ctx := 0, kind := 1, cause := 1, rank := 0, taskid := 0, trappc := 0x10000, trapval := 0, aux := 0, len := 2, savearea := 0, newpc := 0,
    target := .member 1 0, launch := 0 }
/-- Its ring empty, and full: HEAD 256 ahead of TAIL. -/
theorem wit_Notifications : st.context? note1.ctx = some ctx0 ∧ ctx0.supBlock + 65536 ≤ Config.deviceBytes ∧
    (st.dwordAt ctx0.supBlock - st.dwordAt (ctx0.supBlock + 8)).toNat < 256 ∧ st.hostFree ctx0.supBlock 8 = true ∧
    st.hostFree (ctx0.supBlock + 0x4000) 64 = true ∧
    st.noteWaits note1 = false ∧ st.badAt ctx0.supBlock 16 = false ∧ stUpd.noteWaits { note1 with target := .slot 0 } = true ∧
    (let s := setM st [(0x80000, 8, 256)]; 256 ≤ (s.dwordAt ctx0.supBlock - s.dwordAt (ctx0.supBlock + 8)).toNat) := by decide +kernel
/-- The host holds a copy of the line of HEAD. -/
def hostLine (a : Nat) : State :=
  { st with dirs := [{ grain := a, size := 512, state := .shared, owner := none, sharers := 0, seq := 0, busy := false, hostA := true, hostB := false }] }
theorem wit_Notifications_host : let s := hostLine 0x80000
    s.context? note1.ctx = some ctx0 ∧ s.noteWaits note1 = false ∧ s.badAt ctx0.supBlock 16 = false ∧ s.hostFree ctx0.supBlock 8 = false ∧
    (s.dwordAt ctx0.supBlock - s.dwordAt (ctx0.supBlock + 8)).toNat < 256 ∧ (s.dirs.map DirEntry.grain).Nodup := by decide +kernel
/-- The thread halted, its record number 0 awaited, with ACTION `a` and NEWPC `pc`. -/
def stHalt (n : Note) (a pc : Nat) : State :=
  setM { on st (fun t => { t with state := .halted }) with records := [{ ctx := 0, k := 0, block := 0x80000, note := n }] } [(0x84028, 8, a), (0x84038, 8, pc)]
theorem wit_SupervisorActions : let s := stHalt note1 3 0x10000
    s.context? 0 = some ctx0 ∧ s.awaiting 0 0 = some { ctx := 0, k := 0, block := 0x80000, note := note1 } ∧ note1.kind ≠ 3 ∧
    s.memberAway note1.target = false ∧ s.haltedThread note1.target = some s.cpu ∧ s.thread? s.cpu.id = some s.cpu ∧ s.cpu.isSluice = false ∧
    s.dwordAt (ctx0.supBlock + 0x4000 + 64 * (0 % 256) + 0x28) = 3 ∧ legalTarget (s.dwordAt (ctx0.supBlock + 0x4000 + 64 * (0 % 256) + 0x38)) = true ∧
    s.badAt (ctx0.supBlock + 0x4000 + 64 * (0 % 256) + 0x28) 8 = false ∧ s.badAt (ctx0.supBlock + 0x4000 + 64 * (0 % 256) + 0x38) 8 = false ∧
    legalTarget ((stHalt note1 3 0x10001).dwordAt (ctx0.supBlock + 0x4000 + 64 * (0 % 256) + 0x38)) = false ∧
    3 < ((stHalt note1 4 0).dwordAt (ctx0.supBlock + 0x4000 + 64 * (0 % 256) + 0x28)).toNat := by decide +kernel

/-- Gang 1: one member in slot 0 with its save record at VA 0x40000, and its task record at VA 0x20000. -/
def gang1 (st' : GangState) : Gang :=
  { id := 1, launch := 0, ctx := 0, tenant := 0, sup := true, task := 0x20000, graphno := 0, size := 1, nregs := 128, nvregs := 16, pin := false,
    save := 0x40000, home := 0, clusters := [0], state := st'
    members := [{ rank := 0, slot := 0, live := true, save := 0x40000, monctl := 0, relScope := none, seen := [], heard := [], flow := [], flumeFlow := [] }]
    faulters := [], counted := 0, completer := none, accrued := 5 }
/-- The gang spilled: no thread in a slot, its task record in place. -/
def stGone (x : GangState) (n : Note) (a : Nat) : State :=
  setM { st with cpu := Thread.free 0, others := [], gangs := [gang1 x], records := [{ ctx := 0, k := 0, block := 0x80000, note := n }] } (taskMem 0 ++ [(0x84028, 8, a)])
def note3 (t : Target) : Note := { note1 with kind := 3, cause := 0x16, target := t }
theorem wit_PlacementActions : let s := stGone .unplaceable (note3 (.gang 1)) 3
    s.context? 0 = some ctx0 ∧ s.awaiting 0 0 = some { ctx := 0, k := 0, block := 0x80000, note := note3 (.gang 1) } ∧
    (note3 (.gang 1)).kind = 3 ∧ s.gang? 1 = some (gang1 .unplaceable) ∧ (s.dwordAt (ctx0.supBlock + 0x4000 + 64 * (0 % 256) + 0x28)).toNat = 3 ∧
    ((stGone .unplaceable (note3 (.gang 1)) 4).dwordAt (ctx0.supBlock + 0x4000 + 64 * (0 % 256) + 0x28)).toNat = 4 ∧
    s.badAt (ctx0.supBlock + 0x4000 + 64 * (0 % 256) + 0x28) 8 = false ∧
    s.engineReach 0 0 0x20000 64 true true = some 0x10000 ∧ (s.taskRec 0x10000).nsucc = 0 ∧ s.hostFree 0x10038 8 = true := by decide +kernel
/-- An ACTION for a member whose gang is away. -/
theorem wit_SupervisorActions_away : let s := stGone .restore note1 1
    s.context? 0 = some ctx0 ∧ s.awaiting 0 0 = some { ctx := 0, k := 0, block := 0x80000, note := note1 } ∧
    s.badAt (ctx0.supBlock + 0x4000 + 64 * (0 % 256) + 0x28) 8 = false ∧ s.memberAway note1.target = true ∧
    s.dwordAt (ctx0.supBlock + 0x4000 + 64 * (0 % 256) + 0x28) ≠ 0 := by decide +kernel
/-- A queue entry of tenant 0 at cluster 0 for the task at VA 0x20000. -/
def entry0 (rep : Bool) : QEntry :=
  { cluster := 0, tenant := 0, ctx := 0, launch := 0, task := 0x20000, rootSup := false, resume := none, reported := rep, since := none, counted := 0 }
theorem wit_PlacementActions_task : let s := { stGone .running (note3 (.task 0 0 0x20000)) 1 with queues := [entry0 true] }
    first? (fun q => q.cluster == 0 && q.tenant == 0 && q.task.toNat == 0x20000 && q.reported) s.queues = some (entry0 true) ∧
    (s.dwordAt (ctx0.supBlock + 0x4000 + 64 * (0 % 256) + 0x28)).toNat = 1 := by decide +kernel
/-- Future entry 1023 completed, and refused; a gang waits for it, and a rill in its slot. -/
def stFut : State :=
  setM { stRill with cpu := { stRill.cpu with state := .parked, future := some 1023 }, gangs := [gang1 (.future 1023)] } [(0x8BFF0, 8, 3)]
theorem wit_Futures : stFut.context? 0 = some ctx0 ∧ 2 ≤ (stFut.dwordAt (ctx0.supBlock + 0x8000 + 16 * 1023)).toNat % 4 ∧
    stFut.gangs = [gang1 (.future 1023)] ∧ stFut.hostFree (ctx0.supBlock + 0x8000) 0x4000 = true ∧ (stFut.gangs.map Gang.id).Nodup ∧ ctx0.num = 0 ∧ stFut.cpu ∈ stFut.threads ∧ stFut.cpu.future = some 1023 ∧
    stFut.badAt (ctx0.supBlock + 0x8000 + 16 * 1023) 8 = false ∧ (gang1 (.future 1023)).ctx = 0 := by decide +kernel

/-- The gang in its slot. -/
def stGang : State := { on st (fun t => { t with size := 1, savearea := 0x40000, flume := [] }) with others := [], gangs := [gang1 .running] }
theorem wit_GangSpills : let s1 := stGang.stopGang 1
    stGang.gang? 1 = some (gang1 .running) ∧ (s1.membersOf 1).any s1.unsavable = false ∧ s1.membersOf 1 = [s1.cpu] ∧
    s1.savePages s1.cpu.die s1.cpu.ctx (saveVa s1.cpu.savearea s1.cpu.rank.toNat) false true = some { lo := 0x20000, hi := 0x24000 } ∧
    (0x20000 : Nat) + 0x4000 ≤ 0x24000 ∧ (gang1 .running).faulters = [] ∧ ((s1.membersOf 1).map Thread.id).Nodup ∧ stGang.dirs = [] := by decide +kernel
/-- GangSpills of a gang that met future entry 3. -/
theorem wit_GangSpills_future : ∃ f ∈ ({ gang1 .running with faulters := [(0, 0x20000, 3)] } : Gang).faulters, f.2.2 ≤ 1024 := by decide +kernel
/-- A member that is draining cannot be saved; one with no save area fails the check. -/
theorem wit_GangSpills_not : (let s := (on stGang fun t => { t with state := .draining }).stopGang 1; (s.membersOf 1).any s.unsavable = true) ∧
    (let s := (on stGang fun t => { t with savearea := 0x41000 }).stopGang 1
     s.savePages s.cpu.die s.cpu.ctx (saveVa s.cpu.savearea s.cpu.rank.toNat) false true = none) := by decide +kernel
theorem wit_GangRestores : (stGone .restore note1 0).gang? 1 = some (gang1 .restore) ∧ (gang1 .restore).state = .restore ∧
    ((stGone .restore note1 0).restoreGang (gang1 .restore) (0 :: (stGone .restore note1 0).partition 0)).isSome = true ∧
    (stGone .restore note1 0).membersOf 1 = [] ∧ ((gang1 .restore).members.map Member.rank).Nodup ∧
    (∀ m ∈ (gang1 .restore).members, m.live = true ∧ m.rank < 2016) := by decide +kernel
/-- The record of its member is good, and the last register and vector that the gang has. -/
theorem wit_GangRestores_record : let s := stGone .restore note1 0
    (match s.savePages 0 0 (saveVa 0x40000 0) true false with
    | some p => !s.badHeader p && !s.badAt (p.lo + 0x200 + 8 * 127) 1 && !s.badAt (p.lo + 0x600 + 64 * 15) 64
    | none => false) = true ∧ 127 < (gang1 .restore).nregs ∧ 15 < (gang1 .restore).nvregs := by decide +kernel
/-- The save area cannot be read, so no seats are found. -/
theorem wit_GangRestores_waits : let s := { stGone .restore note1 0 with tlb := [] }
    s.seatsOf (gang1 .restore) (gang1 .restore).members = none ∧ s.restoreGang (gang1 .restore) (0 :: s.partition 0) = none := by decide +kernel
/-- No cluster belongs to the partition any more: the gang never fits. -/
theorem wit_GangRestores_never : let s := { stGone .restore note1 0 with clupart := Vector.replicate 384 1 }
    s.restoreGang (gang1 .restore) (0 :: s.partition 0) = none ∧ ((s.seatsOf (gang1 .restore) (gang1 .restore).members).map List.length) = some 1 ∧
    (∀ ms ∈ s.seatsOf (gang1 .restore) (gang1 .restore).members, s.neverFits (gang1 .restore) ms = true) := by decide +kernel
theorem wit_ThreadLoads : let s := { on stGang (fun t => { t with state := .loading }) with gangs := [gang1 .loading] }
    s.thread? 0 = some s.cpu ∧ s.cpu.state = .loading ∧ s.gang? s.cpu.gang = some (gang1 .loading) ∧ s.loading 1 = false ∧
    ({ s with events := [.threadLoadComplete 0] } : State).loading 1 = true ∧ (gang1 .running).state ≠ .loading := by decide +kernel

/-- A draining thread that is the last of its gang: its task at VA 0x20000, with a successor list at 0x20200 naming 0x20100. -/
def stDrain (nsucc dep : Nat) : State :=
  setM { on stGang (fun t => { t with state := .draining, ended := true, lastSealed := true }) with gangs := [{ gang1 .running with completer := some 0 }] }
    (taskMem 0 ++ [(0x10018, 8, 0x20200), (0x10020, 4, nsucc), (0x10200, 8, 0x20100), (0x10124, 4, dep)])
theorem wit_DrainEnds : let s := stDrain 0 0
    s.thread? 0 = some s.cpu ∧ s.cpu.state = .draining ∧ s.drainWaits s.cpu = false ∧ s.cpu.held = none ∧ s.cpu.isRill = false ∧
    s.cpu.lastSealed = true ∧ s.cpu.batch.unfin = 0 ∧ (s.core s.cpu.coreId).fmt.holder ≠ some s.cpu.id ∧ s.dirs = [] ∧ s.cpu.counted = 0 ∧
    (∃ g ∈ s.gang? s.cpu.gang, g.completer = some 0 ∧ g.task = 0x20000) ∧ s.engineReach 0 0 0x20000 64 true true = some 0x10000 ∧
    (s.taskRec 0x10000).nsucc = 0 ∧ ({ s with events := [.rupdApply upd0] } : State).drainWaits s.cpu = true ∧
    (∀ g ∈ stGang.gang? 1, g.completer ≠ some 0) := by decide +kernel
/-- Its batch open, sealed and unfinished, and finished with a failure; its format context with a step to come. -/
theorem wit_DrainEnds_batch : let b : Batch := { Batch.empty with opened := 1 }
    stGang.cpu.lastSealed = false ∧ b.unfin < 64 ∧ batchFail (b.at b.sealedNo.toNat) = 0 ∧ batchFail (({ Batch.empty with ring := Batch.empty.ring.set 0 0x20 } : Batch).at 0) ≠ 0 ∧ b.sealOpen.unfin ≠ 0 ∧
    ({ Batch.empty with ring := Vector.replicate 64 1 } : Batch).unfin = 64 ∧
    ({ Batch.empty with ring := Batch.empty.ring.set 0 0x20, sealedNo := 1 } : Batch).failed 64 = some 0 ∧
    ({ Batch.empty with ring := Batch.empty.ring.set 0 0x20, sealedNo := 1 } : Batch).unfin = 0 := by decide +kernel
theorem wit_DrainEnds_successor : let s := stDrain 1 1
    (s.taskRec 0x10000).nsucc = 1 ∧ s.engineReach 0 0 (s.taskRec 0x10000).succ 8 true false = some 0x10200 ∧ 0x10200 % 64 = 0 ∧
    (s.dwordAt 0x10200).toNat % 64 = 0 ∧ s.engineReach 0 0 (s.dwordAt 0x10200) 64 true true = some 0x10100 ∧ (s.taskRec 0x10100).dep = 1 ∧
    (s.taskRec 0x10100).state % 4 = 0 ∧ 0 ∈ s.partition 0 ∧ (s.queued 0 0).length < 1024 ∧ ∃ k ∈ s.partition s.cpu.tenant, (s.queued k s.cpu.tenant).length < 1024 := by
  refine ⟨by decide, by decide, by decide, by decide, by decide, by decide, by decide, by decide, by decide, 0, by decide, by decide⟩
theorem wit_CoreScrubs : st.context? 0 = some ctx0 ∧ (3071 : Nat) < 3072 ∧ (st.core 3071).ctx ≠ some 0 ∧ st.coreEmpty 3071 = true := by decide +kernel

/-! Witnesses: replies, walks, rills, homes, the directory. -/

/-- A posted write on its way behind port A. -/
def stPosts : State := { st with portA := { HostPort.fresh with answers := false, posts := [(hostKey 0x30000, [1])] } }

theorem wit_Replies : let s := on st fun t => { t with state := .parked, reply := .waiting, held := some (.waitr ch 5), resv := some (7, 0x10000) }
    s.thread? 0 = some s.cpu ∧ s.cpu.reply = .waiting ∧ s.cpu.state = .parked ∧ s.cpu.held = some (.waitr ch 5) ∧ s.cpu.wake = .none ∧ s.portA.posts = [] ∧ s.portB.posts = [] := by decide +kernel
/-- A store of the thread, which waits for nothing, to peer 5 is on its way, and an update of it. -/
theorem wit_Replies_owed : let o (w : OwedWrite) : OwedStore := { slot := 0, note := note1, vol := false, va := 0x38000, peer := 5, what := w }
    let s (w : OwedWrite) : State := { st with owedStores := [o w] }
    ∀ w ∈ [.bytes (peerKey 5 0) [1], .update upd0], (s w).thread? 0 = some (s w).cpu ∧ (s w).cpu.reply.out = false ∧
      first? (fun o => o.slot == 0) (s w).owedStores = some (o w) := by decide +kernel
/-- The acknowledgement of a copy's destination is awaited; a posted write is on its way to the host. -/
theorem wit_Replies_ending : let s := on stXf fun t => { t with state := .stalled, reply := .ending false, held := some (.xfer ch 10 16) }
    s.thread? s.cpu.id = some s.cpu ∧ s.cpu.reply = .ending false ∧ stPosts.portA.posts ≠ [] ∧
    (on stPosts fun t => { t with reply := .waiting, awaits := some 5 }).cpu.awaits ≠ none := by decide +kernel
/-- A loss notice of the reservation that the thread holds. -/
theorem wit_Replies_loss : stResv.thread? 0 = some stResv.cpu ∧ stResv.cpu.resv = some (7, 0x10000) ∧ stResv.events = [] := by decide +kernel
/-- An LDAW that waits with no bound, and one whose bound of 1 cycle has passed. -/
theorem wit_Replies_limit : let s := on st fun t => { t with state := .parked, held := some (.ldaw ch 1 3 63 0 4), weirlim := 0 }
    let u := { on s (fun t => { t with weirlim := 1 }) with cores := [{ Core.fresh 0 with cycle := 5 }] }
    s.cpu.weirlim = 0 ∧ u.cpu.weirlim ≠ 0 ∧ u.cpu.since + u.cpu.weirlim.toNat ≤ u.cycleOf u.cpu := by decide +kernel
/-- Tables for VA 0 at 0x100000, 0x104000, 0x108000 and 0x10C000: a leaf of 16 KiB at PA 0x10000, with region entry 0. -/
def stWalk : State :=
  setM { st with contexts := [{ ctx0 with pageroot := 0x100000 }], tlb := [] }
    [(0x100000, 8, 0x41 * 2 ^ 26 + 1), (0x104000, 8, 0x42 * 2 ^ 26 + 1), (0x108000, 8, 0x43 * 2 ^ 26 + 1), (0x10C000, 8, 0x1000003F), (0, 8, 4)]
theorem wit_WalkCompletes :
    stWalk.thread? 0 = some stWalk.cpu ∧ (stWalk.contextD 0).pageroot.toNat / 2 ^ 14 % 2 ^ 38 * 2 ^ 14 = 0x100000 ∧
    (∀ a ∈ [0x100000, 0x104000, 0x108000, 0x10C000], a + 8 ≤ Config.deviceBytes ∧ stWalk.badAt a 8 = false ∧ (stWalk.dwordAt a).getLsbD 0 = true) ∧
    (∀ p ∈ [(0x100000, 0x104000), (0x104000, 0x108000), (0x108000, 0x10C000)], (stWalk.dwordAt p.1).getLsbD 1 = false ∧
      (stWalk.dwordAt p.1).toNat / 2 ^ 24 % 2 ^ 2 = 0 ∧ (stWalk.dwordAt p.1).toNat / 2 ^ 26 % 2 ^ 38 * 2 ^ 14 = p.2) ∧
    (stWalk.dwordAt 0x10C000).getLsbD 1 = true ∧ (stWalk.dwordAt 0x10C000).toNat / 2 ^ 13 % 2 ^ 5 = 0 ∧
    (stWalk.dwordAt 0x10C000).toNat / 2 ^ 24 % 2 ^ 2 = 0 ∧ (stWalk.dwordAt 0x10C000).toNat / 2 ^ 26 % 2 ^ 38 * 2 ^ 14 + 2 ^ 14 ≤ Config.deviceBytes ∧
    (stWalk.dwordAt 0x10C000).toNat / 2 ^ 18 % 2 ^ 6 = 0 ∧ stWalk.badAt 0 32 = false ∧ (0 : Word).toNat < 2 ^ 58 ∧ (stWalk.tlb.countP fun x => x.die == 0) < 16384 ∧ (∀ x ∈ stWalk.tlb, x.serves 0 0 0 = false) ∧
    stWalk.cpu.isRill = false ∧ (stWalk.core 0).micro.length ≤ 64 := by decide +kernel
theorem wit_RillsArrive : State.reset.freeRillSlot 383 = some (2 ^ 18 + 512 * 383) ∧
    ({ State.reset with others := (List.range 16).map fun j => { Thread.free (2 ^ 18 + j) with state := .ready } } : State).freeRillSlot 0 = none ∧
    stRill.thread? (2 ^ 18) = some stRill.cpu ∧ stRill.cpu.state ≠ .free ∧ stRill.cpu.isRill = true ∧ stRill.cpu.clusterId ≠ 1 ∧
    stRill.freeRillSlot 1 = some (2 ^ 18 + 512) ∧ stRill.others = [] ∧
    State.reset.mayServe (2 ^ 20 + 4096 + 0) (.rill 383) = true := by decide +kernel
theorem wit_RmwEvents : (stResv.resvs.filter fun r => r.slice == sliceOf 0x10000).length < 128 ∧
    (stResv.resvs.any fun r => r.holder == 0 && r.granule == 0x10008 / 64 * 64) = true ∧ stResv.hostFree 0x10008 16 = true ∧
    stResv.badAt 0x10008 16 = false ∧ ({ stResv with bad := [0x10000 / 32] } : State).badAt 0x10008 16 = true := by decide +kernel
/-- UpdateEvents: a bad check and a good one; a Q64 sum that saturates, the region entry apart. -/
theorem wit_UpdateEvents : ({ st with bad := [0x10000 / 32] } : State).badAt 0x10000 8 = true ∧ st.badAt 0x10000 8 = false ∧ st.hostFree 0x10000 8 = true ∧
    st.hostFree 1 1 = true ∧
    (q64Add (st.signedAt 0x10000) 0x7F800000 0).2 = true ∧ (0 : Nat) + 1 < 0x10000 ∧ (1 : BitVec 3).toNat ≤ 1 ∧
    (let s := hostLine 0x10000; s.badAt 0x10000 8 = false ∧ s.hostFree 0x10000 8 = false ∧ (s.dirs.map DirEntry.grain).Nodup) := by decide +kernel
/-- A stamp just older than the grain's, and equal to it. -/
theorem wit_StampedStoreEvents : let s := { st with stamps := [(0x14000, 5)] }
    ((4 : BitVec 32) - s.stampOf 0x14000 0).toInt < 0 ∧ 0 ≤ ((5 : BitVec 32) - s.stampOf 0x14000 0).toInt ∧ s.hostFree 0x14000 32 = true := by decide +kernel
def stMma : State :=
  on (stFmt 5 [] [0, 0x1FF00] [0x100, 0x200] [] []) fun t => { t with state := .stalled, held := some (.mma ch 1 2) }
theorem wit_MatrixAccepts : guardOn ch (stMma.focus 0).cpu.p = true ∧ (stMma.focus 0).cpu.coreId = 0 ∧ stMma.waitingMma 0 = some (0, .mma ch 1 2) ∧
    (stMma.core 0).fmt.cfg.getLsbD 4 = false ∧ (stMma.core 0).fmt.badTiles = [] ∧ (stMma.focus 0).stepsReady 2 = true := by decide +kernel
theorem wit_MatrixAccepts_holds : (stMma.focus 0).holdsFmt := ⟨by decide, by decide, by decide⟩
/-- The same waiting for a MMAT of columns 14 and 15 of tile 3, and for a sparse step. -/
theorem wit_MatrixAccepts_others :
    (let s := on stMma fun t => { t with held := some (.mmat ch 1 3 2 14) }
     s.waitingMma 0 = some (0, .mmat ch 1 3 2 14) ∧ (s.focus 0).queueReady 1 2 (slotLen 1) (s.core 0).q9 (s.core 0).f11 = true ∧
       (s.core 0).fmt.busy 3 = false ∧ (14 : BitVec 4).toNat + (2 : BitVec 5).toNat ≤ 32 / 2) ∧
    (let s := on (stFmt 26 [] [0] [0x400] [] []) fun t => { t with state := .stalled, held := some (.mmasp ch 1 1) }
     s.waitingMma 0 = some (0, .mmasp ch 1 1) ∧ (s.core 0).fmt.cfg.getLsbD 4 = true ∧ (s.focus 0).stepsReady 1 = true) := by decide +kernel
/-- A write with cluster 63 a sharer; the same while a transaction is in flight. -/
def dirOf (busy : Bool) : DirEntry :=
  { grain := 0x10000, size := 512, state := .shared, owner := none, sharers := 0x8000000000000000, seq := 9, busy := busy, hostA := false, hostB := false }
theorem wit_HomeRequests : let s := { st with dirs := [dirOf false] }
    (s.dirEntry 0x10000 512).busy = false ∧ s.mayServe (2 ^ 20 + 0) (.grain 0x10000 true) = true ∧ (dirOf false).sharers.getLsbD 63 = true ∧
    (s.dirEntry 0x10000 512).hostA = false ∧ (({ st with dirs := [dirOf true] } : State).dirEntry 0x10000 512).busy = true ∧
    st.mayServe (2 ^ 20 + 3071) (.grain 0x10000 false) = true ∧
    (({ st with dirs := [{ dirOf false with hostA := true }] } : State).dirEntry 0x10000 512).hostA = true := by decide +kernel
/-- A refused request whose timer runs. -/
theorem wit_HomeRequests_retry : let r : Refused := { slot := 2 ^ 20 + 3071, want := .grain 0x10000 true, count := 1, ticket := false }
    first? (fun r => r.slot == 2 ^ 20 + 3071 && r.want.same (.grain 0x10000 false)) ({ st with refused := [r] } : State).refused = some r ∧
    r.want = .grain 0x10000 true := by decide +kernel
theorem wit_FillsAndInvalidations :
    let f : PendFill := { core := 0, grain := 0x10000, size := 512, seq := 9, write := false }
    let i : Inval := { cluster := 0, grain := 0x10000, seq := 9 }
    let s := { st with fills := [f], invals := [i], lastInval := [i] }
    first? (fun x => x.core == 0 && x.grain == 0x10000) s.fills = some f ∧ first? (fun x => x.cluster == 0 && x.grain == 0x10000) s.invals = some i ∧
    ¬(1 ≤ (f.seq - i.seq).toNat ∧ (f.seq - i.seq).toNat ≤ 32767) ∧ 1 ≤ (f.seq - 8).toNat ∧
    (∀ x ∈ st.fills, x.grain ≠ 0x10000) ∧ (∀ x ∈ st.invals, x.grain ≠ 0x10000) ∧ st.events = [] ∧ s.waysLeft 0 (0x10000 / 512 % 16) 0 8 ≠ 0 ∧ st.lastInval = [] := by decide +kernel

/-! Witnesses: the Headgate, hosts, peers. -/

/-- A launch of the task at VA 0x20000 in slot 0: its root list at VA 0x20300. -/
def stLaunch (cfg : Word) (n dep ctxw : Nat) : State :=
  setM { st with cpu := Thread.free 0, others := [], tencfg := Vector.replicate 16 cfg }
    (taskMem dep ++ [(0, 8, ctxw), (8, 8, 0x20300), (0x10, 4, n), (0x7F, 1, 1), (0x10300, 8, 0x20000)])
theorem wit_LaunchParses : let s := stLaunch 0x21 1 0 0
    s.island.recovery = false ∧ (s.launch 0).running = false ∧ Memory.lookup s.mem 0x7F ≠ (s.launch 0).accepted ∧
    s.badAt 0x7F 1 = false ∧ s.badAt 0 0x14 = false ∧ ({ s with bad := [0] } : State).badAt 0 0x14 = true ∧ ({ s with bad := [0] } : State).badAt 0x7F 1 = false ∧
    s.context? ((s.dwordAt 0).extractLsb' 0 12).toNat = some ctx0 ∧ s.dwordAt 0 &&& ~~~0x1000F0FFF = 0 ∧ ctx0.closing = false ∧
    ctx0.tenant = ((s.dwordAt 0).extractLsb' 16 4).toNat ∧ (s.tenant 0).getLsbD 0 = true ∧ 0 ∈ s.partition 0 ∧ (s.dwordAt 0).getLsbD 32 = false ∧
    leNat (Memory.reads s.mem 0x10 4) = 1 ∧ (s.dwordAt 8).toNat % 8 = 0 ∧ s.roots 0 (s.dwordAt 8) (List.range 1) = some [(0x20000, 0x10000)] ∧
    (s.taskRec 0x10000).valid = true ∧ (s.taskRec 0x10000).sup = false ∧ (s.taskRec 0x10000).state % 4 = 0 ∧ (s.taskRec 0x10000).dep = 0 ∧
    s.dirs = [] ∧ (∀ k ∈ s.partition 0, (s.queued k 0).length + 1 ≤ 1024) := by decide +kernel
/-- The five failures: a context that does not exist, a tenant not enabled, a level it may not have, no roots, a root with DEP 1; and a
list that cannot be read. -/
theorem wit_LaunchParses_fails : (stLaunch 0x21 1 0 1).context? (((stLaunch 0x21 1 0 1).dwordAt 0).extractLsb' 0 12).toNat = none ∧
    ((stLaunch 0x20 1 0 0).tenant 0).getLsbD 0 = false ∧ ((stLaunch 0x21 1 0 0x100000000).dwordAt 0).getLsbD 32 = true ∧
    leNat (Memory.reads (stLaunch 0x21 0 0 0).mem 0x10 4) = 0 ∧ ((stLaunch 0x21 1 1 0).taskRec 0x10000).dep ≠ 0 ∧
    ({ stLaunch 0x21 1 0 0 with tlb := [] } : State).roots 0 ((stLaunch 0x21 1 0 0).dwordAt 8) (List.range 1) = none := by decide +kernel
/-- Launch 63 running: core 0 and the Headgate have sent `n` and 1, and the queues of cluster 0 have received 3. -/
def stSweep (n : Nat) (sweep : Option Nat) : State :=
  State.reset.modLaunch 63 fun l => { l with running := true, sent := [(0, n), (16384, 1)], received := [(12288, 3)], sweep := sweep }
/-- Every condition of the end met but for a posted write on its way. -/
theorem wit_LaunchSweeps_posts : let s := { stSweep 2 (some 3) with portA := stPosts.portA }
    (s.launch 63).running = true ∧ s.idleFor 63 = true ∧ (s.launch 63).sweep = some 3 ∧ s.portA.posts ≠ [] ∧ (∀ c ∈ s.contexts, c.closing = false) := by
  decide +kernel
theorem wit_LaunchSweeps : ((stSweep 2 (some 3)).launch 63).running = true ∧ (stSweep 2 (some 3)).idleFor 63 = true ∧
    (((stSweep 2 (some 3)).launch 63).sent.map Prod.snd).sum = (((stSweep 2 (some 3)).launch 63).received.map Prod.snd).sum ∧
    ((stSweep 2 (some 3)).launch 63).sweep = some 3 ∧ (stSweep 2 (some 3)).hostFree 0x1FC0 0x40 = true ∧ ((stSweep 2 none).launch 63).sweep = none ∧
    (((stSweep 3 none).launch 63).sent.map Prod.snd).sum ≠ (((stSweep 3 none).launch 63).received.map Prod.snd).sum := by decide +kernel
/-- The task queued at cluster 0 with a deficit of `d`, clusters 0 and 1 the tenant's partition. -/
def stQueue (d : Int) (rep : Bool) : State :=
  { stLaunch 0x21 1 0 0 with queues := [entry0 rep], deficits := [((0, 0), d)], clupart := ((Vector.replicate 384 1).set 0 0).set 1 0 }
theorem wit_Admissions : let s := stQueue 1 false
    s.heads 0 = [entry0 false] ∧ (entry0 false).resume = none ∧ s.engineReach 0 0 0x20000 64 true true = some 0x10000 ∧
    (s.taskRec 0x10000).valid = true ∧ s.cancelled 0 0 = false ∧ (s.taskRec 0x10000).graphno = 0 ∧ s.reportHead (entry0 false) = none ∧
    0 < s.deficit 0 0 ∧ s.spanFrom 0 0 (spanOf (s.taskRec 0x10000).size) = some [0] ∧ s.unreserved (entry0 false) [0] = true ∧ s.dirs = [] ∧
    (s.seatGang 0 [0] (launchSeats (entry0 false) (s.taskRec 0x10000) (s.taskSup (entry0 false) (s.taskRec 0x10000)) s.nextGang)).isSome = true ∧ (stQueue 0 false).deficit 0 0 ≤ 0 ∧
    ({ s with cancels := [{ tenant := 0, inst := 0, launch := 0 }] } : State).cancelled 0 0 = true ∧ (s.taskRec 0x10000).nsucc = 0 := by decide +kernel
theorem wit_Charges : stGang.gang? 1 = some (gang1 .running) := by decide +kernel
/-- A head that cannot be admitted: its task record cannot be reached. -/
theorem wit_Charges_reservation : let q := { entry0 false with since := some 0 }
    let s := { stQueue 1 false with tlb := [], queues := [q] }
    s.head 0 0 = some q ∧ s.holds = [] ∧ s.admitTask 0 q = none ∧ q.reported = false ∧ s.now < 0 + 65536 ∧
    0 + 65536 ≤ ({ s with cores := [{ Core.fresh 0 with cycle := 65536 }] } : State).now ∧ (stQueue 1 false).queuedRec (entry0 false) ≠ none := by decide +kernel
theorem wit_Charges_steal : let s := stQueue 1 false
    s.holds = [] ∧ s.heads 1 = [] ∧ s.victims 1 = [0] ∧ tenPart (s.tenant 0) = s.partOf 1 ∧ s.head 0 0 = some (entry0 false) ∧
    (∀ r ∈ s.queuedRec (entry0 false), s.cancelled 0 r.graphno = false) ∧ (s.admitTask 1 (entry0 false)).isSome = true ∧ s.dirs = [] ∧
    (∀ n, n < (entry0 false).tenant → s.head 0 n = none) := by decide +kernel
theorem wit_HostEvents : (st.port .a).up = true ∧ st.island.recovery = false ∧ (st.port .a).posts = [] ∧ (st.port .a).pcie = false ∧ (st.port .a).hdmBase + 0x10000 + 8 ≤ Config.deviceBytes ∧
    st.badAt ((st.port .a).hdmBase + 0x10000) 8 = false ∧
    (let s := { st with portB := { HostPort.fresh with pcie := true } }; (s.port .b).pcie = true ∧ s.island.lwin + 0x1FF8 + 8 ≤ Config.deviceBytes ∧
      (0x1FF8 + 8 ≤ 0x2000) ∧ s.badAt (s.island.lwin + 0x1FF8) 8 = false ∧ s.island.lwin < 2 ^ 64) ∧
    ({ st with portB := { HostPort.fresh with up := false } } : State).port .b = { HostPort.fresh with up := false } := by decide +kernel
/-- Peer 5 may read and write context 0's plain page. -/
def stPeer : State :=
  { st with peers := [{ num := 5, inc := 1, up := true, answers := true }], exports := [{ peer := 5, inc := 1, ctx := 0, tables := 0, lo := 0x20000, hi := 0x24000, rd := true, wr := true }] }
theorem wit_PeerEvents : (stPeer.peer 5).inc = 1 ∧ stPeer.selfInc = 0 ∧
    (∃ e ∈ stPeer.exports, e.peer = 5 ∧ e.inc = 1 ∧ e.ctx = 0 ∧ e.lo ≤ 0x23FF8 ∧ 0x23FF8 + 8 ≤ e.hi ∧ e.rd = true ∧ e.wr = true) ∧
    (∀ e ∈ stPeer.exports, ¬(e.lo ≤ 0x23FF8 ∧ 0x23FF8 + 16 ≤ e.hi)) ∧ stPeer.engineReach 0 0 (BitVec.ofNat 64 0x23FF8) 0 true true = some 0x13FF8 ∧
    stPeer.badAt 0x13FF8 8 = false ∧ stPeer.hostFree 0x13FF8 8 = true ∧ stPeer.island.recovery = false ∧ (stPeer.peer 6).inc ≠ 1 ∧ st.thread? 0 = some thr := by decide +kernel
/-- Thread 0 waits for peer 5, whose answer is on its way; and one for an own access to the host. -/
theorem wit_PeerEvents_replies : let s := { on stPeer (fun t => { t with reply := .waiting, awaits := some 5 }) with events := [.accessReply 0 .ok] }
    let u := { on s fun t => { t with awaits := none } with selfNum := 0 }
    s.dueReplies 0 = [some 5] ∧ s.events.countP (repliesTo 0) ≤ (s.dueReplies 0).length ∧ Instr.accessReply 0 .ok ∈ s.events ∧
    u.dueReplies 0 = [none] ∧ some 5 ∉ u.dueReplies 0 ∧ Instr.accessReply 0 .ok ∈ u.events := by decide +kernel
theorem wit_PeerEvents_update : Instr.mcstAnswer 0 [5] [] ∈ ({ stPeer with events := [.mcstAnswer 0 [5] []] } : State).events ∧
    (5 : BitVec 12).toNat ∈ [5] ∧ (2 : BitVec 8) ≠ (stPeer.peer 5).inc := by decide +kernel

/-- Every queue of the partition full. -/
theorem wit_LaunchParses_full : let s := { stLaunch 0x21 1 0 0 with queues := List.replicate 1024 (entry0 false), clupart := (Vector.replicate 384 1).set 0 0 }
    s.partition 0 = [0] ∧ 1024 ≤ (s.queued 0 0).length := by decide +kernel

/-! Witnesses: upkeep, contexts, the machine as a whole. -/

/-- SelfTests: a core's register row in use and one not. -/
theorem wit_SelfTests : st.hostless ∧ (TestUnit.row 0 0 ∉ st.retired ∧ TestUnit.row 0 0 ∉ st.failing) ∧
    TestUnit.row 0 0 ∈ ({ st with failing := [.row 0 0] } : State).failing ∧ (∀ k, TestUnit.row 0 0 ≠ .core k) ∧ st.unitInUse (.row 0 0) = true ∧ st.unitInUse (.row 3071 0) = false :=
  ⟨by unfold State.hostless; decide, by decide, by decide, fun _ h => (nomatch h), by decide, by decide⟩
/-- A thread of a core that has failed, Stalled and Ready. -/
theorem wit_SelfTests_halting : let s := { st with halting := [0] }
    s.halting = [s.cpu.id] ∧ s.thread? s.cpu.id = some s.cpu ∧ s.cpu.state = .ready ∧ s.cpu.isSluice = false ∧
    (on s fun t => { t with state := .stalled }).cpu.state = .stalled := by decide +kernel
/-- A bank that has a spare row left, and one that has used all of them. -/
theorem wit_SelfTests_spare : let n := assocD 0 (0, 0) st.island.spares
    n ≤ Config.furtherSpareRows 0 ∧ ¬(Config.furtherSpareRows 0 + 1 ≤ Config.furtherSpareRows 0) :=
  ⟨Nat.zero_le _, Nat.not_succ_le_self _⟩
/-- The host holds no copy, and the log has no ring. -/
theorem wit_Measurements : st.island.ringSize = 0 ∧ st.hostFree 0 64 = true ∧ st.hostless ∧ (5 : Nat) < 6 ∧ (7 : Nat) < 8 :=
  ⟨by decide, by decide, by unfold State.hostless; decide, by decide, by decide⟩
/-- The host holds a copy of the ring's place. -/
theorem wit_Measurements_host : let s := { hostLine 0x10000 with island := { Island.fresh with ringBase := 0x10000, ringSize := 4 } }
    s.island.ringSize ≠ 0 ∧ s.hostFree (s.island.ringBase + 64 * (s.island.seq.toNat % s.island.ringSize)) 64 = false ∧
    (s.dirs.map DirEntry.grain).Nodup := by decide
/-- A control-page request with OP `op` in slot 31: to create a context, or for context 0. -/
def stCtl (op : Nat) (c : List Context) : State :=
  setM { State.reset with island := { Island.fresh with booted := true }, contexts := c, tencfg := Vector.replicate 16 0x21 }
    [(0x3F80, 8, op), (0x3FFF, 1, 1)]
theorem wit_Attestations : st.hostless ∧ (stCtl 1 []).island.booted = true ∧ (stCtl 1 []).hostless ∧ (stCtl 1 []).island.ringSize = 0 :=
  ⟨by unfold State.hostless; decide, by decide, by unfold State.hostless; decide, by decide⟩
theorem wit_ContextCreates : let s := stCtl 1 []
    s.island.recovery = false ∧ s.island.booted = true ∧ s.island.ctrl + 128 * 31 = 0x3F80 ∧ Memory.lookup s.mem 0x3FFF ≠ s.accepted 31 ∧
    s.badAt 0x3F80 0x40 = false ∧ s.badAt 0x3FFF 1 = false ∧ s.dwordAt 0x3F80 = 1 ∧ s.createOk 31 = true ∧ s.dirs = [] ∧ s.context? 0 = none ∧ (stCtl 3 []).dwordAt 0x3F80 ≠ 1 ∧ (stCtl 3 []).dwordAt 0x3F80 ≠ 2 := by decide
/-- Every context number taken. -/
theorem wit_ContextCreates_full (l : List Nat) (n : Nat) (hn : n ∈ l) :
    (stCtl 1 (l.map fun n => { ctx0 with num := n })).context? n ≠ none := by
  simp only [State.context?, stCtl, setM]
  induction l with
  | nil => cases hn
  | cons x xs ih =>
    by_cases hx : x = n
    · simp [first?, hx]
    · have : n ∈ xs := by cases hn with
        | head => exact absurd rfl hx
        | tail _ h => exact h
      simpa [first?, hx] using ih this
theorem wit_ContextReleases : let s := stCtl 2 [ctx0]
    s.island.recovery = false ∧ s.island.booted = true ∧ Memory.lookup s.mem 0x3FFF ≠ s.accepted 31 ∧ (∀ c ∈ s.contexts, c.closing = false) ∧
    s.badAt 0x3F80 0x40 = false ∧ s.badAt 0x3FFF 1 = false ∧ s.dwordAt 0x3F80 = 2 ∧ s.dwordAt 0x3F88 &&& ~~~0xFFF = 0 ∧ (s.dwordAt 0x3FB8).toNat ≤ 65536 ∧
    (s.dwordAt 0x3FB0).toNat + 16 * (s.dwordAt 0x3FB8).toNat ≤ Config.deviceBytes ∧ s.context? 0 = some ctx0 ∧ (stCtl 2 []).context? 0 = none ∧ s.dirs = [] := by
  decide
/-- The same accepted, before and after its scrubs. -/
theorem wit_ContextReleases_phases : let c := { ctx0 with closing := true, releaser := 31, frames := 0x20000, nframes := 1 }
    let s := setM (stCtl 2 [c]) [(0x20000, 8, 0x40000), (0x20008, 8, 2)]
    s.releasing 31 = some c ∧ s.context? c.num = some c ∧ s.copying 0 = false ∧ s.scrubPending 0 = false ∧
    s.island.ringSize = 0 ∧ s.portA.posts = [] ∧ s.portB.posts = [] ∧ s.island.lwin + 0x2000 ≤ c.frames ∧ s.badAt 0x20000 16 = false ∧ (s.dwordAt 0x20000).toNat = 0x40000 := by decide
/-- Scrubbed, with a scrub still to be logged; and a copy of the context that runs. -/
theorem wit_ContextReleases_waits : let c := { ctx0 with closing := true, scrubbing := true, releaser := 31 }
    let s := { stCtl 2 [c] with events := [.scrubComplete 0 2 0] }
    s.releasing 31 = some c ∧ s.context? c.num = some c ∧ s.scrubPending 0 = true ∧
    ({ stXf with cores := stXf.cores.map fun k => { k with ctx := some 0 } } : State).copying 0 = true := by decide +kernel
theorem wit_ManagementWrites : (383 : Nat) < 384 ∧ (15 : Nat) < 16 ∧ (5 : Nat) < 6 ∧ st.island.booted = false ∧ (stCtl 1 []).island.booted = true ∧
    0x1FFFFFE000 % 0x2000 = 0 ∧ 0x1FFFFFE000 + 0x2000 ≤ 2 ^ 37 ∧ 0x1FFFFFF000 % 0x1000 = 0 ∧ 0x1FFFFFF000 + 0x1000 ≤ 2 ^ 37 := by decide
/-- The thread at 0x20000 with ADDI g5, #1 there and the turn of its core. -/
def stRun : State := setM { on st (fun t => { t with pc := 0x20000 }) with picks := [.core 0] } [(0x10000, 2, 0x18A1)]
def addi1 : Instr := .addi ch 5 1
/-- The state in which the thread's turn comes. -/
def turn0 (s : State) : Option (Thread × State) :=
  match s.nextMove with
  | some (.core 0, s1) => (s1.nextThread 0).map fun t => (t, s1.turnOf 0 t)
  | _ => none
theorem wit_StepRunsDecoded : (match turn0 stRun with
    | some (t, u) => decide (t.id = 0) && decide (u.cpu.nomap = none) && (match fetch u.anew with | .ok i _ => decide (i = addi1) | _ => false)
    | none => false) = true := by decide
/-- The same with a chain that is malformed, and with no thread. -/
theorem wit_StepRunsDecoded_illegal :
    (match turn0 { setM stRun [(0x10000, 2, 0xF801), (0x10002, 2, 0x7C00)] with cores := [{ Core.fresh 0 with
        icache := [{ key := 0x10000, data := [0x01, 0xF8, 0x00, 0x7C] ++ List.replicate 508 0, valid := 1, bad := [] }] }] } with
      | some (_, u) => (match fetch u.anew with | .illegal e _ => decide (e.pos = 1) | _ => false)
      | none => false) = true ∧
    (match ({ State.reset with picks := [.core 0] } : State).nextMove with
      | some (.core 0, s1) => (s1.nextThread 0).isNone
      | _ => false) = true := by decide
/-- The first event is picked: one that needs memory, with and without a bank under test, and one that does not. -/
theorem wit_StepRunsDecoded_event : let s (e : Instr) : State := { st with events := [e], picks := [.event 0] }
    let v (s : State) : State := { s with events := s.events ++ [.selfTestVerdict (.bank 0 0) true] }
    let is (s : State) (e : Instr) (b : Bool) : Bool := match s.nextMove with | some (.event x, s1) => decide (x = e) && (s1.memTested == b) | _ => false
    is (s (.rupdApply upd0)) (.rupdApply upd0) false = true ∧ is (v (s (.rupdApply upd0))) (.rupdApply upd0) true = true ∧
    needsMemory (.rupdApply upd0) = true ∧ needsMemory (.linkDown .a) = false ∧ is (s (.linkDown .a)) (.linkDown .a) false = true := by decide +kernel
theorem wit_FetchReadsEncoding : let e := (xl 0 0x20000).entry
    let w : Walker := { stRun.cpu.walker with fetch := true }
    stRun.cpu.pc.getLsbD 0 = false ∧ stRun.instrTested stRun.cpu.agent (e.physical stRun.cpu.pc.toNat) = false ∧
    WellFormed addi1 = true ∧ stRun.cpu.isSluice = false ∧ encode addi1 = [0x18A1] ∧ stRun.cpu.pc.toNat < 2 ^ 58 ∧ inAperture stRun.cpu.pc = false ∧
    lookup stRun w stRun.cpu.pc.toNat = .leaf e ∧ tlbFind stRun w stRun.cpu.pc.toNat = some e ∧ e.exec = true ∧ stRun.cpu.sup = true ∧
    stRun.walkWaits w = false ∧ stRun.owedAt (e.physical stRun.cpu.pc.toNat) 2 = false ∧ e.invalid = false ∧ e.home = 0 ∧ stRun.badAt (e.physical stRun.cpu.pc.toNat) 2 = false ∧
    stRun.testing (e.physical stRun.cpu.pc.toNat) 2 = false ∧ (stRun.core stRun.cpu.coreId).iline? (e.physical stRun.cpu.pc.toNat) = none ∧
    halfOfBytes (Memory.lookup stRun.mem (e.physical stRun.cpu.pc.toNat)) (Memory.lookup stRun.mem (e.physical stRun.cpu.pc.toNat + 1)) = 0x18A1 := by
  decide
/-- The same with the translation in the micro-TLB and a line of the instruction cache that agrees with memory. -/
def stRunI : State :=
  { stRun with cores := [{ Core.fresh 0 with
      microI := [(xl 0 0x20000).entry], icache := [{ key := 0x10000, data := [0xA1, 0x18] ++ List.replicate 510 0, valid := 1, bad := [] }] }] }
theorem wit_FetchReadsEncoding_cached : let e := (xl 0 0x20000).entry
    let w : Walker := { stRunI.cpu.walker with fetch := true }
    tlbFind stRunI w stRunI.cpu.pc.toNat = some e ∧ (stRunI.core stRunI.cpu.coreId).iline? (e.physical stRunI.cpu.pc.toNat) =
      some { key := 0x10000, data := [0xA1, 0x18] ++ List.replicate 510 0, valid := 1, bad := [] } ∧ halfOfBytes 0xA1 0x18 = 0x18A1 ∧
    ([0xA1, 0x18] ++ List.replicate 510 0 : List Byte).length = 512 ∧ stRunI.cpu.agent = stRunI.cpu.coreId := by decide
theorem wit_FetchReadsEncoding_same : let w : Walker := { stRunI.cpu.walker with fetch := true }
    stRunI.cacheLeaf w (xl 0 0x20000).entry = { stRunI with used := (stRunI.cacheLeaf w (xl 0 0x20000).entry).used } := by rfl
theorem wit_DecodeEncode : WellFormed (.std { ch with guard := 3, hasXQ := true, nxi := 2 } 9 6 0x1000 ⟨.ordered, .device⟩) = true := by decide
theorem wit_EncodeDecode : decode [0xF785, 0x1086, 0x0400] = .ok (.add chXR 100 70 5) [0x0400] := by rfl
theorem wit_MemoryKept : stRun.memOk ∧ (match step stRun with | .next _ => true | _ => false) = true := ⟨by unfold State.memOk; decide, by decide⟩
theorem wit_P0Kept : stRun.p0Ok := ⟨by unfold Thread.p0Ok; decide, by intro t h; rcases h with _ | ⟨_, h⟩ <;> first | (unfold Thread.p0Ok; decide) | skip
                                                                      rcases h with _ | ⟨_, h⟩ <;> first | (unfold Thread.p0Ok; decide) | cases h⟩
theorem wit_ContextCreates_all : ∀ n, n < 4096 → (stCtl 1 ((List.range 4096).map fun n => { ctx0 with num := n })).context? n ≠ none :=
  fun n hn => wit_ContextCreates_full _ n (List.mem_range.mpr hn)

/-! Ill-formed terms, one for each check of WellFormed, beside a well-formed neighbour. -/

def chXQ : Chain := { ch with hasXQ := true }
theorem test_wf_chain : -- a guard without XQ; five prefixes; g32 without XR; c without XR; M without XQ; an immediate too wide
    WellFormed (.nop chOff) = false ∧ WellFormed (.fadd { ch with hasXR := true, hasXQ := true, nxi := 0 } 1 2 3) = true ∧
    WellFormed (.vld { ch with hasXR := true, hasXQ := true, nxi := 2 } 1 2 0 ⟨.plain, .core⟩) = false ∧
    WellFormed (.vld { ch with hasXR := true, hasXQ := true, nxi := 1 } 1 2 0 ⟨.plain, .core⟩) = true ∧
    WellFormed (.mov ch 32 1) = false ∧ WellFormed (.mov chXR 32 1) = true ∧ WellFormed (.add ch 1 2 3) = false ∧
    WellFormed (.ceq ch 1 2 3) = false ∧ WellFormed (.ceq chXQ 1 2 3) = true ∧ WellFormed (.movi ch 1 16) = false ∧
    WellFormed (.movi ch 1 (-16)) = true ∧ WellFormed (.andi ch 1 32) = false ∧ WellFormed (.andi ch 1 31) = true := by decide
theorem test_wf_entries : -- limits of single entries
    WellFormed (.nop chXR) = false ∧ WellFormed (.add { ch with nxi := 1 } 1 2 0) = false ∧ WellFormed (.shli { ch with nxi := 1 } 2 64) = false ∧
    WellFormed (.loop ch 0 (-1)) = false ∧ WellFormed (.ldb chXQ 1 2 0 ⟨.plain, .device⟩) = false ∧ WellFormed (.sextH ch 1 2) = false ∧
    WellFormed (.mts ch 1 11) = false ∧ WellFormed (.mts ch 1 0) = true ∧ WellFormed (.fenceIfetch chXQ .system) = false ∧
    WellFormed (.ffma ch 1 2 0) = false ∧ WellFormed (.vfma ch 1 2 0) = false ∧ WellFormed (.ldaw chXR 2 6 2 0 0) = false ∧
    WellFormed (.itadv ch 0) = false ∧ WellFormed (.dmode ch 3) = false ∧ WellFormed (.casx chXR 11 7 12 0 ⟨.plain, .core⟩) = false ∧
    WellFormed (.casx chXR 10 7 0 0 ⟨.plain, .core⟩) = false ∧ WellFormed (.rupdMin { chXR with hasXQ := true } 5 7 0 ⟨.volatile, .core⟩) = false := by
  decide
theorem test_wf_engines :
    WellFormed (.pfs chXR 123 0 false) = false ∧ WellFormed (.cwait ch 2 0) = false ∧ WellFormed (.fmtset ch 1) = false ∧
    WellFormed (.mma ch 1 17) = false ∧ WellFormed (.tld ch 1 2 0 0) = false ∧ WellFormed (.rgrow ch 1 1 2 0) = false ∧
    WellFormed (.cbpush chXR 1 2 63) = false ∧ WellFormed (.cbnext ch 0) = false ∧ WellFormed (.mcst chXR 13 6 7 0 false) = false ∧
    WellFormed (.eretNext ch) = false ∧ WellFormed .coldReset = false := by decide

/-- A malformed chain is refused at the halfword that R40 names; a chain that is cut off needs more. -/
theorem test_decode_rejects : (match decode [0xF801, 0x7C00] with | .illegal e => decide (e.pos = 1) && decide (e.half = 0x7C00) | _ => false) = true ∧
    (match decode [0xF805, 0x3C01] with | .illegal e => decide (e.pos = 0) | _ => false) = true ∧
    (match decode [0xFC40] with | .short => true | _ => false) = true := by decide
theorem test_encode : encode (.ldaw { chXQ with hasXR := true } 1 6 2 0 2) = [0xF802, 0xF402, 0xFC02, 0x0026] ∧
    encode (.ldh { ch with hasXR := true, nxi := 1 } 100 3 (-2) ⟨.plain, .core⟩) = [0xF700, 0xF3FE, 0xB483] := by decide

/-! Single steps. Expected values are worked out from the rules named. -/

/-- The thread with these registers. -/
def withG (l : List (Nat × Word)) : State := on st fun t => { t with g := regs l }
/-- Register `n` after the instruction. -/
def gAfter (i : Instr) (s : State) (n : Nat) : Word := match exec i s with | .next t => t.cpu.reg n | _ => 0xBAD
def pAfter (i : Instr) (s : State) : BitVec 16 := match exec i s with | .next t => t.cpu.p | _ => 0
def pcAfter (i : Instr) (s : State) : Word := match exec i s with | .next t => t.cpu.pc | _ => 0xBAD
def flagsAfter (i : Instr) (s : State) : BitVec 7 := match exec i s with | .next t => t.cpu.fpcsr | _ => 0x7F
/-- The cause and TRAPVAL of the record of a trap that halts the thread. -/
def trapOf (i : Instr) (s : State) : Option (BitVec 8 × Word) :=
  match exec i s with | .next t => (match t.events with | [.notificationRecord n] => some (n.cause, n.trapval) | _ => none) | _ => none

def wA : State := withG [(1, 0xFFFFFFFFFFFFFFFF), (2, 1), (3, 0x8000000000000000), (4, 7), (5, 0xFFFFFFFFFFFFFFFD)]
theorem test_add_wraps : gAfter (.add ch 1 2 0) wA 1 = 0 := by decide
theorem test_sub_order : gAfter (.sub chXR 6 2 4) wA 6 = 0xFFFFFFFFFFFFFFFA := by decide
/-- R79: -3 / 7 = 0 rest -3; 7 / -3 = -2 rest 1; by zero -1 and the dividend; -2^63 / -1 wraps. -/
theorem test_div : gAfter (.div chXR 6 5 4) wA 6 = 0 ∧ gAfter (.div chXR 6 4 5) wA 6 = 0xFFFFFFFFFFFFFFFE ∧
    gAfter (.div chXR 6 4 0) wA 6 = 0xFFFFFFFFFFFFFFFF ∧ gAfter (.div chXR 6 3 1) wA 6 = 0x8000000000000000 := by decide
theorem test_rem : gAfter (.rem chXR 6 5 4) wA 6 = 0xFFFFFFFFFFFFFFFD ∧ gAfter (.rem chXR 6 4 5) wA 6 = 1 ∧ gAfter (.rem chXR 6 4 0) wA 6 = 7 ∧
    gAfter (.rem chXR 6 3 1) wA 6 = 0 := by decide
/-- The high half of (-1) × (-2^63) = 2^63 is 0; unsigned, (2^64 - 1) × 2^63 has the high half 2^63 - 1. -/
theorem test_mulh : gAfter (.mulh chXR 6 1 3) wA 6 = 0 ∧ gAfter (.mulhu chXR 6 1 3) wA 6 = 0x7FFFFFFFFFFFFFFF := by decide
/-- R80: an amount of 65 shifts by 1. -/
theorem test_shift_amount : gAfter (.shl ch 2 4 0) (withG [(2, 1), (4, 65)]) 2 = 2 ∧ gAfter (.sar ch 3 4 0) (withG [(3, 0x8000000000000000), (4, 63)]) 3 = 0xFFFFFFFFFFFFFFFF := by
  decide
theorem test_min_signed : gAfter (.min chXR 6 1 2) wA 6 = 0xFFFFFFFFFFFFFFFF ∧ gAfter (.max chXR 6 1 2) wA 6 = 1 := by decide
theorem test_clz_popc : gAfter (.clz ch 6 0) wA 6 = 64 ∧ gAfter (.clz ch 6 4) wA 6 = 61 ∧ gAfter (.popc ch 6 4) wA 6 = 3 := by decide
theorem test_sext : gAfter (.sextB ch 6 2) (withG [(2, 0x80)]) 6 = 0xFFFFFFFFFFFFFF80 ∧ gAfter (.sextW ch 6 2) (withG [(2, 0x17FFFFFFF)]) 6 = 0x7FFFFFFF := by
  decide
/-- R81: -1 < 1 signed, not unsigned; destination p0 goes to p1; with M[4] a 0 stays 0. -/
theorem test_compare : pAfter (.clt ch 1 2 0) wA = 3 ∧ pAfter (.cltu chXQ 1 2 0) wA = 1 ∧ pAfter (.ceq chXQ 2 2 0x15) wA = 1 := by decide
theorem test_predicates : gAfter (.prd ch 6) (on wA fun t => { t with p := 0x8001 }) 6 = 0x8001 ∧ pAfter (.pwr ch 4) (on wA fun t => { t with g := regs [(4, 0x10004)] }) = 5 := by
  decide
/-- R84, R86, R87: offsets count halfwords from the chain; BL with a prefix links pc + 4; a counter of 1 falls through. -/
theorem test_branches : pcAfter (.br ch (-4)) wA = 0xFFF8 ∧ pcAfter (.bl { ch with nxi := 1 } 15 16) wA = 0x10020 ∧
    gAfter (.bl { ch with nxi := 1 } 15 16) wA 15 = 0x10004 ∧ pcAfter (.loop ch 2 (-1)) wA = 0x10002 ∧ gAfter (.loop ch 2 (-1)) wA 2 = 0 ∧
    pcAfter (.loop ch 4 (-1)) wA = 0xFFFE := by decide
/-- R58, R65: a register at the allotment, and g127 as a source, trap REGRANGE with its number. -/
theorem test_regrange : trapOf (.mov chXR 1 24) (on st fun t => { t with nregs := 24 }) = some (0x02, 24) ∧ trapOf (.mov chXR 1 127) st = some (0x02, 127) := by
  decide
theorem test_false_guard : pcAfter (.add { chOff with hasXQ := true } 1 2 0) wA = 0x10004 ∧ gAfter (.add { chOff with hasXQ := true } 1 2 0) wA 1 = 0xFFFFFFFFFFFFFFFF := by
  decide
/-- R161: lowest byte first; loads zero-extend; R160: ALIGN before anything else. -/
theorem test_load_store : let s := setM st [(0x10008, 8, 0x8877665544332211)]
    gAfter (.ldb { ch with nxi := 1 } 1 2 15 mm) s 1 = 0x88 ∧ gAfter (.ldw { ch with nxi := 1 } 1 2 12 mm) s 1 = 0x88776655 ∧
    trapOf (.ldd { ch with nxi := 1 } 1 2 4 mm) s = some (0x04, 0x20004) ∧
    (match exec (.sth { ch with nxi := 1 } 5 2 14 mm) s with | .next t => decide (Memory.reads t.mem 0x1000C 4 = [0x55, 0x66, 7, 0]) | _ => false) = true := by
  decide
/-- R163: a plain load of an aged page traps REGION. -/
theorem test_region_trap : trapOf (.ldw ch 1 3 0 mm) st = some (0x07, 0x24000) := by decide
/-- R72, R75: SLOTID, and the reserved number 20. -/
theorem test_special : gAfter (.mfs ch 6 11) st 6 = 0 ∧ gAfter (.mfs ch 6 16) st 6 = 0x10402020 ∧ gAfter (.mfs ch 6 20) st 6 = 0 := by decide
/-- R126, R127 with the spec's values: 2^24 + 1 to 0x4B800000 with NX; -1.5 to -2, and -1 toward zero, both with NX. -/
theorem test_conversions : gAfter (.icvtf ch 6 2) (withG [(2, 0x1000001)]) 6 = 0x4B800000 ∧ flagsAfter (.icvtf ch 6 2) (withG [(2, 0x1000001)]) = 4 ∧
    gAfter (.fcvti ch 6 2) (withG [(2, 0xBFC00000)]) 6 = 0xFFFFFFFFFFFFFFFE ∧ gAfter (.fcvtiRz chXQ 6 2) (withG [(2, 0xBFC00000)]) 6 = 0xFFFFFFFFFFFFFFFF ∧
    flagsAfter (.fcvtiRz chXQ 6 2) (withG [(2, 0xBFC00000)]) = 4 := by decide
/-- 1.5 + 2.25 = 3.75; 1 / 3 rounds to 0x3EAAAAAB; 3 × 3 + 1 = 10. -/
theorem test_float : gAfter (.fadd ch 6 2 0) (withG [(6, 0x3FC00000), (2, 0x40100000)]) 6 = 0x40700000 ∧
    gAfter (.fdiv ch 6 2 0) (withG [(6, 0x3F800000), (2, 0x40400000)]) 6 = 0x3EAAAAAB ∧
    gAfter (.ffma chXR 6 2 2) (withG [(6, 0x3F800000), (2, 0x40400000)]) 6 = 0x41200000 := by decide
/-- R133 with the spec's values: 0x3F818000 to BF16 0x3F82; 4.4 to DL8 0x4C with NX; DL8 0xCC to 0xC08C0000. -/
theorem test_vcvt : (toBF16 0x3F818000).1 = 0x3F82 ∧ (toDL8 0x408CCCCD 0x3F800000).1 = 0x4C ∧ (toDL8 0x408CCCCD 0x3F800000).2.getLsbD 0 = true ∧
    ofDL8 0xCC = 0xC08C0000 := by decide
/-- R288: AADD adds and gives the old value; R289: a CAS that fails writes nothing. -/
theorem test_atomics : let s := setM st [(0x10008, 8, 0xFFFFFFFFFFFFFFFF)]
    gAfter (.aadd { chXR with nxi := 1 } 5 2 6 8 mm) s 6 = 0xFFFFFFFFFFFFFFFF ∧
    (match exec (.aadd { chXR with nxi := 1 } 5 2 6 8 mm) s with | .next t => decide (t.dwordAt 0x10008 = 6) | _ => false) = true ∧
    (match exec (.cas { chXR with nxi := 1 } 5 2 6 8 mm) s with | .next t => decide (t.dwordAt 0x10008 = 0xFFFFFFFFFFFFFFFF) && decide (t.cpu.reg 6 = 0xFFFFFFFFFFFFFFFF) | _ => false) = true := by
  decide
/-- R290: SC without a reservation gives 1. -/
theorem test_sc_fails : gAfter (.sc chXR 5 2 6 0 mm) st 6 = 1 ∧ gAfter (.sc chXR 5 2 6 0 mm) stResv 6 = 0 := by decide
/-- R240: ERET.next of an outer chain of 4 bytes goes on behind it. -/
theorem test_eret : pcAfter (.eret ch) inHandler = 0x10040 ∧ pcAfter (.eretNext chXQ) inHandler = 0x10044 := by decide
/-- R222, R239: TRAP goes to the thread's handler, SVC to the supervisor. -/
theorem test_traps : pcAfter (.trap ch 5) st = 0x12000 ∧ trapOf (.svc ch 3) st = some (0x15, 3) := by decide
/-- R241: in a handler too SVC writes its cause, its number and its address, and HND stays 1. -/
theorem test_svc_in_handler : (match exec (.svc ch 3) inHandler with
    | .next t => decide (t.cpu.trapcause = 0x10415) && decide (t.cpu.trapval = 3) && decide (t.cpu.trappc = 0x10000)
    | _ => false) = true := by decide
/-- R3, R401: reserved bits of TENCFG are not kept. -/
theorem test_tencfg_reserved : (match exec (.managementRegisterWrite (.tencfg 15 0xFFFFFFFFFFFFFFFF)) st with
    | .next t => decide (t.tencfg[15] = 0x1FFFF) | _ => false) = true := by decide
/-- R135, R438: a vector store to a peer that grants half of it writes 16-byte pieces, and each of the other two is reported. -/
theorem test_peer_pieces : let s := { on st (fun t => { t with v := t.v.set 0 (BitVec.ofNat 512 (2 ^ 512 - 1)) }) with
        peers := [{ num := 0, inc := 0, up := true, answers := true }]
        grants := [{ peer := 0, inc := 0, ctx := 0, tables := 0, lo := 0, hi := 0x20, rd := true, wr := true }] }
    (match exec (.vst ch 0 9 0 mm) s with
    | .next t => decide (Memory.reads t.mem (peerKey 0 0) 36 = List.replicate 32 0xFF ++ List.replicate 4 0) &&
        decide (t.events = [.peerStoreRefused 0 0x38020 0, .peerStoreRefused 0 0x38030 0])
    | _ => false) = true := by decide +kernel
/-- R19, R49: a step of the machine issues ADDI at its turn, the chain decoded from memory. -/
theorem test_step : (match step stRun with | .next t => decide (t.cpu.reg 5 = 8) && decide (t.cpu.pc = 0x20002) | _ => false) = true := by decide
/-- The first instruction placed by withFetchWord after reset runs at the next step: MOVI g1, #5 (0x0C25). -/
theorem test_fetch_word : (match step (State.reset.withFetchWord 16 0x0C25) with | .next t => decide (t.cpu.reg 1 = 5) | _ => false) = true ∧
    decodeTableWord 16 0x0C25 = some (.movi ch 1 5) := by decide

end Sys2Proof.Tests
end

section
/-!
SUPPORT. The host and its ports: what an access of the host, a snoop, an answer of the host and a change of a link do (spec/22_links_and_peers.md).
-/
namespace Sys2Proof.Machine

/-! The first element of a list that satisfies a test. -/

theorem first?_eq_none {α : Type} {p : α → Bool} {l : List α} (h : first? p l = none) : ∀ x ∈ l, p x = false := by
  induction l with
  | nil => simp
  | cons y ys ih =>
    simp only [first?] at h
    split at h
    · cases h
    · next hy => exact List.forall_mem_cons.mpr ⟨by simpa using hy, ih h⟩

theorem exists_first? {α : Type} {p : α → Bool} {l : List α} {x : α} (hx : x ∈ l) (hp : p x = true) : ∃ y, first? p l = some y := by
  cases h : first? p l with
  | some y => exact ⟨y, rfl⟩
  | none => rw [first?_eq_none h x hx] at hp; cases hp

theorem first?_filter {α : Type} {p q : α → Bool} {l : List α} (h : ∀ x ∈ l, p x = true → q x = true) :
    first? p (l.filter q) = first? p l := by
  induction l with
  | nil => rfl
  | cons x xs ih =>
    have hxs := ih fun y hy => h y (List.mem_cons_of_mem _ hy)
    cases hq : q x with
    | true => simp [hq, first?, hxs]
    | false =>
      have hp : p x = false := by
        cases hp : p x with
        | false => rfl
        | true => rw [h x List.mem_cons_self hp] at hq; cases hq
      simp [hq, first?, hp, hxs]

/-! What the host holds of the device's lines (R432). -/

/-- A write that leaves every host copy named where it was takes none back. -/
theorem hostLost_map {s t : State} {f : DirEntry → DirEntry} (ht : t.dirs = s.dirs.map f)
    (hf : ∀ d ∈ s.dirs, (d.hostA || d.hostB) = true → (f d).grain = d.grain ∧ (f d).hostA = d.hostA ∧ (f d).hostB = d.hostB) :
    s.hostLost t = none := by
  refine first?_none fun d hd => ?_
  cases hh : d.hostA || d.hostB with
  | false => rfl
  | true =>
    obtain ⟨hg, hA, hB⟩ := hf d hd hh
    have hk : (t.dirs.any fun e => e.grain == d.grain && e.hostA == d.hostA && e.hostB == d.hostB) = true :=
      List.any_eq_true.mpr ⟨f d, ht ▸ List.mem_map_of_mem hd, by simp [hg, hA, hB]⟩
    simp [hk]

theorem hostLost_of_dirs {s t : State} (h : t.dirs = s.dirs) : s.hostLost t = none :=
  hostLost_map (f := id) (by simpa using h) fun _ _ _ => ⟨rfl, rfl, rfl⟩

theorem hostLost_of_hostless {s : State} (h : s.hostless) (t : State) : s.hostLost t = none :=
  first?_none fun d hd => by simp [h d hd]

/-- No entry that names a host copy meets bytes that the host does not hold. -/
theorem overlaps_of_hostFree {s : State} {k n : Nat} (h : s.hostFree k n = true) {d : DirEntry} (hd : d ∈ s.dirs)
    (hh : (d.hostA || d.hostB) = true) : overlaps k n d.grain d.size = false := by
  have := first?_eq_none (Option.isNone_iff_eq_none.mp h) d hd
  simpa [hh] using this

/-- The entry after a write of bytes `a` to `a + n - 1` at their home. -/
def DirEntry.written (a n : Nat) (d : DirEntry) : DirEntry := if overlaps a n d.grain d.size then d.withdrawn else d

theorem homeWrite_dirs (s : State) (a : Nat) (bs : List Byte) :
    (s.homeWrite a bs).dirs = s.dirs.map (DirEntry.written a bs.length) := rfl

theorem DirEntry.written_hostFree {s : State} {a n : Nat} (h : s.hostFree a n = true) {d : DirEntry} (hd : d ∈ s.dirs)
    (hh : (d.hostA || d.hostB) = true) : d.written a n = d := by
  simp [DirEntry.written, overlaps_of_hostFree h hd hh]

theorem hostLost_homeWrite {s t : State} {a n : Nat} {bs : List Byte} (h : s.hostFree a n = true) (hn : bs.length = n)
    (ht : t.dirs = (s.homeWrite a bs).dirs) : s.hostLost t = none := by
  subst hn
  exact hostLost_map (ht.trans (homeWrite_dirs s a bs)) fun d hd hh => by simp [DirEntry.written_hostFree h hd hh]

theorem awaitHost_next {e : Instr} {s t : State} (h : s.hostLost t = none) : awaitHost e s (.next t) = .next t := by
  simp [awaitHost, h]

/-! Accesses of the host (R196, R430, R432, R451). -/

theorem hostAccess_down {r : HostOp} {s : State} (h : (s.port r.port).up = false) : exec (.hostAccess r) s = .next s := by
  simp [execHostAccess, h]

theorem hostAccess_recovery {r : HostOp} {s : State} (h : (s.port r.port).up = true) (hr : s.island.recovery = true)
    (hs : r.space ≠ .own) :
    exec (.hostAccess r) s = .next (if r.write then s else { s with answers := none :: s.answers }) := by
  simp [execHostAccess, h, hr, hs, State.answer]

/-- A write of the host's own memory, or a compare-and-swap of it. -/
theorem hostAccess_ownWrite {r : HostOp} {s : State} (h : (s.port r.port).up = true) (hs : r.space = .own) (hw : r.write = true) :
    exec (.hostAccess r) s = .next (s.hostStore (hostKey r.addr) r) := by
  simp [execHostAccess, h, hs, hw]

theorem hostAccess_ownRead {r : HostOp} {s : State} (h : (s.port r.port).up = true) (hs : r.space = .own) (hw : r.write = false) :
    exec (.hostAccess r) s = .next (s.answer (some (BitVec.ofNat 128 (s.peek (hostKey r.addr) r.width)))) := by
  simp [execHostAccess, h, hs, hw]

theorem hostStore_plain {r : HostOp} (s : State) (a : Nat) (h : r.expect = none) :
    s.hostStore a r = s.homeWrite a (leBytes r.width r.data.toNat) := by
  simp [State.hostStore, h, State.poke]

theorem hostStore_swap {r : HostOp} (s : State) (a : Nat) {e : BitVec 128} (h : r.expect = some e) :
    s.hostStore a r = if s.peek a r.width = e.toNat % 2 ^ (8 * r.width)
      then (s.answer (some (BitVec.ofNat 128 (s.peek a r.width)))).homeWrite a (leBytes r.width r.data.toNat)
      else s.answer (some (BitVec.ofNat 128 (s.peek a r.width))) := by
  simp only [State.hostStore, h, State.poke]

/-- What a swap of the host does at its own memory (R451). -/
theorem hostAccess_ownSwap {r : HostOp} {s : State} {e : BitVec 128} (h : (s.port r.port).up = true) (hs : r.space = .own)
    (hw : r.write = true) (he : r.expect = some e) :
    exec (.hostAccess r) s = .next (if s.peek (hostKey r.addr) r.width = e.toNat % 2 ^ (8 * r.width)
      then (s.answer (some (BitVec.ofNat 128 (s.peek (hostKey r.addr) r.width)))).homeWrite (hostKey r.addr) (leBytes r.width r.data.toNat)
      else s.answer (some (BitVec.ofNat 128 (s.peek (hostKey r.addr) r.width)))) := by
  rw [hostAccess_ownWrite h hs hw, hostStore_swap _ _ he]

/-- A doubleword that the host writes, as its access carries it. -/
theorem toNat_setWidth128 (d : Word) : (d.setWidth 128).toNat = d.toNat := by
  rw [BitVec.toNat_setWidth]
  exact Nat.mod_eq_of_lt (Nat.lt_trans d.isLt (by decide))

/-- The host takes note of a line it has read: caches and directories alone change. -/
theorem hostCaches_onlyCaches (s : State) (p : Port) (a : Nat) : s.onlyCaches (s.hostCaches p a) := by
  unfold State.hostCaches
  dsimp only
  refine onlyCaches_trans (demote_onlyCaches s (lineOf a) 512) ?_
  split
  · exact onlyCaches_of rfl
  · exact onlyCaches_trans (fitDir_onlyCaches _ _ _) (putDir_onlyCaches _ _)

/-- Spaces through which the host reaches the memory of the device. -/
def reachesDevice (sp : HostSpace) : Prop := sp = .hdm ∨ sp = .bar2

theorem hostAccess_deviceWrite {r : HostOp} {s : State} {a : Nat} (h : (s.port r.port).up = true) (hr : s.island.recovery = false)
    (hs : reachesDevice r.space) (hp : s.hostPlace r = some a) (hw : r.write = true) (he : r.expect = none) :
    exec (.hostAccess r) s = .next (s.homeWrite a (leBytes r.width r.data.toNat)) := by
  rcases hs with hs | hs <;> simp [execHostAccess, h, hr, hs, hp, hw, he, hostStore_plain]

theorem hostAccess_deviceRead {r : HostOp} {s : State} {a : Nat} (h : (s.port r.port).up = true) (hr : s.island.recovery = false)
    (hs : reachesDevice r.space) (hp : s.hostPlace r = some a) (hw : r.write = false) (hb : s.badAt a r.width = false) :
    ∃ t, exec (.hostAccess r) s = .next t ∧ t.answers = some (BitVec.ofNat 128 (s.peek a r.width)) :: s.answers ∧ t.mem = s.mem ∧
      t.cpu = s.cpu ∧ t.others = s.others := by
  let u : State := ({ s with free := s.free + 1 } : State).answer (some (BitVec.ofNat 128 (s.peek a r.width)))
  have hx : ∃ b : Bool, exec (.hostAccess r) s = .next (if b then u.hostCaches r.port a else u) :=
    ⟨Config.freeBit s.free && !(s.port r.port).pcie, by
      rcases hs with hs | hs <;> simp [execHostAccess, h, hr, hs, hp, hw, hb, u]⟩
  obtain ⟨b, hx⟩ := hx
  refine ⟨_, hx, ?_⟩
  have hc : u.onlyCaches (if b then u.hostCaches r.port a else u) := by
    split
    · exact hostCaches_onlyCaches u r.port a
    · exact onlyCaches_refl u
  refine ⟨?_, (onlyCaches_mem hc).trans rfl, (onlyCaches_cpu hc).trans rfl, (onlyCaches_others hc).trans rfl⟩
  rw [hc.1]
  rfl

/-- A place of the device is presented through a CXL port's HDM range. -/
theorem hostPlace_hdm {r : HostOp} {s : State} (hs : r.space = .hdm) (hp : (s.port r.port).pcie = false)
    (h : (s.port r.port).hdmBase + r.addr + r.width ≤ Config.deviceBytes) : s.hostPlace r = some ((s.port r.port).hdmBase + r.addr) := by
  simp [State.hostPlace, hs, hp, Option.filter, h]

/-- Address `addr` of BAR2, with `n` bytes from there on in one of its three areas, is place `a` (R430). -/
def State.bar2Place (s : State) (addr n a : Nat) : Prop :=
  addr + n ≤ 0x2000 ∧ a = s.island.lwin + addr ∨ 0x2000 ≤ addr ∧ addr + n ≤ 0x3000 ∧ 0 < n ∧ a = s.island.mbox + (addr - 0x2000) ∨
    0x3000 ≤ addr ∧ addr + n ≤ 0x4000 ∧ 0 < n ∧ a = s.island.ctrl + (addr - 0x3000)

theorem hostPlace_bar2 {r : HostOp} {s : State} {a : Nat} (hs : r.space = .bar2) (hp : (s.port r.port).pcie = true)
    (ha : s.bar2Place r.addr r.width a) (h : a + r.width ≤ Config.deviceBytes) : s.hostPlace r = some a := by
  have keep : Option.filter (fun a => decide (a + r.width ≤ Config.deviceBytes)) (some a) = some a := by simp [Option.filter, h]
  simp only [State.hostPlace, hs, hp, Bool.not_true, Bool.false_eq_true, if_false]
  unfold State.bar2Place at ha
  rcases ha with ⟨h1, ha⟩ | ⟨h1, h2, h3, ha⟩ | ⟨h1, h2, h3, ha⟩
  · rw [if_pos h1, ← ha, keep]
  · rw [if_neg (show ¬r.addr + r.width ≤ 0x2000 by omega), if_pos (by simp only [h1, h2, decide_true, Bool.and_self]), ← ha, keep]
  · rw [if_neg (show ¬r.addr + r.width ≤ 0x2000 by omega), if_neg ?_, if_pos (by simp only [h1, h2, decide_true, Bool.and_self]), ← ha, keep]
    simp only [Bool.and_eq_true, decide_eq_true_eq]
    omega

/-- BAR0 gives the bytes of the locator block (R430). -/
theorem hostAccess_bar0Read {r : HostOp} {s : State} (h : (s.port r.port).up = true) (hr : s.island.recovery = false)
    (hs : r.space = .bar0) (hw : r.write = false) :
    exec (.hostAccess r) s = .next (s.answer (some (BitVec.ofNat 128 (leNat (((s.locator r.port).drop r.addr).take r.width))))) := by
  simp [execHostAccess, h, hr, hs, hw]

/-- The locator block begins with its version and the place of the launch window (R430). -/
theorem locator_dwords (s : State) (p : Port) : leNat ((s.locator p).take 8) = 1 ∧
    (s.island.lwin < 2 ^ 64 → leNat (((s.locator p).drop 8).take 8) = s.island.lwin) := by
  have take8 (x : Nat) (l : List Byte) : leNat ((leBytes 8 x ++ l).take 8) = x % 256 ^ 8 := by
    rw [List.take_left' (length_leBytes 8 x), leNat_leBytes]
  simp only [State.locator, List.append_assoc]
  refine ⟨(take8 1 _).trans (Nat.mod_eq_of_lt (by decide)), fun h => ?_⟩
  rw [List.drop_left' (length_leBytes 8 1), take8]
  exact Nat.mod_eq_of_lt (by simpa using h)

/-! Snoops, back-invalidations and links (R431, R432, R435). -/

theorem overlaps_windows_withdraw (s : State) (a n : Nat) (k : Nat) :
    ∀ w ∈ ((s.withdraw a n).core k).windows, ∀ f ∈ w.fills, overlaps a n f.home f.size = false := by
  have hk : (s.withdraw a n).core k = Core.dropFills a n (s.core k) :=
    core_map (s := s) (f := Core.dropFills a n) (fun _ => rfl) (fun _ => rfl) k
  rw [hk]
  intro w hw f hf
  simp only [Core.dropFills, List.mem_map] at hw
  obtain ⟨v, -, rfl⟩ := hw
  simpa using (List.mem_filter.mp hf).2

theorem port_modPort (s : State) (p : Port) (f : HostPort → HostPort) : (s.modPort p f).port p = f (s.port p) := by
  cases p <;> rfl

theorem port_modPort_ne (s : State) {p x : Port} (h : x ≠ p) (f : HostPort → HostPort) : (s.modPort p f).port x = s.port x := by
  cases p with
  | a => cases x with
    | a => exact absurd rfl h
    | b => rfl
  | b => cases x with
    | a => rfl
    | b => exact absurd rfl h

theorem modPort_fields (s : State) (p : Port) (f : HostPort → HostPort) :
    s.modPort p f = { s with portA := (s.modPort p f).portA, portB := (s.modPort p f).portB } := by
  cases p <;> rfl

theorem homeWrite_port (s : State) (a : Nat) (bs : List Byte) (p : Port) : (s.homeWrite a bs).port p = s.port p := by
  cases p <;> rfl

@[simp] theorem modPort_mem (s : State) (p : Port) (f : HostPort → HostPort) : (s.modPort p f).mem = s.mem := by cases p <;> rfl

theorem modPort_self {s : State} {p : Port} {f : HostPort → HostPort} (h : f (s.port p) = s.port p) : s.modPort p f = s := by
  cases p with
  | a => exact congrArg (fun q => { s with portA := q }) h
  | b => exact congrArg (fun q => { s with portB := q }) h

/-- A link without posted writes goes down. -/
theorem linkDown_idle {s : State} {p : Port} (h : (s.port p).posts = []) :
    exec (.linkDown p) s = .next (s.modPort p fun q => { q with up := false }) := by
  have hself : s.modPort p (fun q => { q with posts := [] }) = s := modPort_self (by rw [← h])
  rw [exec_linkDown, execLinkDown, h, losePosts, hself]

/-- The directory entry names a copy of the host's on port `p` (R432). -/
def DirEntry.names (d : DirEntry) (p : Port) : Bool := match p with | .a => d.hostA | .b => d.hostB

/-- The entry names no such copy any more. -/
def DirEntry.forget (d : DirEntry) (p : Port) : DirEntry := match p with | .a => { d with hostA := false } | .b => { d with hostB := false }

theorem DirEntry.names_forget (d : DirEntry) (p : Port) : (d.forget p).names p = false := by cases p <;> rfl

theorem backInvalidationAnswer_eq (p : Port) (a : Nat) (s : State) : exec (.backInvalidationAnswer p a) s =
    .next { s with dirs := s.dirs.map fun d => if d.grain = a then d.forget p else d } := rfl

/-- After the host's answer no entry of the grain names its copy (R432). -/
theorem names_of_mem_forget {p : Port} {a : Nat} {l : List DirEntry} {x : DirEntry}
    (hx : x ∈ l.map fun d => if d.grain = a then d.forget p else d) (hg : x.grain = a) : x.names p = false := by
  obtain ⟨d, -, rfl⟩ := List.mem_map.mp hx
  by_cases hd : d.grain = a
  · rw [if_pos hd]; exact d.names_forget p
  · rw [if_neg hd] at hg; exact absurd hg hd

/-- Each posted write of a link that goes down is lost and counted, or arrives; where all are lost, memory is as it was. -/
theorem losePosts_spec (p : Port) (ws : List (Nat × List Byte)) (s : State) :
    ((losePosts p ws s).port p).posts = [] ∧ (s.port p).errlog ≤ ((losePosts p ws s).port p).errlog ∧
      ((losePosts p ws s).port p).errlog ≤ (s.port p).errlog + ws.length ∧
      (((losePosts p ws s).port p).errlog = (s.port p).errlog + ws.length → (losePosts p ws s).mem = s.mem) := by
  induction ws generalizing s with
  | nil => simp [losePosts, port_modPort]
  | cons w ws ih =>
    simp only [losePosts, List.length_cons]
    split
    · obtain ⟨hp, hlo, hhi, hm⟩ := ih (({ s with free := s.free + 1 } : State).modPort p fun q => { q with errlog := q.errlog + 1 })
      rw [port_modPort] at hlo hhi hm
      have he : (({ s with free := s.free + 1 } : State).port p).errlog = (s.port p).errlog := by cases p <;> rfl
      simp only [he] at hlo hhi hm
      exact ⟨hp, by omega, by omega, fun h => by rw [hm (by omega), modPort_mem]⟩
    · obtain ⟨hp, hlo, hhi, -⟩ := ih (({ s with free := s.free + 1 } : State).homeWrite w.1 w.2)
      have he : ((({ s with free := s.free + 1 } : State).homeWrite w.1 w.2).port p).errlog = (s.port p).errlog := by cases p <;> rfl
      rw [he] at hlo hhi
      exact ⟨hp, hlo, by omega, fun h => absurd h (by omega)⟩

end Sys2Proof.Machine
end

section
/-!
SUPPORT. Peers: what a request of a peer does, and what the end of a peer's incarnation does to what it owes (R436 to R441).
-/
namespace Sys2Proof.Machine

/-! Association lists. -/

@[simp] theorem assocD_assocSet_same {κ α : Type} [DecidableEq κ] (d v : α) (k : κ) (l : List (κ × α)) :
    assocD d k (assocSet k v l) = v := by
  induction l with
  | nil => simp [assocSet, assocD]
  | cons x xs ih =>
    obtain ⟨j, y⟩ := x
    by_cases h : j = k <;> simp [assocSet, assocD, h, ih]

theorem assocD_assocSet_ne {κ α : Type} [DecidableEq κ] (d v : α) {j k : κ} (h : j ≠ k) (l : List (κ × α)) :
    assocD d k (assocSet j v l) = assocD d k l := by
  induction l with
  | nil => simp [assocSet, assocD, h]
  | cons x xs ih =>
    obtain ⟨i, y⟩ := x
    by_cases hi : i = j
    · subst hi; simp [assocSet, assocD, h]
    · simp [assocSet, assocD, hi, ih]

/-! Requests of peers (R436 to R439). -/

theorem badAt_zero (s : State) (a : Nat) : s.badAt a 0 = false := rfl

/-- What an engine reaches for the context of a listed entry is the place that the entry lets the peer reach. -/
theorem exported_of_engineReach {r : PeerReq} {s : State} {x : Export} {a w : Nat} {rd wr : Bool} (hr : peerShape r = (w, rd, wr))
    (hx : s.exportFor r = some x) (h : s.engineReach 0 x.tables (BitVec.ofNat 64 r.addr) 0 rd wr = some a) :
    ∃ y : Xlat, s.exported r = some (x, y) ∧ y.pa = a := by
  simp only [State.engineReach, badAt_zero] at h
  split at h
  · next y u hy =>
    simp only [Bool.and_false, Bool.not_false, Bool.and_true, Option.ite_none_right_eq_some, Option.some.injEq] at h
    obtain ⟨hp, rfl⟩ := h
    exact ⟨y, by simp [State.exported, hr, hx, hy, Xlat.plainDevice, hp], rfl⟩
  · cases h

theorem exportFor_none {r : PeerReq} {s : State} {w : Nat} {rd wr : Bool} (hr : peerShape r = (w, rd, wr))
    (h : ¬∃ e ∈ s.exports, e.peer = r.src ∧ e.inc = r.srcInc ∧ e.ctx = r.ctx ∧ e.lo ≤ r.addr ∧ r.addr + w ≤ e.hi ∧
      (rd = true → e.rd = true) ∧ (wr = true → e.wr = true)) : s.exportFor r = none := by
  simp only [State.exportFor, hr]
  refine first?_none fun e he => ?_
  rw [← Bool.not_eq_true]
  intro hall
  refine h ⟨e, he, ?_⟩
  simp only [Bool.and_eq_true, beq_iff_eq, decide_eq_true_eq, Bool.or_eq_true, Bool.not_eq_true'] at hall
  obtain ⟨⟨⟨⟨⟨⟨h1, h2⟩, h3⟩, h4⟩, h5⟩, h6⟩, h7⟩ := hall
  exact ⟨h1, h2, h3, h4, h5, fun hrd => h6.resolve_left (by simp [hrd]), fun hwr => h7.resolve_left (by simp [hwr])⟩

theorem peerRequest_stale {r : PeerReq} {s : State} (h : (s.peer r.src).inc ≠ r.srcInc ∨ r.dstInc ≠ s.selfInc) :
    exec (.peerRequest r) s = .next s := by
  simp [execPeerRequest, h]

theorem peerRequest_recovery {r : PeerReq} {s : State} (h1 : (s.peer r.src).inc = r.srcInc) (h2 : r.dstInc = s.selfInc)
    (hr : s.island.recovery = true) : exec (.peerRequest r) s = .next (s.answer none) := by
  simp [execPeerRequest, h1, h2, hr]

theorem peerRequest_refused {r : PeerReq} {s : State} (h1 : (s.peer r.src).inc = r.srcInc) (h2 : r.dstInc = s.selfInc)
    (hr : s.island.recovery = false) (h : s.exported r = none) : exec (.peerRequest r) s = .next (s.answer none) := by
  simp [execPeerRequest, h1, h2, hr, h]

/-- A request that an entry allows is performed once the host's copies of what it writes are gone. -/
theorem peerRequest_served {r : PeerReq} {s : State} {e : Export} {x : Xlat} (h1 : (s.peer r.src).inc = r.srcInc)
    (h2 : r.dstInc = s.selfInc) (hr : s.island.recovery = false) (h : s.exported r = some (e, x))
    (hl : s.hostLost (s.peerAt r e x) = none) : exec (.peerRequest r) s = .next (s.peerAt r e x) := by
  simp [execPeerRequest, h1, h2, hr, h, awaitHost_next hl]

theorem peerAt_load {r : PeerReq} {s : State} {e : Export} {x : Xlat} {n : Nat} (hw : r.what = .load n) (hb : s.badAt x.pa n = false) :
    s.peerAt r e x = s.answer (some (BitVec.ofNat 128 (s.peek x.pa n))) := by
  simp [State.peerAt, hw, hb]

theorem peerAt_store {r : PeerReq} {s : State} {e : Export} {x : Xlat} {n : Nat} {d : BitVec 128} (hw : r.what = .store n d) :
    s.peerAt r e x = (s.homeWrite x.pa (leBytes n d.toNat)).answer (some 0) := by
  simp [State.peerAt, hw, State.poke]

/-- A doubleword read as the low half of an answer. -/
theorem ofNat_peek8 (s : State) (a : Nat) : BitVec.ofNat 128 (s.peek a 8) = (s.dwordAt a).setWidth 128 := by
  have hlt : s.peek a 8 < 2 ^ 64 := by simpa [State.peek] using leNat_lt (Memory.reads s.mem a 8)
  apply BitVec.eq_of_toNat_eq
  simp only [State.dwordAt, State.peek] at hlt ⊢
  simp only [BitVec.toNat_ofNat, BitVec.toNat_setWidth]
  omega

theorem peerAt_add {r : PeerReq} {s : State} {e : Export} {x : Xlat} {v c : BitVec 128} (hw : r.what = .rmw .add v c)
    (hb : s.badAt x.pa 8 = false) :
    s.peerAt r e x = ((s.recallOwned x.pa 8).homeWrite x.pa (leBytes 8 (s.dwordAt x.pa + v.setWidth 64).toNat)).answer
      (some ((s.dwordAt x.pa).setWidth 128)) := by
  have hold : BitVec.ofNat 128 ((s.recallOwned x.pa 8).peek x.pa 8) = (s.dwordAt x.pa).setWidth 128 := ofNat_peek8 s x.pa
  have hback : ((s.dwordAt x.pa).setWidth 128).setWidth 64 = s.dwordAt x.pa := by simp
  simp only [State.peerAt, hw, rmwWidth, hb, rmwAt, State.poke, hold, hback, rmwApply]
  rfl

/-- Launch slots end at 63, so a peer's update counts as a message of none (R420). -/
theorem receives_none (s : State) (a : Nat) : s.receives 64 a = s := rfl

theorem rupdAt_intAdd {r : RupdReq} {s : State} (hf : r.fn = 3) (hl : r.launch = 64) (hb : s.badAt r.addr 8 = false) :
    rupdAt r s = s.homeWrite r.addr (leBytes 8 (s.dwordAt r.addr + r.x).toNat) := by
  have hbad : s.badAt r.addr (rupdWidth 3) = false := hb
  simp only [rupdAt, hl, receives_none, hf, hbad]
  rfl

theorem peerAt_intAdd {r : PeerReq} {s : State} {e : Export} {x : Xlat} {v : BitVec 64} (hw : r.what = .rupd 3 v)
    (hb : s.badAt x.pa 8 = false) :
    s.peerAt r e x = (s.homeWrite x.pa (leBytes 8 (s.dwordAt x.pa + v).toNat)).answer (some 0) := by
  simp only [State.peerAt, hw]
  rw [if_neg (by decide), rupdAt_intAdd rfl rfl hb]

/-- A change of what agents of the device own leaves what the host holds (R175). -/
theorem hostLost_recalled {s t : State} {a n k : Nat} {bs : List Byte} (h : s.hostFree a n = true) (hn : bs.length = n)
    (ht : t.dirs = ((s.recallOwned a k).homeWrite a bs).dirs) : s.hostLost t = none := by
  subst hn
  refine hostLost_map (f := fun d => DirEntry.written a bs.length (if overlaps a k d.grain d.size && d.owner.isSome then { d with state := .shared, owner := none } else d))
    (by rw [ht, homeWrite_dirs]; simp [State.recallOwned]) fun d hd hh => ?_
  have hno := overlaps_of_hostFree h hd hh
  split <;> simp [DirEntry.written, hno]

/-! Changes of the peer table (R436, R441). -/

/-- The peer table with a new entry for `p`; one of incarnation 0 that is down is listed no more. -/
def State.setPeer (s : State) (p : BitVec 12) (inc : BitVec 8) (up : Bool) : State :=
  { s with peers := if inc == 0 && !up then s.peers.filter fun e => e.num != p
                    else { s.peer p with inc := inc, up := up } :: s.peers.filter fun e => e.num != p }

theorem execPeerTableUpdate_eq (p : BitVec 12) (inc : BitVec 8) (up : Bool) (s : State) :
    exec (.peerTableUpdate p inc up) s =
      .next (if (s.peer p).inc != inc || !up then (s.setPeer p inc up).losePeer p.toNat else s.setPeer p inc up) := rfl

theorem peer_num (s : State) (p : BitVec 12) : (s.peer p).num = p := by
  unfold State.peer
  cases h : first? (fun e => e.num == p) s.peers with
  | none => rfl
  | some e => simpa using (first?_some h).2

theorem peer_cons (s : State) (e : Peer) (l : List Peer) (n : BitVec 12) :
    ({ s with peers := e :: l } : State).peer n = if e.num = n then e else ({ s with peers := l } : State).peer n := by
  by_cases h : e.num = n <;> simp [State.peer, first?, h]

/-- A peer that the table does not list is down, with incarnation 0 (R436). -/
theorem peer_unlisted (s : State) (p : BitVec 12) :
    ({ s with peers := s.peers.filter fun e => e.num != p } : State).peer p = { num := p, inc := 0, up := false, answers := true } := by
  simp only [State.peer]
  rw [first?_none fun e he => by simpa using (List.mem_filter.mp he).2]
  rfl

theorem peer_filter_ne (s : State) {n p : BitVec 12} (h : n ≠ p) :
    ({ s with peers := s.peers.filter fun e => e.num != p } : State).peer n = s.peer n := by
  simp only [State.peer]
  rw [first?_filter fun e _ he => by simpa [eq_of_beq he] using h]

theorem peer_setPeer (s : State) (p : BitVec 12) (inc : BitVec 8) (up : Bool) :
    ((s.setPeer p inc up).peer p).num = p ∧ ((s.setPeer p inc up).peer p).inc = inc ∧ ((s.setPeer p inc up).peer p).up = up := by
  refine ⟨peer_num _ p, ?_⟩
  unfold State.setPeer
  split
  · next h =>
    simp only [Bool.and_eq_true, beq_iff_eq, Bool.not_eq_true'] at h
    rw [peer_unlisted]
    exact ⟨h.1.symm, h.2.symm⟩
  · rw [peer_cons, if_pos (peer_num s p)]
    exact ⟨rfl, rfl⟩

theorem peer_setPeer_ne (s : State) {p n : BitVec 12} (h : n ≠ p) (inc : BitVec 8) (up : Bool) : (s.setPeer p inc up).peer n = s.peer n := by
  unfold State.setPeer
  split
  · exact peer_filter_ne s h
  · rw [peer_cons, if_neg (by rw [peer_num]; exact h.symm), peer_filter_ne s h]

/-! What the old incarnation of a peer owes (R441). -/

/-- Of the answers on their way, those of another sender and every other event stay. -/
theorem mem_liveReplies {s : State} {p : Nat} {e : Instr} (hk : ∀ n a, e = .accessReply n a → some p ∉ s.dueReplies n)
    (l : List Instr) (he : e ∈ l) (seen : List (Nat × Nat)) : e ∈ s.liveReplies p seen l := by
  induction l generalizing seen with
  | nil => cases he
  | cons x xs ih =>
    rcases List.mem_cons.mp he with rfl | hxs
    · unfold State.liveReplies
      split
      · next slot a =>
        have hno : ((s.dueReplies slot)[assocD 0 slot seen]? == some (some p)) = false := by
          rw [beq_eq_false_iff_ne]
          exact fun h => hk slot a rfl (List.mem_of_getElem? h)
        simp [hno]
      · exact List.mem_cons_self
    · unfold State.liveReplies
      split
      · dsimp only
        split
        · exact ih hxs _
        · exact List.mem_cons_of_mem _ (ih hxs _)
      · exact List.mem_cons_of_mem _ (ih hxs _)

/-- No answer stays for a slot to which the peer alone owes answers, as many as are on their way. -/
theorem not_mem_liveReplies {s : State} {p n : Nat} {a : Answer} (hd : ∀ x ∈ s.dueReplies n, x = some p) (l : List Instr)
    (seen : List (Nat × Nat)) (hc : assocD 0 n seen + l.countP (repliesTo n) ≤ (s.dueReplies n).length) :
    .accessReply n a ∉ s.liveReplies p seen l := by
  induction l generalizing seen with
  | nil => simp [State.liveReplies]
  | cons x xs ih =>
    unfold State.liveReplies
    split
    · next slot b =>
      dsimp only
      by_cases hs : slot = n
      · subst hs
        simp only [List.countP_cons, repliesTo, BEq.rfl, if_true] at hc
        have hk : assocD 0 slot seen < (s.dueReplies slot).length := by omega
        have hp : ((s.dueReplies slot)[assocD 0 slot seen]? == some (some p)) = true := by
          rw [List.getElem?_eq_getElem hk, hd _ (List.getElem_mem hk), beq_self_eq_true]
        rw [if_pos hp]
        exact ih _ (by rw [assocD_assocSet_same]; omega)
      · have hrest : .accessReply n a ∉ s.liveReplies p (assocSet slot (assocD 0 slot seen + 1) seen) xs := by
          refine ih _ ?_
          rw [assocD_assocSet_ne _ _ hs]
          simpa [List.countP_cons, repliesTo, hs] using hc
        split
        · exact hrest
        · exact List.not_mem_cons_of_ne_of_not_mem (by simpa using fun h => absurd h.symm hs) hrest
    · next hx =>
      refine List.not_mem_cons_of_ne_of_not_mem (fun h => hx n a h.symm) (ih seen ?_)
      exact Nat.le_trans (Nat.add_le_add_left (List.Sublist.countP_le (List.sublist_cons_self x xs)) _) hc

theorem mem_map_lost {p : Nat} {l : List Instr} (n : Nat) (a : Answer) : .accessReply n a ∈ l.map (lost p) ↔ .accessReply n a ∈ l := by
  rw [List.mem_map]
  constructor
  · rintro ⟨e, he, h⟩
    unfold lost at h
    split at h
    · split at h <;> cases h
    · subst h; exact he
  · exact fun h => ⟨_, h, rfl⟩

theorem lost_mcstAnswer {p : Nat} {slot : Nat} {pos neg : List Nat} (h : p ∈ pos) :
    lost p (.mcstAnswer slot pos neg) = .mcstAnswer slot (pos.filter fun q => q != p) (p :: neg) := by
  simp [lost, h]

/-- A request of a thread that waits for a peer is answered for every thread at once. -/
theorem thread?_mapThreads (s : State) (p : Thread → Bool) {f : Thread → Thread} (hid : ∀ t, (f t).id = t.id)
    (hst : ∀ t, (f t).state = t.state) (n : Nat) :
    (s.mapThreads p f).thread? n = (s.thread? n).map fun t => if p t then f t else t := by
  have hothers : ∀ l : List Thread, first? (fun t => t.id == n) (l.map fun t => if p t then f t else t) =
      (first? (fun t => t.id == n) l).map fun t => if p t then f t else t := by
    intro l
    induction l with
    | nil => rfl
    | cons x xs ih =>
      have hx : (if p x = true then f x else x).id = x.id := by split <;> simp [hid]
      simp only [List.map_cons, first?, hx]
      split
      · rfl
      · exact ih
  unfold State.thread? State.mapThreads
  by_cases hfree : s.cpu.state = .free
  · by_cases hn : s.cpu.id = n <;> simp [hfree, hn, hothers]
  · by_cases hp : p s.cpu = true <;> by_cases hn : s.cpu.id = n <;> simp [hfree, hp, hn, hid, hst, hothers]

theorem receives_fields (s : State) (k a : Nat) : s.receives k a = { s with launches := (s.receives k a).launches } := by
  unfold State.receives State.modLaunch; split <;> rfl

theorem dropOwed_fields (s : State) (o : OwedStore) :
    s.dropOwed o = { s with events := s.events ++ [.notificationRecord o.note], launches := (s.dropOwed o).launches } := by
  unfold State.dropOwed
  cases o.what with
  | bytes _ _ => rfl
  | update r =>
    dsimp only
    rw [receives_fields]
    rfl

/-- Stores that a peer has not acknowledged are reported, and change the counts of messages alone. -/
theorem dropOwed_foldl_fields (l : List OwedStore) (s : State) :
    l.foldl State.dropOwed s = { s with events := s.events ++ l.map fun o => .notificationRecord o.note,
                                        launches := (l.foldl State.dropOwed s).launches } := by
  induction l generalizing s with
  | nil => simp
  | cons o os ih =>
    rw [List.foldl_cons, ih, dropOwed_fields]
    simp

/-- The request of `t` has failed. -/
def Thread.answerFailed (t : Thread) : Thread := { t with reply := t.reply.answered .failed }

/-- The requests of the threads that wait for peer `p` have failed. -/
def State.failWaiters (s : State) (p : Nat) : State := s.mapThreads (fun t => t.awaits == some p) Thread.answerFailed

/-- All that the end of an incarnation changes. -/
theorem losePeer_fields (s : State) (p : Nat) :
    s.losePeer p = { s with
      events := (s.liveReplies p [] s.events).map (lost p) ++ (s.owedStores.filter fun o => o.peer == p).map fun o => .notificationRecord o.note
      cpu := (s.failWaiters p).cpu
      others := (s.failWaiters p).others
      owedStores := s.owedStores.filter fun o => o.peer != p
      launches := (s.losePeer p).launches } := by
  unfold State.losePeer
  dsimp only
  rw [dropOwed_foldl_fields, State.mapThreads_fields]
  rfl

/-- The answer of a thread's outstanding request, once its peer has ended its incarnation (R441). -/
theorem answered_failed (r : Reply) :
    r.answered .failed = match r with | .waiting => .failed | .ending f => .endFailed f | x => x := by
  cases r <;> rfl

theorem thread?_failWaiters {s : State} {n : Nat} {u : Thread} (p : Nat) (h : s.thread? n = some u) :
    (s.failWaiters p).thread? n = some { u with reply := if u.awaits = some p
      then (match u.reply with | .waiting => .failed | .ending f => .endFailed f | x => x) else u.reply } := by
  rw [State.failWaiters, thread?_mapThreads s _ (f := Thread.answerFailed) (fun _ => rfl) (fun _ => rfl), h, Option.map_some, ← answered_failed]
  by_cases hp : u.awaits = some p <;> simp [hp, Thread.answerFailed]

theorem losePeer_events (s : State) (p : Nat) : (s.losePeer p).events =
    (s.liveReplies p [] s.events).map (lost p) ++ (s.owedStores.filter fun o => o.peer == p).map fun o => .notificationRecord o.note := by
  rw [losePeer_fields]

theorem losePeer_owedStores (s : State) (p : Nat) : (s.losePeer p).owedStores = s.owedStores.filter fun o => o.peer != p := by
  rw [losePeer_fields]

theorem losePeer_thread? (s : State) (p n : Nat) : (s.losePeer p).thread? n = (s.failWaiters p).thread? n := by
  rw [losePeer_fields]; rfl

theorem losePeer_peer (s : State) (p : Nat) (n : BitVec 12) : (s.losePeer p).peer n = s.peer n := by
  rw [losePeer_fields]; rfl

theorem accessReply_not_mem_losePeer {s : State} {p n : Nat} (a : Answer) (hd : ∀ x ∈ s.dueReplies n, x = some p)
    (hc : s.events.countP (repliesTo n) ≤ (s.dueReplies n).length) : .accessReply n a ∉ (s.losePeer p).events := by
  rw [losePeer_events, List.mem_append, mem_map_lost]
  rintro (h | h)
  · exact not_mem_liveReplies hd s.events [] (by simpa [assocD] using hc) h
  · simp at h

theorem accessReply_mem_losePeer {s : State} {p n : Nat} {a : Answer} (hd : some p ∉ s.dueReplies n) (h : .accessReply n a ∈ s.events) :
    .accessReply n a ∈ (s.losePeer p).events := by
  rw [losePeer_events, List.mem_append, mem_map_lost]
  exact Or.inl (mem_liveReplies (fun m b e => by cases e; exact hd) _ h _)

theorem mcstAnswer_mem_losePeer {s : State} {p slot : Nat} {pos neg : List Nat} (h : .mcstAnswer slot pos neg ∈ s.events) (hp : p ∈ pos) :
    .mcstAnswer slot (pos.filter fun q => q != p) (p :: neg) ∈ (s.losePeer p).events := by
  rw [losePeer_events, ← lost_mcstAnswer hp]
  exact List.mem_append_left _ (List.mem_map_of_mem (mem_liveReplies (fun _ _ e => by cases e) _ h _))

theorem notificationRecord_mem_losePeer {s : State} {p : Nat} {o : OwedStore} (h : o ∈ s.owedStores) (hp : o.peer = p) :
    .notificationRecord o.note ∈ (s.losePeer p).events := by
  rw [losePeer_events]
  exact List.mem_append_right _ (List.mem_map.mpr ⟨o, List.mem_filter.mpr ⟨h, by simpa using hp⟩, rfl⟩)

/-- The outcome of a change of the peer table, whichever it is, and the frame of it. -/
theorem peerTableUpdate_spec (p : BitVec 12) (inc : BitVec 8) (up : Bool) (s : State) :
    ∃ t, exec (.peerTableUpdate p inc up) s = .next t ∧
      t = { s with peers := t.peers, events := t.events, cpu := t.cpu, others := t.others, owedStores := t.owedStores, launches := t.launches } ∧
      (∀ n, t.peer n = (s.setPeer p inc up).peer n) ∧
      ((up = false ∨ inc ≠ (s.peer p).inc) → t = (s.setPeer p inc up).losePeer p.toNat) := by
  refine ⟨_, execPeerTableUpdate_eq p inc up s, ?_⟩
  split
  · exact ⟨by rw [losePeer_fields]; rfl, fun n => losePeer_peer _ _ n, fun _ => rfl⟩
  · next h =>
    refine ⟨rfl, fun _ => rfl, fun hc => absurd ?_ h⟩
    rcases hc with hup | hinc
    · simp [hup]
    · simp [Ne.symm hinc]

end Sys2Proof.Machine
end

section
/-!
The statement of hosts and peers.
-/
namespace Sys2Proof.Machine

/-- Settles O49: each clause is the lemma above that names it. -/
theorem hostAndPeers : Obligations.HostAndPeers := by
  unfold Obligations.HostAndPeers
  refine ⟨fun p addr n d s => ?_, fun r s => ?_, fun slot va peer s t ht => ?_, fun peer inc up s => ?_⟩
  · intro op answers value
    have hd : leBytes n (d.setWidth 128).toNat = leBytes n d.toNat := by rw [toNat_setWidth128]
    refine ⟨fun hup hrec r hr hs => ?_, fun hup e hn => ?_, fun hup hrec => ⟨?_, ?_, fun hp hb => ⟨?_, fun hbad => ?_⟩,
      fun hp a ha hb => ⟨?_, fun hbad => ?_⟩, fun hn hl => ⟨fun h0 => ?_, fun h8 => ?_⟩⟩, fun hup r hr => hostAccess_down (hr ▸ hup), ?_, ?_,
      fun hposts => ?_, ?_, ?_⟩
    · exact hostAccess_recovery (hr ▸ hup) hrec hs
    · exact hd ▸ hostAccess_ownSwap (r := { op .own true with expect := some e }) hup rfl rfl rfl
    · exact (hostAccess_ownWrite (r := op .own true) hup rfl rfl).trans (by rw [hostStore_plain _ _ rfl]; exact congrArg (fun b => Host.Outcome.next (s.homeWrite _ b)) hd)
    · exact ⟨_, hostAccess_ownRead (r := op .own false) hup rfl rfl, rfl, rfl, rfl, rfl⟩
    · exact hd ▸ hostAccess_deviceWrite (r := op .hdm true) hup hrec (Or.inl rfl) (hostPlace_hdm rfl hp hb) rfl rfl
    · exact hostAccess_deviceRead (r := op .hdm false) hup hrec (Or.inl rfl) (hostPlace_hdm rfl hp hb) rfl hbad
    · exact hd ▸ hostAccess_deviceWrite (r := op .bar2 true) hup hrec (Or.inr rfl) (hostPlace_bar2 rfl hp ha hb) rfl rfl
    · exact hostAccess_deviceRead (r := op .bar2 false) hup hrec (Or.inr rfl) (hostPlace_bar2 rfl hp ha hb) rfl hbad
    · subst hn h0
      exact ⟨_, hostAccess_bar0Read (r := op .bar0 false) hup hrec rfl rfl, congrArg (fun x => some (BitVec.ofNat 128 x) :: s.answers) (locator_dwords s p).1,
        rfl, rfl, rfl⟩
    · subst hn h8
      exact ⟨_, hostAccess_bar0Read (r := op .bar0 false) hup hrec rfl rfl,
        congrArg (fun x => some (BitVec.ofNat 128 x) :: s.answers) ((locator_dwords s p).2 hl), rfl, rfl, rfl⟩
    · refine ⟨_, rfl, rfl, rfl, rfl, rfl, fun x hx => ?_, overlaps_windows_withdraw s _ 512⟩
      exact Bool.not_eq_true' _ ▸ (List.mem_filter.mp hx).2
    · exact ⟨_, backInvalidationAnswer_eq p addr s, rfl, List.length_map _, fun x hx hg => names_of_mem_forget hx hg⟩
    · exact ⟨_, linkDown_idle hposts, port_modPort s p _, modPort_fields s p _, fun x hx => port_modPort_ne s hx _⟩
    · obtain ⟨hp, hlo, hhi, hm⟩ := losePosts_spec p (s.port p).posts s
      refine ⟨_, rfl, ?_⟩
      simp only [port_modPort, modPort_mem]
      exact ⟨trivial, hp, hlo, hhi, hm⟩
    · exact ⟨_, rfl, port_modPort s p _, modPort_fields s p _, fun x hx => port_modPort_ne s hx _⟩
  · intro rd wr w allowed
    have hshape : peerShape r = (w, rd, wr) := by
      simp only [w, rd, wr, peerShape]
      cases r.what <;> rfl
    refine ⟨peerRequest_stale, peerRequest_recovery, fun h1 h2 hrec => ⟨fun hno => ?_, fun x a hx ha => ?_⟩⟩
    · exact peerRequest_refused h1 h2 hrec (by simp only [State.exported, exportFor_none hshape hno])
    · obtain ⟨y, hy, rfl⟩ := exported_of_engineReach hshape hx ha
      refine ⟨fun n hwhat hbad => ?_, fun n d hwhat hfree => ?_, fun v e hwhat hbad hfree => ?_, fun v hwhat hbad hfree => ?_⟩
      · have ht := peerAt_load (e := x) hwhat hbad
        exact (peerRequest_served h1 h2 hrec hy (hostLost_of_dirs (by rw [ht]; rfl))).trans (congrArg Host.Outcome.next ht)
      · have ht := peerAt_store (e := x) (x := y) (s := s) hwhat
        exact ⟨_, peerRequest_served h1 h2 hrec hy (hostLost_homeWrite hfree (length_leBytes _ _) (by rw [ht]; rfl)), by rw [ht]; exact ⟨rfl, rfl, rfl, rfl⟩⟩
      · have ht := peerAt_add (e := x) (x := y) hwhat hbad
        exact ⟨_, peerRequest_served h1 h2 hrec hy (hostLost_recalled hfree (length_leBytes _ _) (by rw [ht]; rfl)), by rw [ht]; exact ⟨rfl, rfl, rfl, rfl⟩⟩
      · have ht := peerAt_intAdd (e := x) (x := y) hwhat hbad
        exact ⟨_, peerRequest_served h1 h2 hrec hy (hostLost_homeWrite hfree (length_leBytes _ _) (by rw [ht]; rfl)), by rw [ht]; exact ⟨rfl, rfl⟩⟩
  · exact ⟨refusedNote t va peer, by simp [execPeerStoreRefused, ht, State.post], rfl, rfl, rfl, rfl, rfl, rfl⟩
  · obtain ⟨t, hexec, hframe, hpeer, hend⟩ := peerTableUpdate_spec peer inc up s
    obtain ⟨hnum, hinc, hup⟩ := peer_setPeer s peer inc up
    rw [← hpeer peer] at hnum hinc hup
    refine ⟨t, hexec, hframe, hnum, hinc, hup, fun n hn => (hpeer n).trans (peer_setPeer_ne s hn inc up), fun hc => ?_, fun slot pos neg he hp hc => ?_⟩
    · rw [hend hc]
      refine ⟨fun n a hd hcount => accessReply_not_mem_losePeer a hd hcount, fun n a hd he => accessReply_mem_losePeer hd he, fun n u hu => ?_,
        fun o => ?_, fun o ho hp => notificationRecord_mem_losePeer ho hp⟩
      · rw [losePeer_thread?]
        exact thread?_failWaiters peer.toNat hu
      · rw [losePeer_owedStores, List.mem_filter, bne_iff_ne]
        rfl
    · rw [hend hc]
      exact mcstAnswer_mem_losePeer he hp

end Sys2Proof.Machine
end

section
/-!
SUPPORT. The audit log, measurements and reports (R471, R474, R475).
-/
namespace Sys2Proof.Machine

/-! The audit log (R475). -/

/-- The 64 bytes of the next entry. -/
def State.auditEntry (s : State) (kind source ctx : Nat) (payload : List Byte) : List Byte :=
  leBytes 8 (s.island.seq + 1).toNat ++ leBytes 2 kind ++ leBytes 2 source ++ leBytes 4 ctx ++ (payload ++ List.replicate 48 0).take 48

theorem length_auditEntry (s : State) (kind source ctx : Nat) (payload : List Byte) : (s.auditEntry kind source ctx payload).length = 64 := by
  simp [State.auditEntry]

/-- Its place in the ring. -/
def State.auditPlace (s : State) : Nat := s.island.ringBase + 64 * (s.island.seq.toNat % s.island.ringSize)

/-- SEQ and the head after entry `e`. -/
def State.chained (s : State) (e : List Byte) : State :=
  { s with island := { s.island with seq := s.island.seq + 1, head := Config.sha512 (islandBytes s.island.head ++ e) } }

theorem append_eq (s : State) (kind source ctx : Nat) (payload : List Byte) :
    s.append kind source ctx payload = if s.island.ringSize = 0 then s.chained (s.auditEntry kind source ctx payload)
      else (s.chained (s.auditEntry kind source ctx payload)).homeWrite s.auditPlace (s.auditEntry kind source ctx payload) := by
  simp only [State.append, BitVec.add_sub_cancel]
  rfl

/-- An append changes the island, and as any write of memory does what memory, caches and reservations hold. -/
theorem append_fields (s : State) (kind source ctx : Nat) (payload : List Byte) :
    s.append kind source ctx payload =
      let t := s.append kind source ctx payload
      { s with island := { s.island with seq := s.island.seq + 1
                                         head := Config.sha512 (islandBytes s.island.head ++ s.auditEntry kind source ctx payload) }
               mem := t.mem, bad := t.bad, resvs := t.resvs, events := t.events, tracked := t.tracked, lastInval := t.lastInval
               dirs := t.dirs, cores := t.cores, copies := t.copies } := by
  rw [append_eq]
  split <;> rfl

section
variable (s : State) (kind source ctx : Nat) (payload : List Byte)

@[simp] theorem append_cpu : (s.append kind source ctx payload).cpu = s.cpu := by rw [append_fields]
@[simp] theorem append_others : (s.append kind source ctx payload).others = s.others := by rw [append_fields]
@[simp] theorem append_retired : (s.append kind source ctx payload).retired = s.retired := by rw [append_fields]
@[simp] theorem append_failing : (s.append kind source ctx payload).failing = s.failing := by rw [append_fields]
@[simp] theorem append_halting : (s.append kind source ctx payload).halting = s.halting := by rw [append_fields]
@[simp] theorem append_island : (s.append kind source ctx payload).island =
    { s.island with seq := s.island.seq + 1
                    head := Config.sha512 (islandBytes s.island.head ++ s.auditEntry kind source ctx payload) } := by rw [append_fields]

theorem append_mem : (s.append kind source ctx payload).mem = if s.island.ringSize = 0 then s.mem
    else Memory.writes s.mem s.auditPlace (s.auditEntry kind source ctx payload) := by
  rw [append_eq]
  split <;> rfl

theorem append_dirs : (s.append kind source ctx payload).dirs = if s.island.ringSize = 0 then s.dirs
    else s.dirs.map (DirEntry.written s.auditPlace 64) := by
  rw [append_eq]
  split
  · rfl
  · rw [homeWrite_dirs, length_auditEntry]; rfl

end

/-- What an append does, in one statement (R475). -/
theorem append_logged (s : State) (kind source ctx : Nat) (payload : List Byte) :
    let t := s.append kind source ctx payload
    let e := s.auditEntry kind source ctx payload
    t.island.seq = s.island.seq + 1 ∧ t.island.head = Config.sha512 (islandBytes s.island.head ++ e) ∧ t.cpu = s.cpu ∧ t.others = s.others ∧
      t.mem = if s.island.ringSize = 0 then s.mem else Memory.writes s.mem s.auditPlace e := by
  refine ⟨?_, ?_, append_cpu .., append_others .., append_mem ..⟩
  · rw [append_island]
  · rw [append_island]

/-- A write changes the filled grains of windows, and nothing else of a core (R184). -/
theorem append_core (s : State) (kind source ctx : Nat) (payload : List Byte) (k : Nat) :
    ((s.append kind source ctx payload).core k).windows.map Window.frame = (s.core k).windows.map Window.frame ∧
      (s.append kind source ctx payload).core k = { s.core k with windows := ((s.append kind source ctx payload).core k).windows } := by
  rw [append_eq]
  split
  · exact ⟨rfl, rfl⟩
  · have hk : ∀ (u : State) (a : Nat) (bs : List Byte), (u.homeWrite a bs).core k = Core.dropFills a bs.length (u.core k) :=
      fun u a bs => core_map (s := u) (f := Core.dropFills a bs.length) (fun _ => rfl) (fun _ => rfl) k
    rw [hk]
    exact ⟨(dropFills_frame _ _ _).2, rfl⟩

/-- The host holds no copy of the place of the next entry, if there is a ring (R432). -/
def State.logFree (s : State) : Prop := s.island.ringSize ≠ 0 → s.hostFree s.auditPlace 64 = true

/-- Then nothing of the host's is taken back by an append. -/
theorem hostLost_append {s t : State} (h : s.logFree)
    (ht : t.dirs = if s.island.ringSize = 0 then s.dirs else s.dirs.map (DirEntry.written s.auditPlace 64)) : s.hostLost t = none := by
  by_cases hr : s.island.ringSize = 0
  · exact hostLost_of_dirs (by simpa [hr] using ht)
  · rw [if_neg hr] at ht
    exact hostLost_map ht fun d hd hh => by simp [DirEntry.written_hostFree (h hr) hd hh]

theorem eq_of_nodup_map {α β : Type} {f : α → β} {l : List α} (h : (l.map f).Nodup) {x y : α} (hx : x ∈ l) (hy : y ∈ l)
    (hf : f x = f y) : x = y := by
  induction l with
  | nil => cases hx
  | cons a l ih =>
    obtain ⟨ha, hl⟩ := List.nodup_cons.mp h
    obtain rfl | hxl := List.mem_cons.mp hx <;> obtain rfl | hyl := List.mem_cons.mp hy
    · rfl
    · exact absurd (hf ▸ List.mem_map_of_mem hyl) ha
    · exact absurd (hf ▸ List.mem_map_of_mem hxl) ha
    · exact ih hl hxl hyl

/-- A write of bytes that the host holds takes back a copy (R432). -/
theorem hostLost_some {s t : State} {a n : Nat} (hn : (s.dirs.map DirEntry.grain).Nodup) (hf : s.hostFree a n = false)
    (ht : t.dirs = s.dirs.map (DirEntry.written a n)) : ∃ d ∈ s.dirs, (d.hostA = true ∨ d.hostB = true) ∧ s.hostLost t = some d := by
  obtain ⟨d, hd⟩ : ∃ d, s.hostHolds a n = some d := Option.ne_none_iff_exists'.mp fun h => by simp [State.hostFree, h] at hf
  obtain ⟨hmem, hp⟩ := first?_some hd
  obtain ⟨hov, hh⟩ := Bool.and_eq_true_iff.mp hp
  have hgone : (t.dirs.any fun e => e.grain == d.grain && e.hostA == d.hostA && e.hostB == d.hostB) = false := by
    rw [List.any_eq_false, ht]
    intro e he hsame
    obtain ⟨c, hc, rfl⟩ := List.mem_map.mp he
    simp only [Bool.and_eq_true, beq_iff_eq] at hsame
    obtain ⟨⟨hg, hA⟩, hB⟩ := hsame
    have hgc : (c.written a n).grain = c.grain := by unfold DirEntry.written; split <;> rfl
    obtain rfl : c = d := eq_of_nodup_map hn hc hmem (hgc.symm.trans hg)
    rw [DirEntry.written, if_pos hov] at hA hB
    rw [← hA, ← hB] at hh
    cases hh
  obtain ⟨x, hx⟩ := exists_first? (p := fun d : DirEntry => (d.hostA || d.hostB) &&
    !(t.dirs.any fun e => e.grain == d.grain && e.hostA == d.hostA && e.hostB == d.hostB)) hmem (by rw [hh, hgone]; rfl)
  obtain ⟨hxm, hxp⟩ := first?_some hx
  exact ⟨x, hxm, Bool.or_eq_true_iff.mp (Bool.and_eq_true_iff.mp hxp).1, hx⟩

theorem awaitHost_snoop {e : Instr} {s t : State} {d : DirEntry} (h : s.hostLost t = some d) :
    awaitHost e s (.next t) = .next ((s.leave (.snoop (if d.hostA then .a else .b) d.grain)).postAgain e) := by
  simp [awaitHost, h]

theorem mem_postAgain {s : State} {e d : Instr} (h : d ∈ s.events) : d ∈ (s.postAgain e).events := by
  simp only [State.postAgain, List.mem_append, List.mem_cons, List.mem_filter]
  cases sameQueue e d with
  | true => exact Or.inr (Or.inr ⟨h, rfl⟩)
  | false => exact Or.inl ⟨h, rfl⟩

theorem self_mem_postAgain (s : State) (e : Instr) : e ∈ (s.postAgain e).events :=
  List.mem_append_right _ List.mem_cons_self

/-- The snoop of a host copy is on its way, and nothing else has changed (R432). -/
theorem leave_snoop (s : State) (p : Port) (g : Nat) :
    s.leave (.snoop p g) = { s with events := (s.leave (.snoop p g)).events } ∧ .backInvalidationAnswer p g ∈ (s.leave (.snoop p g)).events := by
  simp only [State.leave]
  split
  · next h =>
    obtain ⟨e, he, hm⟩ := List.any_eq_true.mp h
    refine ⟨rfl, ?_⟩
    split at hm
    · simp only [Bool.and_eq_true, beq_iff_eq] at hm
      obtain ⟨rfl, rfl⟩ := hm
      exact he
    · cases hm
  · exact ⟨rfl, by simp [State.post]⟩

/-- An event that writes what the host holds comes back with a snoop before it (R432). -/
theorem awaitHost_waits {i : Instr} {s t : State} {a n : Nat} (hn : (s.dirs.map DirEntry.grain).Nodup) (hf : s.hostFree a n = false)
    (ht : t.dirs = s.dirs.map (DirEntry.written a n)) : ∃ u, awaitHost i s (.next t) = .next u ∧ u = { s with events := u.events } ∧
      i ∈ u.events ∧ ∃ d ∈ s.dirs, (d.hostA = true ∨ d.hostB = true) ∧ .backInvalidationAnswer (if d.hostA then .a else .b) d.grain ∈ u.events := by
  obtain ⟨d, hd, hh, hl⟩ := hostLost_some hn hf ht
  obtain ⟨hkeep, hsent⟩ := leave_snoop s (if d.hostA then .a else .b) d.grain
  refine ⟨_, awaitHost_snoop hl, ?_, self_mem_postAgain _ _, d, hd, hh, mem_postAgain hsent⟩
  rw [hkeep]
  rfl

/-! Measurements (R471). -/

/-- Measurement register `i` extended by `d`. -/
def State.measured (s : State) (i : Nat) (d : BitVec 512) (h : i < 48) : State :=
  { s with island := { s.island with mr := s.island.mr.set i (Config.sha512 (islandBytes s.island.mr[i] ++ islandBytes d)) } }

theorem measured_mr (s : State) {i j : Nat} (d : BitVec 512) (h : i < 48) (g : j < 48) : (s.measured i d h).island.mr[j] =
    if j = i then Config.sha512 (islandBytes s.island.mr[i] ++ islandBytes d) else s.island.mr[j] := by
  rw [State.measured, Vector.getElem_set]
  by_cases hj : j = i
  · subst hj; simp
  · simp [hj, Ne.symm hj]

theorem extend_eq (s : State) {die reg : Nat} (h : die < 6 ∧ reg < 8) (d : BitVec 512) : s.extend die reg d =
    (s.measured (8 * die + reg) d (by omega)).append 6 0xFFFF 0 (leBytes 8 (8 * die + reg) ++ (islandBytes d).take 32) := by
  simp only [State.extend, dif_pos h]
  rfl

theorem extend_dirs (s : State) {die reg : Nat} (h : die < 6 ∧ reg < 8) (d : BitVec 512) : (s.extend die reg d).dirs =
    if s.island.ringSize = 0 then s.dirs else s.dirs.map (DirEntry.written s.auditPlace 64) := by
  rw [extend_eq s h, append_dirs]
  rfl

theorem extend_mr (s : State) {die reg : Nat} (h : die < 6 ∧ reg < 8) (d : BitVec 512) {j : Nat} (g : j < 48) :
    (s.extend die reg d).island.mr[j] =
      if j = 8 * die + reg then Config.sha512 (islandBytes s.island.mr[j] ++ islandBytes d) else s.island.mr[j] := by
  have hmr : (s.extend die reg d).island.mr = (s.measured (8 * die + reg) d (by omega)).island.mr := by rw [extend_eq s h, append_island]
  simp only [hmr, measured_mr]
  by_cases hj : j = 8 * die + reg
  · subst hj; rfl
  · simp only [hj, if_false]

/-! Reports (R474). -/

/-- The part of a list behind a part of known length. -/
theorem take_drop_append {α : Type} (x y z : List α) {i n : Nat} (hx : x.length = i) (hy : y.length = n) :
    ((x ++ (y ++ z)).drop i).take n = y := by
  rw [List.drop_left' hx, List.take_left' hy]

/-- Row `j` of rows of one length. -/
theorem take_drop_flatMap {α β : Type} {f : α → List β} {m : Nat} (hf : ∀ x, (f x).length = m) (l : List α) (z : List β) {j : Nat}
    (h : j < l.length) : ((l.flatMap f ++ z).drop (m * j)).take m = f l[j] := by
  induction l generalizing j with
  | nil => cases h
  | cons x xs ih =>
    cases j with
    | zero => simpa using List.take_left' (hf x)
    | succ j =>
      rw [List.flatMap_cons, List.append_assoc, Nat.mul_succ, Nat.add_comm, ← List.drop_drop, List.drop_left' (hf x)]
      exact ih (by simpa using h)

@[simp] theorem length_islandBytes (x : BitVec 512) : (islandBytes x).length = 64 := length_leBytes 64 _

theorem length_flatMap_islandBytes (l : List (BitVec 512)) : (l.flatMap islandBytes).length = 64 * l.length := by
  induction l with
  | nil => rfl
  | cons x xs ih => rw [List.flatMap_cons, List.length_append, ih, length_islandBytes, List.length_cons, Nat.mul_succ, Nat.add_comm]

/-- The measurement registers in a report. -/
theorem length_registers (s : State) : (s.island.mr.toList.flatMap islandBytes).length = 0xC00 := by
  rw [length_flatMap_islandBytes, Vector.length_toList]

/-- What stands in a report before the nonce: its version, the part and its revision. -/
def reportHead : List Byte := leBytes 8 1 ++ [0x41, 0x4D, 0x59, 0x2D, 0x36] ++ List.replicate 11 0 ++ leBytes 4 0x00010000 ++ List.replicate 4 0

theorem length_reportHead : reportHead.length = 0x20 := rfl

/-- A report, part by part (R474). -/
theorem reportBytes_eq (s : State) (nonce : BitVec 512) :
    s.reportBytes nonce = reportHead ++ (islandBytes nonce ++ (s.island.mr.toList.flatMap islandBytes ++ (islandBytes s.island.head ++
      (leBytes 8 s.island.seq.toNat ++ (leBytes 8 s.retireSummary ++
        ((leBytes 66 (Config.signature (Config.sha512 (s.reportBody nonce))).1.toNat).reverse ++
          (leBytes 66 (Config.signature (Config.sha512 (s.reportBody nonce))).2.toNat).reverse)))))) := by
  simp only [State.reportBytes, State.reportBody, reportHead, List.append_assoc]

theorem length_reportBody (s : State) (nonce : BitVec 512) : (s.reportBody nonce).length = 0xCB0 := by
  simp only [State.reportBody, List.length_append, length_registers, length_islandBytes, length_leBytes, List.length_cons, List.length_nil,
    List.length_replicate]

theorem length_reportBytes (s : State) (nonce : BitVec 512) : (s.reportBytes nonce).length = 0xCB0 + 132 := by
  simp [State.reportBytes, length_reportBody]

theorem take_reportBytes (s : State) (nonce : BitVec 512) : (s.reportBytes nonce).take 0xCB0 = s.reportBody nonce := by
  simp only [State.reportBytes, List.append_assoc]
  exact List.take_left' (length_reportBody s nonce)

/-- Where each part of a report stands (R474). -/
theorem reportBytes_parts (s : State) (nonce : BitVec 512) :
    let r := s.reportBytes nonce
    r.take 8 = leBytes 8 1 ∧ (r.drop 0x20).take 64 = islandBytes nonce ∧
      (∀ j, (h : j < 48) → (r.drop (0x60 + 64 * j)).take 64 = islandBytes s.island.mr[j]) ∧
      (r.drop 0xC60).take 64 = islandBytes s.island.head ∧ (r.drop 0xCA0).take 8 = leBytes 8 s.island.seq.toNat := by
  intro r
  have hr : r = _ := reportBytes_eq s nonce
  have hnonce : (reportHead ++ islandBytes nonce).length = 0x60 := by rw [List.length_append, length_reportHead, length_islandBytes]
  have hrows : ((reportHead ++ islandBytes nonce) ++ s.island.mr.toList.flatMap islandBytes).length = 0xC60 := by
    rw [List.length_append, hnonce, length_registers]
  have hhead : (((reportHead ++ islandBytes nonce) ++ s.island.mr.toList.flatMap islandBytes) ++ islandBytes s.island.head).length = 0xCA0 := by
    rw [List.length_append, hrows, length_islandBytes]
  refine ⟨?_, ?_, fun j h => ?_, ?_, ?_⟩
  · rw [hr]
    simp only [reportHead, List.append_assoc]
    exact List.take_left' (length_leBytes 8 1)
  · rw [hr]
    exact take_drop_append _ _ _ length_reportHead (length_islandBytes nonce)
  · rw [hr, ← List.append_assoc, ← List.drop_drop, List.drop_left' hnonce]
    rw [take_drop_flatMap length_islandBytes _ _ (by simpa using h), Vector.getElem_toList]
  · rw [hr, ← List.append_assoc, ← List.append_assoc]
    exact take_drop_append _ _ _ hrows (length_islandBytes _)
  · rw [hr, ← List.append_assoc, ← List.append_assoc, ← List.append_assoc]
    exact take_drop_append _ _ _ hhead (length_leBytes 8 _)

/-- Behind its body stands the signature of the body's digest, each half with its highest byte first (R474). -/
theorem reportBytes_signature (s : State) (nonce : BitVec 512) :
    let r := s.reportBytes nonce
    let sig := Config.signature (Config.sha512 (r.take 0xCB0))
    (r.drop 0xCB0).take 66 = (leBytes 66 sig.1.toNat).reverse ∧ r.drop (0xCB0 + 66) = (leBytes 66 sig.2.toNat).reverse := by
  intro r sig
  have hsig : sig = Config.signature (Config.sha512 (s.reportBody nonce)) := by rw [← take_reportBytes]
  have hr : r = s.reportBody nonce ++ ((leBytes 66 sig.1.toNat).reverse ++ (leBytes 66 sig.2.toNat).reverse) := by
    rw [hsig, ← List.append_assoc]
    rfl
  have hbig : (leBytes 66 sig.1.toNat).reverse.length = 66 := by simp
  constructor
  · rw [hr, List.drop_left' (length_reportBody s nonce), List.take_left' hbig]
  · rw [hr, ← List.drop_drop, List.drop_left' (length_reportBody s nonce), List.drop_left' hbig]

/-- A report that is made: what it is, where it goes, and what is logged (R474). -/
theorem attest_spec (s : State) (nonce : BitVec 512) :
    (s.attest nonce).island.report = s.reportBytes nonce ∧ (s.attest nonce).island.seq = s.island.seq + 1 ∧
      (s.attest nonce).island.mr = s.island.mr ∧ (s.attest nonce).cpu = s.cpu ∧ (s.attest nonce).others = s.others ∧
      (s.island.booted = true → s.island.ringSize = 0 → (s.attest nonce).mem = Memory.writes s.mem s.island.mbox (s.reportBytes nonce)) := by
  unfold State.attest
  dsimp only
  cases hb : s.island.booted with
  | false => simp
  | true => exact ⟨by simp, by simp, by simp, by simp, by simp, fun _ hr => by rw [append_mem]; simp [hr]⟩

end Sys2Proof.Machine
end

section
/-!
SUPPORT. Reset (R472, R484, R486): the boot images are measured one after another, and the sluice program is copied to every die.
-/
namespace Sys2Proof.Machine

/-! Measured boot. -/

/-- The state after the boot images `l` have been measured, each into its register. -/
def State.bootAll (s : State) (l : List Nat) : State := l.foldl (fun s n => s.bootImage (n / 8) (n % 8) n) s

/-- Register `j` once image `j` has been measured into it. -/
def State.imageMeasured (s : State) (j : Nat) (h : j < 48) : BitVec 512 :=
  Config.sha512 (islandBytes s.island.mr[j] ++ islandBytes (Config.imageDigest j))

/-- `t` is `s` after the measurement of the images `l`: the registers of the images, the audit log and the recovery flag have changed. -/
structure Measures (l : List Nat) (s t : State) : Prop where
  frame : t = { s with island := { s.island with mr := t.island.mr, head := t.island.head, seq := t.island.seq, recovery := t.island.recovery } }
  seq : t.island.seq = s.island.seq + BitVec.ofNat 64 l.length
  recovery : t.island.recovery = (s.island.recovery || l.any fun n => !Config.imageVerifies n)
  mr : ∀ j, (h : j < 48) → t.island.mr[j] = if j ∈ l then s.imageMeasured j h else s.island.mr[j]

theorem Measures.ringSize {l : List Nat} {s t : State} (h : Measures l s t) : t.island.ringSize = s.island.ringSize := by rw [h.frame]

@[simp] theorem measured_ringSize (s : State) (i : Nat) (d : BitVec 512) (h : i < 48) : (s.measured i d h).island.ringSize = s.island.ringSize := rfl

theorem measures_nil (s : State) : Measures [] s s := ⟨rfl, by simp, by simp, by simp⟩

theorem measures_bootImage {s : State} {n : Nat} (hr : s.island.ringSize = 0) (hn : n < 48) :
    Measures [n] s (s.bootImage (n / 8) (n % 8) n) := by
  obtain ⟨u, hu⟩ : ∃ u, u = s.extend (n / 8) (n % 8) (Config.imageDigest n) := ⟨_, rfl⟩
  have hboot : s.bootImage (n / 8) (n % 8) n = if Config.imageVerifies n then u else { u with island := { u.island with recovery := true } } := by
    rw [hu]; rfl
  have hidx : 8 * (n / 8) + n % 8 = n := Nat.div_add_mod n 8
  rw [extend_eq s (by omega) _, append_eq, measured_ringSize, if_pos hr] at hu
  have hmr : ∀ j, (h : j < 48) → u.island.mr[j] = if j ∈ [n] then s.imageMeasured j h else s.island.mr[j] := by
    intro j h
    subst hu
    refine (measured_mr s (Config.imageDigest n) (by omega) h).trans ?_
    simp only [hidx, List.mem_singleton]
    by_cases hj : j = n
    · subst hj; simp only [if_true, State.imageMeasured]
    · simp only [hj, if_false]
  have hframe : u = { s with island := { s.island with mr := u.island.mr, head := u.island.head, seq := s.island.seq + 1 } } := by
    subst hu; rfl
  rw [hboot]
  cases hv : Config.imageVerifies n with
  | true => exact ⟨by rw [if_pos rfl, hframe], by rw [if_pos rfl, hframe]; rfl, by rw [if_pos rfl, hframe]; simp [hv], hmr⟩
  | false => exact ⟨by rw [if_neg nofun, hframe], by rw [if_neg nofun, hframe]; rfl, by simp [hv], hmr⟩

theorem Measures.cons {n : Nat} {l : List Nat} {s u t : State} (h : Measures [n] s u) (g : Measures l u t) (hn : n ∉ l) : Measures (n :: l) s t := by
  refine ⟨?_, ?_, ?_, fun j hj => ?_⟩
  · rw [g.frame, h.frame]
  · rw [g.seq, h.seq, List.length_singleton, List.length_cons, Nat.add_comm, BitVec.add_assoc, ← BitVec.ofNat_add]
  · rw [g.recovery, h.recovery]; simp [Bool.or_assoc]
  · rw [g.mr j hj]
    have hu := h.mr j hj
    by_cases hjn : j = n
    · subst hjn
      simpa [hn] using hu
    · simp only [List.mem_singleton, hjn, if_false] at hu
      simp [hjn, State.imageMeasured, hu]

theorem measures_bootAll {l : List Nat} {s : State} (hr : s.island.ringSize = 0) (hl : ∀ n ∈ l, n < 48) (hd : l.Nodup) :
    Measures l s (s.bootAll l) := by
  induction l generalizing s with
  | nil => exact measures_nil s
  | cons n l ih =>
    obtain ⟨hn, hd⟩ := List.nodup_cons.mp hd
    have hfirst := measures_bootImage hr (hl n List.mem_cons_self)
    exact hfirst.cons (ih (hfirst.ringSize.trans hr) (fun x hx => hl x (List.mem_cons_of_mem _ hx)) hd) hn

/-! The sluice program (R486). -/

/-- The bytes of the standard sluice program. -/
def programBytes : List Byte := standardProgram.flatMap fun (h : Half) => leBytes 2 h.toNat

theorem length_programBytes : programBytes.length = 24 := by decide

/-- Memory once the code stores of the dies `ds` hold the standard sluice program. -/
def programmed (m : List Host.Cell) (ds : List Nat) : List Host.Cell := ds.foldl (fun m d => Memory.writes m (sluiceKey d 0) programBytes) m

theorem programmed_cons (m : List Host.Cell) (d : Nat) (ds : List Nat) :
    programmed m (d :: ds) = programmed (Memory.writes m (sluiceKey d 0) programBytes) ds := by
  simp only [programmed, List.foldl_cons]

theorem lookup_programmed_out {x : Nat} {ds : List Nat} (hx : ∀ d ∈ ds, x < sluiceKey d 0 ∨ sluiceKey d 0 + 24 ≤ x) (m : List Host.Cell) :
    Memory.lookup (programmed m ds) x = Memory.lookup m x := by
  induction ds generalizing m with
  | nil => rfl
  | cons d ds ih =>
    rw [programmed_cons, ih fun e he => hx e (List.mem_cons_of_mem _ he)]
    exact Memory.lookup_writes_out m _ _ (length_programBytes.symm ▸ hx d List.mem_cons_self)

theorem reads_programmed (d : Nat) (ds : List Nat) (m : List Host.Cell) :
    Memory.reads (programmed m ds) (sluiceKey d 0) 24 = if d ∈ ds then programBytes else Memory.reads m (sluiceKey d 0) 24 := by
  induction ds generalizing m with
  | nil => rfl
  | cons e ds ih =>
    rw [programmed_cons, ih]
    by_cases hd : d ∈ ds
    · simp [hd]
    · rw [if_neg hd]
      by_cases he : d = e
      · subst he
        rw [if_pos List.mem_cons_self]
        exact length_programBytes ▸ Memory.reads_writes m _ programBytes
      · rw [if_neg (by simp [hd, he])]
        refine Memory.reads_congr fun x h1 h2 => Memory.lookup_writes_out m _ _ ?_
        rw [length_programBytes]
        simp only [sluiceKey] at *
        omega

/-! The reset. -/

/-- The addresses whose memory is not the device's: the host's, and what lies beyond. -/
def notDevice (x : Nat) : Bool := (decide (2 ^ 52 ≤ x) && decide (x < 2 ^ 53)) || decide (2 ^ 56 ≤ x)

theorem notDevice_iff {x : Nat} : notDevice x = true ↔ (2 ^ 52 ≤ x ∧ x < 2 ^ 53) ∨ 2 ^ 56 ≤ x := by
  simp only [notDevice, Bool.or_eq_true, Bool.and_eq_true, decide_eq_true_eq]

/-- The state from which the ROMs boot. -/
def State.cold (s : State) : State :=
  { State.reset with
    retired := addUnits s.retired s.failing
    mem := s.mem.filter fun x => notDevice x.1
    bad := s.bad.filter fun k => notDevice (32 * k)
    grants := s.grants
    events := s.events.filter fromOutside
    island := { Island.fresh with spares := s.island.spares, reported := s.island.reported }
    picks := s.picks
    free := s.free
    answers := s.answers }

/-- The boot images in the order in which they are measured before the sluice program is copied, and the last. -/
def firstImages : List Nat := [0, 1, 8, 9, 16, 17, 24, 25, 32, 33, 40, 41, 2, 3]

/-- The state with the sluice program in every code store, if its image is verified. -/
def State.sluiced (s : State) : State := if Config.imageVerifies 3 then { s with mem := programmed s.mem (upTo 6) } else s

theorem boot_eq (s : State) : s.boot = (s.bootAll firstImages).sluiced.bootAll [4] := by
  have h : upTo 6 = [0, 1, 2, 3, 4, 5] := rfl
  simp only [State.boot, State.bootAll, State.sluiced, programmed, programBytes, firstImages, h, List.foldl_cons, List.foldl_nil]

theorem sluiced_fields (s : State) : s.sluiced = { s with mem := s.sluiced.mem } := by
  unfold State.sluiced
  generalize programmed s.mem (upTo 6) = m
  split <;> rfl

theorem sluiced_mem (s : State) : s.sluiced.mem = if Config.imageVerifies 3 then programmed s.mem (upTo 6) else s.mem := by
  unfold State.sluiced
  split <;> dsimp only

/-- The same measurements in a state with another memory. -/
theorem Measures.of_mem {l : List Nat} {s t : State} {m : List Host.Cell} (h : Measures l { s with mem := m } t) :
    Measures l s { t with mem := s.mem } :=
  ⟨by rw [h.frame], h.seq, h.recovery, h.mr⟩

theorem Measures.append {l k : List Nat} {s u t : State} (h : Measures l s u) (g : Measures k u t) (hd : ∀ n ∈ l, n ∉ k) :
    Measures (l ++ k) s t := by
  refine ⟨?_, ?_, ?_, fun j hj => ?_⟩
  · rw [g.frame, h.frame]
  · rw [g.seq, h.seq, List.length_append, BitVec.add_assoc, ← BitVec.ofNat_add]
  · rw [g.recovery, h.recovery, List.any_append, Bool.or_assoc]
  · have hu := h.mr j hj
    rw [g.mr j hj]
    by_cases hjl : j ∈ l
    · simpa [hjl, hd j hjl] using hu
    · simp only [hjl, if_false] at hu
      simp [hjl, State.imageMeasured, hu]

/-- A boot measures every image and copies the program. -/
theorem boot_spec {s : State} (hr : s.island.ringSize = 0) : Measures (firstImages ++ [4]) s { s.boot with mem := s.mem } ∧
    s.boot.mem = if Config.imageVerifies 3 then programmed s.mem (upTo 6) else s.mem := by
  obtain ⟨u, hu⟩ : ∃ u, u = s.bootAll firstImages := ⟨_, rfl⟩
  have h1 : Measures firstImages s u := hu ▸ measures_bootAll hr (by decide) (by decide)
  have hsize : u.sluiced.island.ringSize = 0 := by
    rw [sluiced_fields]
    exact h1.ringSize.trans hr
  have h2 : Measures [4] u.sluiced s.boot := by
    rw [boot_eq, ← hu]
    exact measures_bootAll hsize (by decide) (by decide)
  have humem : u.mem = s.mem := by rw [h1.frame]
  constructor
  · rw [sluiced_fields] at h2
    rw [← humem]
    exact h1.append h2.of_mem (by decide)
  · rw [h2.frame]
    exact (sluiced_mem u).trans (by rw [humem])

theorem mem_addUnits (l m : List TestUnit) (x : TestUnit) : x ∈ addUnits l m ↔ x ∈ l ∨ x ∈ m := by
  induction m generalizing l with
  | nil => simp [addUnits]
  | cons u us ih =>
    rw [addUnits, ih]
    by_cases hu : u ∈ l
    · by_cases hx : x = u <;> simp_all
    · simp [hu, or_assoc]

theorem lookup_cold (s : State) (a : Nat) : Memory.lookup s.cold.mem a = if notDevice a then Memory.lookup s.mem a else 0 :=
  Memory.lookup_filter s.mem notDevice a

/-- Memory after a reset, away from the code stores. -/
theorem lookup_boot_cold (s : State) {a : Nat} (h : a < 2 ^ 53 ∨ 2 ^ 54 ≤ a) :
    Memory.lookup s.cold.boot.mem a = if notDevice a then Memory.lookup s.mem a else 0 := by
  rw [(boot_spec (s := s.cold) rfl).2, ← lookup_cold]
  split
  · refine lookup_programmed_out (fun d hd => ?_) _
    have hlt : d < 6 := List.mem_range.mp hd
    simp only [sluiceKey]
    omega
  · dsimp only

theorem reads_zero {m : List Host.Cell} {a n : Nat} (h : ∀ x, a ≤ x → x < a + n → Memory.lookup m x = 0) :
    Memory.reads m a n = List.replicate n 0 := by
  induction n generalizing a with
  | zero => rfl
  | succ n ih => rw [Memory.reads, h a (by omega) (by omega), ih fun x h1 h2 => h x (by omega) (by omega), List.replicate_succ]

/-- The code store of die `d` after a reset (R486). -/
theorem reads_boot_cold (s : State) {d : Nat} (hd : d < 6) :
    Memory.reads s.cold.boot.mem (sluiceKey d 0) 24 = if Config.imageVerifies 3 then programBytes else List.replicate 24 0 := by
  rw [(boot_spec (s := s.cold) rfl).2]
  split
  · rw [reads_programmed, if_pos (show d ∈ upTo 6 from List.mem_range.mpr hd)]
  · refine reads_zero fun x h1 h2 => ?_
    rw [lookup_cold, if_neg]
    rw [notDevice_iff]
    simp only [sluiceKey] at h1 h2
    omega

theorem coldReset_next (s : State) : exec .coldReset s = .next s.cold.boot := rfl

/-- Everything that a reset changes is as in `State.cold`, apart from the island and memory. -/
theorem boot_cold_fields (s : State) :
    s.cold.boot = { s.cold with
      island := { s.cold.island with mr := s.cold.boot.island.mr, head := s.cold.boot.island.head, seq := s.cold.boot.island.seq
                                     recovery := s.cold.boot.island.recovery }
      mem := s.cold.boot.mem } := by
  obtain ⟨t, ht⟩ : ∃ t, t = s.cold.boot := ⟨_, rfl⟩
  have h := (boot_spec (s := s.cold) rfl).1.frame
  rw [← ht] at h ⊢
  have hm : t = { ({ t with mem := s.cold.mem } : State) with mem := t.mem } := rfl
  rw [hm, h]

theorem leBytes_zero (n : Nat) : leBytes n 0 = List.replicate n 0 := by
  induction n with
  | zero => rfl
  | succ n ih => rw [leBytes, Nat.zero_div, ih, List.replicate_succ]; rfl

/-- Which registers hold a boot image: the two firmware images of each die, and the other three of die 0 (R472). -/
theorem mem_bootImages {j : Nat} (h : j < 48) : j ∈ firstImages ++ [4] ↔ j % 8 ≤ 1 ∨ j ≤ 4 := by
  revert j
  decide

theorem mr_boot_cold (s : State) {j : Nat} (h : j < 48) : s.cold.boot.island.mr[j] = if j % 8 ≤ 1 ∨ j ≤ 4
    then Config.sha512 (List.replicate 64 0 ++ leBytes 64 (Config.imageDigest j).toNat) else 0 := by
  have hfresh : s.cold.island.mr[j] = 0 := Vector.getElem_replicate h
  have hzero : islandBytes 0 = List.replicate 64 0 := (congrArg (leBytes 64) BitVec.toNat_zero).trans (leBytes_zero 64)
  have hmr := (boot_spec (s := s.cold) rfl).1.mr j h
  simp only [mem_bootImages h, State.imageMeasured, hfresh, hzero] at hmr
  exact hmr

theorem recovery_boot_cold (s : State) : s.cold.boot.island.recovery = true ↔
    ∃ n ∈ [2, 3, 4, 0, 1, 8, 9, 16, 17, 24, 25, 32, 33, 40, 41], Config.imageVerifies n = false := by
  have himages (n : Nat) : n ∈ firstImages ++ [4] ↔ n ∈ [2, 3, 4, 0, 1, 8, 9, 16, 17, 24, 25, 32, 33, 40, 41] :=
    (show (firstImages ++ [4]).Perm [2, 3, 4, 0, 1, 8, 9, 16, 17, 24, 25, 32, 33, 40, 41] by decide).mem_iff
  have hrec : s.cold.boot.island.recovery = (firstImages ++ [4]).any fun n => !Config.imageVerifies n :=
    (boot_spec (s := s.cold) rfl).1.recovery.trans (Bool.false_or _)
  simp only [hrec, List.any_eq_true, himages, Bool.not_eq_true']

theorem seq_boot_cold (s : State) : s.cold.boot.island.seq = 15 := (boot_spec (s := s.cold) rfl).1.seq

end Sys2Proof.Machine
end

section
/-!
SUPPORT. Self-test (R478, R479): what a verdict does to the units, and what a failed core does to its threads.
-/
namespace Sys2Proof.Machine

/-! What a failed unit gives up. -/

theorem dropL1_foldl_fields (l : List Nat) (k : Nat) (s : State) :
    let t := l.foldl (fun (s : State) a => s.dropL1 k a) s
    t = { s with tracked := t.tracked, dirs := t.dirs, copies := t.copies } := by
  induction l generalizing s with
  | nil => rfl
  | cons a l ih =>
    rw [List.foldl_cons]
    intro t
    rw [show t = _ from ih (s.dropL1 k a)]
    rfl

/-- A way that failed empties its set: only caches change (R478). -/
theorem emptySet_fields (s : State) (x set way : Nat) :
    let t := s.emptySet x set way
    t = { s with tracked := t.tracked, dirs := t.dirs, copies := t.copies, cores := t.cores, l2 := t.l2 } := by
  intro t
  rw [show t = s.emptySet x set way from rfl]
  unfold State.emptySet
  split
  · rw [dropL1_foldl_fields]
  · split
    · rfl
    · split
      · split <;> rfl
      · rfl

/-- The bank has a spare row left (R478). -/
def State.hasSpare (s : State) (u : TestUnit) : Prop :=
  ∃ d b, u = .bank d b ∧ assocD 0 (d, b) s.island.spares ≤ Config.furtherSpareRows (64 * d + b)

theorem fail_known {s : State} {u : TestUnit} (h : u ∈ s.retired ∨ u ∈ s.failing) : s.fail u = s := by
  unfold State.fail
  rw [if_pos (by simpa using h)]

theorem fail_spare {s : State} {d b : Nat} (hr : .bank d b ∉ s.retired) (hf : .bank d b ∉ s.failing) (h : s.hasSpare (.bank d b)) :
    s.fail (.bank d b) =
      { s with island := { s.island with spares := assocSet (d, b) (assocD 0 (d, b) s.island.spares + 1) s.island.spares } } := by
  obtain ⟨d', b', heq, hle⟩ := h
  cases heq
  unfold State.fail
  rw [if_neg (by simp [hr, hf])]
  exact if_pos hle

/-- A lasting fault of a unit that no spare row replaces (R478, R479). -/
theorem fail_lasting {s : State} {u : TestUnit} (hr : u ∉ s.retired) (hf : u ∉ s.failing) (h : ¬s.hasSpare u) :
    let t := s.fail u
    t.failing = s.failing ++ [u] ∧ t.retired = s.retired ∧ t.cpu = s.cpu ∧ t.others = s.others ∧ t.island.seq = s.island.seq ∧
      t.unitInUse u = s.unitInUse u ∧ (∀ d b, u = .bank d b → t.island.reported = s.island.reported ++ [(d, b)]) ∧
      ∀ k, u = .core k → ∀ x ∈ s.threads, x.isRill = false → x.coreId = k → x.id ∈ t.halting := by
  intro t
  have ht : t = s.fail u := rfl
  unfold State.fail at ht
  rw [if_neg (by simp [hr, hf])] at ht
  cases u with
  | bank d b =>
    have hle : ¬assocD 0 (d, b) s.island.spares ≤ Config.furtherSpareRows (64 * d + b) := fun hle => h ⟨d, b, rfl, hle⟩
    dsimp only at ht
    rw [if_neg hle] at ht
    rw [ht]
    refine ⟨rfl, rfl, rfl, rfl, rfl, rfl, fun d' b' heq => ?_, nofun⟩
    cases heq
    rfl
  | way x set way =>
    dsimp only at ht
    rw [emptySet_fields] at ht
    rw [ht]
    exact ⟨rfl, rfl, rfl, rfl, rfl, rfl, nofun, nofun⟩
  | core k =>
    rw [ht]
    refine ⟨rfl, rfl, rfl, rfl, rfl, rfl, nofun, fun k' heq x hx hrill hcore => ?_⟩
    cases heq
    refine List.mem_append_right _ (List.mem_map.mpr ⟨x, List.mem_filter.mpr ⟨hx, ?_⟩, rfl⟩)
    simp [hrill, hcore]
  | row k j | vec k j | line k j | lane l n | matrix c => rw [ht]; exact ⟨rfl, rfl, rfl, rfl, rfl, rfl, nofun, nofun⟩

theorem append_usersOf (s : State) (kind source ctx : Nat) (payload : List Byte) (k : Nat) :
    (s.append kind source ctx payload).usersOf k = s.usersOf k := by
  simp only [State.usersOf, State.threads, append_cpu, append_others]

theorem any_windows_congr {l m : List Window} (h : l.map Window.frame = m.map Window.frame) (j : Nat) :
    (l.any fun w => decide (w.f ≤ j) && decide (j < w.f + w.n)) = m.any fun w => decide (w.f ≤ j) && decide (j < w.f + w.n) := by
  have hframe (x : List Window) : (x.any fun w => decide (w.f ≤ j) && decide (j < w.f + w.n)) =
      (x.map Window.frame).any fun w => decide (w.f ≤ j) && decide (j < w.f + w.n) := by rw [List.any_map]; rfl
  rw [hframe l, hframe m, h]

/-- Whether a unit is in use is not a matter of the log. -/
theorem append_unitInUse (s : State) (kind source ctx : Nat) (payload : List Byte) (u : TestUnit) :
    (s.append kind source ctx payload).unitInUse u = s.unitInUse u := by
  cases u with
  | row k j | vec k j | core k => simp only [State.unitInUse, append_usersOf]
  | line k j =>
    obtain ⟨hw, hc⟩ := append_core s kind source ctx payload k
    simp only [State.unitInUse, any_windows_congr hw j]
    rw [hc]
  | matrix c =>
    simp only [State.unitInUse]
    congr 1
    funext j
    rw [(append_core s kind source ctx payload (8 * c + j)).2]
  | way x i w | bank d b | lane l n => rfl

/-! The verdict. -/

theorem retireIdle_union (s : State) (x : TestUnit) : x ∈ s.retireIdle.retired ∨ x ∈ s.retireIdle.failing ↔ x ∈ s.retired ∨ x ∈ s.failing := by
  simp only [State.retireIdle, mem_addUnits, List.mem_filter]
  cases s.unitInUse x <;> simp

/-- A unit of those failing is retired once it is not in use (R479). -/
theorem retireIdle_failing {s : State} {u : TestUnit} (h : u ∈ s.failing) :
    (u ∈ s.retireIdle.failing ↔ s.unitInUse u = true) ∧ (s.unitInUse u = false → u ∈ s.retireIdle.retired) := by
  simp only [State.retireIdle, mem_addUnits, List.mem_filter]
  exact ⟨⟨And.right, And.intro h⟩, fun hu => Or.inr ⟨h, by rw [hu]; rfl⟩⟩

/-- The state in which a verdict has been logged. -/
def State.verdictLogged (s : State) (u : TestUnit) (pass : Bool) : State :=
  s.append 5 (unitSource u) 0 (leBytes 8 (unitCode u).1 ++ leBytes 8 (unitCode u).2 ++ leBytes 8 (if pass then 0 else 1))

theorem selfTestVerdict_next {s : State} (h : s.hostless) (u : TestUnit) (pass : Bool) :
    exec (.selfTestVerdict u pass) s = .next (s.verdict u pass) :=
  awaitHost_next (hostLost_of_hostless h _)

theorem verdict_fail (s : State) (u : TestUnit) : s.verdict u false = ((s.verdictLogged u false).fail u).retireIdle := rfl

theorem selfTestVerdict_pass {s : State} (h : s.hostless) (u : TestUnit) : ∃ t, exec (.selfTestVerdict u true) s = .next t ∧
    t.island.transients = assocSet u (assocD 0 u s.island.transients + 1) s.island.transients ∧ t.island.seq = s.island.seq + 1 ∧
    t.retired = s.retired ∧ t.failing = s.failing ∧ t.cpu = s.cpu ∧ t.others = s.others := by
  have ht : s.verdict u true = { s.verdictLogged u true with
    island := { (s.verdictLogged u true).island with
      transients := assocSet u (assocD 0 u (s.verdictLogged u true).island.transients + 1) (s.verdictLogged u true).island.transients } } := rfl
  refine ⟨_, selfTestVerdict_next h u true, ?_⟩
  rw [ht, State.verdictLogged]
  simp

theorem selfTestVerdict_known {s : State} (h : s.hostless) {u : TestUnit} (hu : u ∈ s.retired ∨ u ∈ s.failing) :
    ∃ t, exec (.selfTestVerdict u false) s = .next t ∧ t.island.seq = s.island.seq + 1 ∧ t.island.spares = s.island.spares ∧
      t.island.reported = s.island.reported ∧ ∀ x, x ∈ t.retired ∨ x ∈ t.failing ↔ x ∈ s.retired ∨ x ∈ s.failing := by
  refine ⟨_, selfTestVerdict_next h u false, ?_⟩
  rw [verdict_fail, fail_known (by simpa [State.verdictLogged] using hu)]
  refine ⟨?_, ?_, ?_, fun x => (retireIdle_union _ x).trans ?_⟩ <;> simp [State.verdictLogged, State.retireIdle]

theorem hasSpare_verdictLogged (s : State) (u v : TestUnit) (pass : Bool) : (s.verdictLogged v pass).hasSpare u ↔ s.hasSpare u := by
  simp [State.hasSpare, State.verdictLogged]

theorem selfTestVerdict_spare {s : State} (h : s.hostless) {d b : Nat} (hr : .bank d b ∉ s.retired) (hf : .bank d b ∉ s.failing)
    (hs : s.hasSpare (.bank d b)) : ∃ t, exec (.selfTestVerdict (.bank d b) false) s = .next t ∧ t.island.seq = s.island.seq + 1 ∧
      t.island.spares = assocSet (d, b) (assocD 0 (d, b) s.island.spares + 1) s.island.spares ∧ t.cpu = s.cpu ∧ t.others = s.others := by
  refine ⟨_, selfTestVerdict_next h _ false, ?_⟩
  rw [verdict_fail, fail_spare (by simpa [State.verdictLogged] using hr) (by simpa [State.verdictLogged] using hf)
    ((hasSpare_verdictLogged s _ _ false).mpr hs)]
  simp [State.verdictLogged, State.retireIdle]

theorem selfTestVerdict_lasting {s : State} (h : s.hostless) {u : TestUnit} (hr : u ∉ s.retired) (hf : u ∉ s.failing) (hs : ¬s.hasSpare u) :
    ∃ t, exec (.selfTestVerdict u false) s = .next t ∧ t.island.seq = s.island.seq + 1 ∧
      (∀ d b, u = .bank d b → t.island.reported = s.island.reported ++ [(d, b)]) ∧ (u ∈ t.retired ∨ u ∈ t.failing) ∧
      (u ∈ t.failing ↔ s.unitInUse u = true) ∧ (s.unitInUse u = false → u ∈ t.retired) ∧ t.cpu = s.cpu ∧ t.others = s.others ∧
      (∀ k, u = .core k → ∀ x ∈ s.threads, x.isRill = false → x.coreId = k → x.id ∈ t.halting) := by
  obtain ⟨v, hv⟩ : ∃ v, v = s.verdictLogged u false := ⟨_, rfl⟩
  have hisland : v.island.seq = s.island.seq + 1 ∧ v.island.reported = s.island.reported := by simp [hv, State.verdictLogged]
  have hthreads : v.threads = s.threads ∧ v.cpu = s.cpu ∧ v.others = s.others := by simp [hv, State.verdictLogged, State.threads]
  have huse : v.unitInUse u = s.unitInUse u := by rw [hv]; exact append_unitInUse s _ _ _ _ u
  obtain ⟨hfail, hret, hcpu, hothers, hseq, hin, hrep, hhalt⟩ := fail_lasting (s := v) (u := u) (by simpa [hv, State.verdictLogged] using hr)
    (by simpa [hv, State.verdictLogged] using hf) (by rwa [hv, hasSpare_verdictLogged])
  have hmem : u ∈ (v.fail u).failing := by rw [hfail]; exact List.mem_append_right _ List.mem_cons_self
  obtain ⟨hkeep, hidle⟩ := retireIdle_failing hmem
  rw [hin, huse] at hkeep hidle
  refine ⟨_, selfTestVerdict_next h u false, ?_⟩
  rw [verdict_fail, ← hv]
  refine ⟨hseq.trans hisland.1, fun d b hu => (hrep d b hu).trans (by rw [hisland.2]), (retireIdle_union _ u).mpr (Or.inr hmem), hkeep, hidle,
    hcpu.trans hthreads.2.1, hothers.trans hthreads.2.2, fun k hu x hx => hhalt k hu x (by rwa [hthreads.1])⟩

/-! A core that failed halts its threads (R50, R479). -/

theorem first?_insertThread (t : Thread) (l : List Thread) : first? (fun u => u.id == t.id) (State.insertThread t l) = some t := by
  induction l with
  | nil => simp [State.insertThread, first?]
  | cons u us ih =>
    simp only [State.insertThread]
    split
    · simp [first?]
    · split
      · simp [first?]
      · next hne =>
        have hid : u.id ≠ t.id := fun h => hne h.symm
        simpa [first?, hid] using ih

theorem thread?_putThread (s : State) {t : Thread} (h : t.state ≠ .free) : (s.putThread t).thread? t.id = some t := by
  unfold State.putThread State.thread?
  by_cases hid : s.cpu.id = t.id
  · simp [hid, h]
  · simp only [hid, if_false]
    exact first?_insertThread t s.others

/-- The thread whose turn it was still holds its slot after the turn goes to another. -/
theorem thread?_focus (s : State) (k : Nat) (h : s.cpu.state ≠ .free) : (s.focus k).thread? s.cpu.id = some s.cpu := by
  have hself : s.thread? s.cpu.id = some s.cpu := by simp [State.thread?, h]
  unfold State.focus
  split
  · exact hself
  · next hk =>
    split
    · exact hself
    · next t ht =>
      have hid : t.id = k := by simpa using (first?_some ht).2
      have hne : t.id ≠ s.cpu.id := by rw [hid]; exact Ne.symm hk
      simp only [State.thread?, hne, if_false]
      exact first?_insertThread s.cpu _

theorem focus_cpu {s : State} {k : Nat} {t : Thread} (h : s.thread? k = some t) : (s.focus k).cpu = t := by
  unfold State.thread? at h
  unfold State.focus
  by_cases hk : s.cpu.id = k
  · simp only [hk, if_true] at h ⊢
    split at h
    · cases h
    · exact Option.some.inj h
  · simp only [hk, if_false] at h ⊢
    rw [h]

theorem focus_fields (s : State) (k : Nat) : s.focus k = { s with cpu := (s.focus k).cpu, others := (s.focus k).others } := by
  unfold State.focus
  split
  · rfl
  · split <;> rfl

/-- A removed thread drains (R92, R228). -/
theorem thread?_removeThread {s : State} {t : Thread} (h : s.thread? t.id = some t) (hs : t.isSluice = false) :
    ∃ v, (s.removeThread t).thread? t.id = some v ∧ v.state = .draining := by
  have hcpu : (s.focus t.id).cpu = t := focus_cpu h
  obtain ⟨u, hu⟩ : ∃ u, u = State.startDrain none (s.focus t.id) := ⟨_, rfl⟩
  have hdrain (x : State) : (State.startDrain none x).cpu.id = x.cpu.id := rfl
  have hid : u.cpu.id = t.id := by rw [hu, hdrain, hcpu]
  have hstate : u.cpu.state = .draining := by rw [hu]; rfl
  refine ⟨u.cpu, ?_, hstate⟩
  rw [State.removeThread, if_neg (by simp [hs]), ← hu, ← hid]
  exact thread?_focus u s.cpu.id (by rw [hstate]; nofun)

theorem removeThread_halting (s : State) (t : Thread) : (s.removeThread t).halting = s.halting := by
  unfold State.removeThread
  split
  · rw [State.putThread_fields]
  · have hfocus (u : State) (k : Nat) : (u.focus k).halting = u.halting := by rw [focus_fields]
    exact (hfocus _ _).trans (hfocus s t.id)

theorem exists_of_isSpillOf {g : Nat} {e : Instr} (h : isSpillOf g e = true) : ∃ w, e = .gangSpill g w := by
  unfold isSpillOf at h
  split at h
  · exact ⟨_, by rw [eq_of_beq h]⟩
  · cases h

/-- What becomes of a ready thread of a failed core: it is saved with its gang, or it drains and is reported (R479). -/
def State.ended (s : State) (t : Thread) : Prop :=
  ∃ v, s.thread? t.id = some v ∧ (v.state = .spilling ∧ (∃ w, .gangSpill t.gang w ∈ s.events) ∨
    v.state = .draining ∧ ∃ n, .notificationRecord n ∈ s.events ∧ n.kind = 1 ∧ n.cause = 0x19 ∧ n.trappc = t.pc)

theorem failThread_ended {s : State} {t : Thread} (h : s.thread? t.id = some t) (hready : t.state = .ready) (hs : t.isSluice = false) :
    (s.failThread t).ended t ∧ (s.failThread t).halting = s.halting := by
  obtain ⟨u, hu⟩ : ∃ u : State, u = { s with weir := s.weir.filter (fun w => w.slot != t.id), free := s.free + 1 } := ⟨_, rfl⟩
  have heq : s.failThread t = if Config.freeBit s.free && !u.unreadable t then
      (let v := u.putThread { t.unwait with state := .spilling }
       if v.events.any (isSpillOf t.gang) then v else v.post (.gangSpill t.gang .preempt))
      else (u.removeThread t).post (.notificationRecord (trapNote t Cause.memerr t.pc 0 0 0 0)) := by
    rw [hu]
    simp [State.failThread, hready, hs]
  have hthread : u.thread? t.id = some t := by rw [hu]; exact h
  have hhalt : u.halting = s.halting := by rw [hu]
  rw [heq, ← hhalt]
  split
  · have hput : (u.putThread { t.unwait with state := .spilling }).thread? t.id = some { t.unwait with state := .spilling } :=
      thread?_putThread u (t := { t.unwait with state := .spilling }) nofun
    have hph : (u.putThread { t.unwait with state := .spilling }).halting = u.halting := by rw [State.putThread_fields]
    dsimp only
    split
    · next hany =>
      obtain ⟨e, he, hspill⟩ := List.any_eq_true.mp hany
      obtain ⟨w, rfl⟩ := exists_of_isSpillOf hspill
      exact ⟨⟨_, hput, Or.inl ⟨rfl, w, he⟩⟩, hph⟩
    · exact ⟨⟨_, hput, Or.inl ⟨rfl, .preempt, List.mem_append_right _ List.mem_cons_self⟩⟩, hph⟩
  · obtain ⟨v, hv, hd⟩ := thread?_removeThread hthread hs
    exact ⟨⟨v, hv, Or.inr ⟨hd, _, List.mem_append_right _ List.mem_cons_self, rfl, rfl, rfl⟩⟩, removeThread_halting u t⟩

/-- A Stalled instruction is completed, and a load is (R50). -/
theorem haltFailed_late {s : State} {t : Thread} (hh : s.halting = [t.id]) (h : s.thread? t.id = some t)
    (ht : t.state = .stalled ∨ t.state = .loading) : s.haltFailed = s := by
  have hs : { s with halting := [t.id] } = s := by rw [← hh]
  obtain ht | ht := ht <;> simp [State.haltFailed, hh, h, ht, hs]

theorem haltFailed_ready {s : State} {t : Thread} (hh : s.halting = [t.id]) (h : s.thread? t.id = some t) (ht : t.state = .ready) :
    s.haltFailed = ({ s with halting := [] } : State).failThread t := by
  have hid : ({ s with halting := [] } : State).thread? t.id = some t := h
  simp [State.haltFailed, hh, h, hid, ht]

end Sys2Proof.Machine
end

section
/-!
SUPPORT. The management path (R3, R401, R402, R428, R434, R436, R438, R443, R473, R481): what each write sets.
-/
namespace Sys2Proof.Machine

theorem first?_mapFirst {α : Type} {p : α → Bool} {f : α → α} (hf : ∀ x, p x = true → p (f x) = true) (l : List α) :
    first? p (mapFirst p f l) = (first? p l).map f := by
  induction l with
  | nil => rfl
  | cons x xs ih =>
    simp only [mapFirst]
    cases hx : p x with
    | true => simp [first?, hx, hf x hx]
    | false => simpa [first?, hx] using ih

theorem vector_set_spec {α : Type} {n : Nat} (v : Vector α n) {i : Nat} (h : i < n) (x : α) {j : Nat} (g : j < n) :
    (v.set i x h)[j] = if j = i then x else v[j] := by
  rw [Vector.getElem_set]
  by_cases hj : j = i
  · rw [if_pos hj, if_pos hj.symm]
  · rw [if_neg hj, if_neg (Ne.symm hj)]

/-- The entry of a group after its write: none when every bit is 0 (R443). -/
theorem first?_group (l : List Group) (n : Nat) (x y : Word) :
    first? (fun e => e.num == n) (if x == 0 && y == 0 then l.filter fun e => e.num != n else { num := n, dw0 := x, dw1 := y } :: l.filter fun e => e.num != n) =
      if x = 0 ∧ y = 0 then none else some { num := n, dw0 := x, dw1 := y } := by
  by_cases h : x = 0 ∧ y = 0
  · obtain ⟨rfl, rfl⟩ := h
    refine (first?_none fun e he => ?_).trans (if_pos ⟨rfl, rfl⟩).symm
    simpa using (List.mem_filter.mp he).2
  · rw [if_neg (by simpa using h), if_neg h]
    simp [first?]

theorem mem_not_names (l : List Export) (p : BitVec 12) (c : Nat) (e : Export) :
    e ∈ l.filter (fun e => !e.names p c) ↔ e ∈ l ∧ ¬(e.peer = p ∧ e.ctx = c) := by
  rw [List.mem_filter, Export.names, Bool.not_eq_true', ← Bool.not_eq_true, Bool.and_eq_true, beq_iff_eq, beq_iff_eq]

/-! The end of bring-up. -/

theorem post_foldl (l : List Nat) (f : Nat → Instr) (s : State) :
    l.foldl (fun (s : State) k => s.post (f k)) s = { s with events := s.events ++ l.map f } := by
  induction l generalizing s with
  | nil => simp
  | cons k l ih => rw [List.foldl_cons, ih]; simp [State.post]

/-- The launch slots that wait when firmware has started the device (R402, R484). -/
def State.waitingSlots (s : State) : List Nat :=
  (upTo 64).filter fun k => Memory.lookup s.mem (s.island.lwin + 128 * k + 0x7F) != (s.launch k).accepted

theorem bootDone_eq (s : State) : s.bootDone = { s with
    island := { s.island with booted := !s.island.recovery }
    events := if s.island.recovery then s.events else s.events ++ s.waitingSlots.map .launchParse } := by
  unfold State.bootDone
  cases h : s.island.recovery with
  | true => rfl
  | false => exact post_foldl s.waitingSlots .launchParse { s with island := { s.island with booted := true } }

theorem mem_waitingSlots {s : State} {k : Nat} (h : k < 64)
    (hw : Memory.lookup s.mem (s.island.lwin + 128 * k + 0x7F) ≠ (s.launch k).accepted) : k ∈ s.waitingSlots :=
  List.mem_filter.mpr ⟨List.mem_range.mpr h, by simpa using hw⟩

/-! Answers of ports and peers. -/

theorem homeWrite_foldl_cpu (l : List (Nat × List Byte)) (s : State) :
    (l.foldl (fun (s : State) w => s.homeWrite w.1 w.2) s).cpu = s.cpu := by
  induction l generalizing s with
  | nil => rfl
  | cons w l ih => exact ih (s.homeWrite w.1 w.2)

theorem modPort_cpu (s : State) (p : Port) (f : HostPort → HostPort) : (s.modPort p f).cpu = s.cpu := by cases p <;> rfl

theorem portAnswers_spec (s : State) (p : Port) (on : Bool) : ((s.portAnswers p on).port p).answers = on ∧
    (on = true → ((s.portAnswers p on).port p).posts = []) ∧ (s.portAnswers p on).cpu = s.cpu := by
  simp only [State.portAnswers, port_modPort, modPort_cpu]
  refine ⟨trivial, ?_, ?_⟩
  · rintro rfl
    simp only [if_true, State.drainPosts, port_modPort]
  · cases on with
    | true => exact (modPort_cpu _ _ _).trans (homeWrite_foldl_cpu _ s)
    | false => rfl

/-- The peer table and the stores on their way are the same in both states. -/
def State.samePeers (s t : State) : Prop := t.peers = s.peers ∧ t.owedStores = s.owedStores

theorem samePeers_trans {s t u : State} (h : s.samePeers t) (g : t.samePeers u) : s.samePeers u :=
  ⟨g.1.trans h.1, g.2.trans h.2⟩

theorem samePeers_poke (s : State) (a n v : Nat) : s.samePeers (s.poke a n v) := ⟨rfl, rfl⟩

theorem samePeers_q64At (s : State) (a : Nat) (x : F32) (q : Int) (ovf : Option Nat) : s.samePeers (q64At s a x q ovf) := by
  unfold q64At
  dsimp only
  split <;> exact ⟨rfl, rfl⟩

theorem samePeers_rupdAt (r : RupdReq) (s : State) : s.samePeers (rupdAt r s) := by
  refine samePeers_trans (t := s.receives r.launch (updateUnit r.addr)) ⟨?_, ?_⟩ ?_
  · rw [receives_fields]
  · rw [receives_fields]
  · unfold rupdAt
    generalize s.receives r.launch (updateUnit r.addr) = u
    dsimp only
    split
    · rw [State.selfTest_fields]; exact ⟨rfl, rfl⟩
    · split
      · exact samePeers_q64At u _ _ _ _
      · split
        · exact samePeers_q64At u _ _ _ _
        · repeat' split
          all_goals exact samePeers_poke u _ _ _

theorem samePeers_performOwed (s : State) (o : OwedStore) : s.samePeers (s.performOwed o) := by
  unfold State.performOwed
  split
  · exact ⟨rfl, rfl⟩
  · exact samePeers_rupdAt _ s

theorem samePeers_performOwed_foldl (l : List OwedStore) (s : State) : s.samePeers (l.foldl State.performOwed s) := by
  induction l generalizing s with
  | nil => exact ⟨rfl, rfl⟩
  | cons o l ih => exact samePeers_trans (samePeers_performOwed s o) (ih (s.performOwed o))

/-- The peer table in which the answers of `p` arrive at once, or do not. -/
def State.answering (s : State) (p : BitVec 12) (on : Bool) : State :=
  { s with peers := mapFirst (fun e => e.num == p) (fun e => { e with answers := on }) s.peers }

theorem answering_answers {s : State} {p : BitVec 12} {e : Peer} (on : Bool) (he : e ∈ s.peers) (hp : e.num = p) :
    ((s.answering p on).peer p).answers = on := by
  obtain ⟨y, hy⟩ := exists_first? (p := fun e : Peer => e.num == p) he (by simp [hp])
  have hmap : first? (fun e : Peer => e.num == p) (s.answering p on).peers = some { y with answers := on } := by
    refine (first?_mapFirst (p := fun e : Peer => e.num == p) (f := fun e : Peer => { e with answers := on }) (fun x hx => hx) s.peers).trans ?_
    rw [hy]; rfl
  rw [State.peer, hmap]
  rfl

theorem peerAnswers_on (s : State) (p : BitVec 12) : s.peerAnswers p true =
    (s.owedStores.filter fun o => o.peer == p.toNat).foldl State.performOwed
      { s.answering p true with owedStores := s.owedStores.filter fun o => o.peer != p.toNat } := rfl

theorem peerAnswers_on_tables (s : State) (p : BitVec 12) : (s.peerAnswers p true).peers = (s.answering p true).peers ∧
    (s.peerAnswers p true).owedStores = s.owedStores.filter fun o => o.peer != p.toNat := by
  rw [peerAnswers_on]
  exact samePeers_performOwed_foldl _ _

theorem peerAnswers_peers (s : State) (p : BitVec 12) (on : Bool) : (s.peerAnswers p on).peers = (s.answering p on).peers := by
  cases on with
  | true => exact (peerAnswers_on_tables s p).1
  | false => rfl

/-! The places of the three areas (R402, R430). -/

/-- A byte that is not zeroed. -/
def notZeroed (a len x : Nat) : Bool := decide (x < a) || decide (a + len ≤ x) || decide (Config.deviceBytes ≤ x)

theorem lookup_zeroBytes (s : State) (a len q : Nat) :
    Memory.lookup (s.zeroBytes a len).mem q = if notZeroed a len q then Memory.lookup s.mem q else 0 :=
  Memory.lookup_filter s.mem (notZeroed a len) q

theorem zeroBytes_zero {s : State} {a len q : Nat} (h1 : a ≤ q) (h2 : q < a + len) (h3 : a + len ≤ Config.deviceBytes) :
    Memory.lookup (s.zeroBytes a len).mem q = 0 := by
  rw [lookup_zeroBytes, if_neg]
  simp only [notZeroed, Bool.or_eq_true, decide_eq_true_eq]
  omega

theorem zeroBytes_keeps_zero {s : State} {q : Nat} (h : Memory.lookup s.mem q = 0) (a len : Nat) :
    Memory.lookup (s.zeroBytes a len).mem q = 0 := by
  rw [lookup_zeroBytes, h, ite_self]

/-- The state with the bytes of the three areas zeroed. -/
def State.cleared (s : State) (l m c : Nat) : State := ((s.zeroBytes l 0x2000).zeroBytes m 0x1000).zeroBytes c 0x1000

/-- Every area reads 0 after it has been placed (R402, R430). -/
theorem lookup_cleared (s : State) {l m c q : Nat} (hl : l + 0x2000 ≤ 2 ^ 37) (hm : m + 0x1000 ≤ 2 ^ 37) (hc : c + 0x1000 ≤ 2 ^ 37)
    (hq : (l ≤ q ∧ q < l + 0x2000) ∨ (m ≤ q ∧ q < m + 0x1000) ∨ (c ≤ q ∧ q < c + 0x1000)) : Memory.lookup (s.cleared l m c).mem q = 0 := by
  have hdev {n : Nat} (h : n ≤ 2 ^ 37) : n ≤ Config.deviceBytes := Nat.le_trans h (by decide)
  obtain ⟨h1, h2⟩ | ⟨h1, h2⟩ | ⟨h1, h2⟩ := hq
  · exact zeroBytes_keeps_zero (zeroBytes_keeps_zero (zeroBytes_zero h1 h2 (hdev hl)) _ _) _ _
  · exact zeroBytes_keeps_zero (zeroBytes_zero h1 h2 (hdev hm)) _ _
  · exact zeroBytes_zero h1 h2 (hdev hc)

theorem placeOk_of {l m c : Nat} (hl : l % 0x2000 = 0) (hm : m % 0x1000 = 0) (hc : c % 0x1000 = 0) (hl' : l + 0x2000 ≤ 2 ^ 37)
    (hm' : m + 0x1000 ≤ 2 ^ 37) (hc' : c + 0x1000 ≤ 2 ^ 37) : placeOk l m c = true := by
  simp only [placeOk, Bool.and_eq_true, beq_iff_eq, decide_eq_true_eq]
  exact ⟨⟨⟨⟨⟨hl, hm⟩, hc⟩, hl'⟩, hm'⟩, hc'⟩

theorem place_spec {s : State} {l m c : Nat} (a b : Nat) (hb : s.island.booted = false) (h : placeOk l m c = true) :
    ∃ t, exec (.managementRegisterWrite (.place l m c a b)) s = .next t ∧ t.island.lwin = l ∧ t.island.mbox = m ∧ t.island.ctrl = c ∧
      t.portA.hdmBase = a ∧ t.portB.hdmBase = b ∧ t.mem = (s.cleared l m c).mem := by
  have hexec : exec (.managementRegisterWrite (.place l m c a b)) s =
      let u := s.cleared l m c
      .next { u with island := { u.island with lwin := l, mbox := m, ctrl := c }, portA := { u.portA with hdmBase := a }
                     portB := { u.portB with hdmBase := b } } := if_neg (by rw [hb, h]; nofun)
  exact ⟨_, hexec, rfl, rfl, rfl, rfl, rfl, rfl⟩

/-- Settles O50: the reset is a measured boot of the cold state, an append chains one entry, a verdict goes through the log and
the units, and a management write sets what it names. -/
theorem upkeep : Obligations.Upkeep := by
  unfold Obligations.Upkeep
  refine ⟨fun s => ⟨s.cold.boot, coldReset_next s, ?_⟩, ⟨?_, ?_⟩, ⟨?_, ?_⟩, ?_, ?_⟩
  · refine ⟨?_, ?_, ?_, ?_, ?_, ?_, ?_, ?_, ?_, ?_, ?_, ?_, ?_, ?_, ?_, seq_boot_cold s, ?retired, ?_, ?_, ?_,
      fun a h => (lookup_boot_cold s (by omega)).trans (if_neg (by rw [notDevice_iff]; omega)),
      fun a h1 h2 => (lookup_boot_cold s (by omega)).trans (if_neg (by rw [notDevice_iff]; omega)),
      fun a h => (lookup_boot_cold s (by omega)).trans (if_pos (notDevice_iff.mpr h)),
      fun d hd => reads_boot_cold s hd, fun j h => mr_boot_cold s h, recovery_boot_cold s⟩
    case retired => rw [boot_cold_fields]; exact mem_addUnits s.retired s.failing
    all_goals rw [boot_cold_fields]; rfl
  · intro s hring hheld hn die reg x kind y ctx scope num hdie hreg i hi
    have hdirs : s.dirs.map (DirEntry.written s.auditPlace 64) =
        if s.island.ringSize = 0 then s.dirs else s.dirs.map (DirEntry.written s.auditPlace 64) := (if_neg hring).symm
    have hwait {t : State} (ht : t.dirs = if s.island.ringSize = 0 then s.dirs else s.dirs.map (DirEntry.written s.auditPlace 64)) :=
      awaitHost_waits (i := i) hn hheld (ht.trans hdirs.symm)
    simp only [List.mem_cons, List.not_mem_nil, or_false] at hi
    obtain rfl | rfl | rfl := hi
    · exact hwait (extend_dirs s ⟨hdie, hreg⟩ x)
    · exact hwait (append_dirs ..)
    · exact hwait (append_dirs ..)
  · intro s hlog entry logged
    refine ⟨fun die reg x h => ?_, fun kind x => ?_, fun ctx scope num => ?_⟩
    · have hlogged := append_logged (s.measured (8 * die + reg) x (by omega)) 6 0xFFFF 0 (leBytes 8 (8 * die + reg) ++ (islandBytes x).take 32)
      rw [← extend_eq s h] at hlogged
      refine ⟨_, awaitHost_next (hostLost_append hlog (extend_dirs s h x)), hlogged, fun j g => (extend_mr s h x g).trans ?_⟩
      split
      · next hj => subst hj; rfl
      · rfl
    · refine ⟨_, awaitHost_next (hostLost_append hlog (append_dirs ..)), ?_, append_logged s ..⟩
      rw [append_island]
    · refine ⟨_, awaitHost_next (hostLost_append hlog (append_dirs ..)), ?_, append_logged s ..⟩
      rw [append_island]
  · exact fun s => ⟨_, rfl, State.selfTest_fields s _⟩
  · intro nonce s h
    obtain ⟨hreport, hseq, hmr, hcpu, hothers, hmem⟩ := attest_spec s nonce
    refine ⟨_, awaitHost_next (hostLost_of_hostless h (s.attest nonce)), ?_⟩
    rw [hreport]
    obtain ⟨hver, hnonce, hregs, hhead, hsq⟩ := reportBytes_parts s nonce
    obtain ⟨hsig1, hsig2⟩ := reportBytes_signature s nonce
    refine ⟨length_reportBytes s nonce, hver, hnonce, hregs, hhead, hsq, hsig1, hsig2, fun hb hr => ?_, hseq, hmr, hcpu, hothers⟩
    rw [hmem hb hr]
    exact Memory.reads_writes _ _ _
  · intro u s h spare
    refine ⟨selfTestVerdict_pass h u, selfTestVerdict_known h, fun hr hf => ⟨fun d b hu hs => ?_, selfTestVerdict_lasting h hr hf⟩,
      fun t hh ht => ⟨haltFailed_late hh ht, fun hready hsl => ?_⟩⟩
    · subst hu
      exact selfTestVerdict_spare h hr hf hs
    · rw [haltFailed_ready hh ht hready]
      obtain ⟨hend, hhalt⟩ := failThread_ended (s := { s with halting := [] }) ht hready hsl
      exact ⟨hhalt, hend⟩
  · intro s wr
    refine ⟨fun c p h => ⟨s.clupart.set c p, ?_, fun j g => vector_set_spec _ _ _ g⟩,
      fun n x h => ⟨s.tencfg.set n (x &&& 0x1FFFF), ?_, fun j g => vector_set_spec _ _ _ g⟩,
      fun n a b => ⟨_, rfl, rfl, first?_group s.groups n _ _⟩, fun p m => ?_,
      fun p on => ⟨_, rfl, port_modPort s p _⟩, fun n i => rfl, fun p i c tables lo hi rd w => ⟨_, rfl, rfl, rfl, rfl, rfl, rfl, rfl, rfl, rfl⟩,
      fun p c => ⟨_, rfl, mem_not_names s.exports p c⟩, fun p c lo hi rd w => ⟨_, rfl, rfl, rfl, rfl, rfl, rfl, rfl⟩,
      fun p c => ⟨_, rfl, mem_not_names s.grants p c⟩, fun b n => rfl, ⟨_, rfl, ?_⟩, fun p => rfl,
      fun p on => ⟨_, rfl, portAnswers_spec s p on⟩, fun p on => ⟨_, rfl, ?_⟩, rfl, fun l m c a b hb => ?_, fun l m c a b hb hl hm hc hl' hm' hc' => ?_,
      fun die mhz h => ⟨s.island.freq.set die mhz, ?_, fun j g => vector_set_spec _ _ _ g⟩⟩
    · exact congrArg Host.Outcome.next (dif_pos h)
    · exact congrArg Host.Outcome.next (dif_pos h)
    · refine ⟨_, rfl, ?_⟩
      split
      · rfl
      · rw [port_modPort]
    · rw [bootDone_eq]
      refine ⟨rfl, fun hr => if_pos hr, fun hr k hk hw => ?_⟩
      simp only [hr]
      exact List.mem_append_right _ (List.mem_map_of_mem (mem_waitingSlots hk hw))
    · refine ⟨?_, fun e he hp => ?_, ?_, ?_⟩
      · rintro rfl
        rfl
      · rw [State.peer, peerAnswers_peers]
        exact answering_answers on he hp
      · rintro rfl o ho
        rw [(peerAnswers_on_tables s p).2] at ho
        simpa using (List.mem_filter.mp ho).2
      · rintro o k bs rfl ho hw
        rw [peerAnswers_on, ho, List.foldl_cons, List.foldl_nil, State.performOwed, hw]
        rfl
    · exact if_pos (by rw [hb]; rfl)
    · obtain ⟨t, ht, h1, h2, h3, h4, h5, hmem⟩ := place_spec a b hb (placeOk_of hl hm hc hl' hm' hc')
      exact ⟨t, ht, h1, h2, h3, h4, h5, fun q hq => hmem ▸ lookup_cleared s hl' hm' hc' hq⟩
    · exact congrArg Host.Outcome.next (dif_pos h)

end Sys2Proof.Machine
end

section
/-!
SUPPORT. Taking a trap (R220 to R227): the fields of TRAPCAUSE, where a trap goes, and a read of a register that holds an error.
-/
namespace Sys2Proof.Machine

/-! TRAPCAUSE (R221). -/

section
variable (aux : BitVec 32) (hnd : Bool) (len : BitVec 4) (cause : BitVec 8)

/-- TRAPCAUSE bit by bit. -/
theorem getLsbD_trapCauseOf (i : Nat) : (trapCauseOf aux hnd len cause).getLsbD i =
    if i < 8 then cause.getLsbD i else if i < 12 then len.getLsbD (i - 8) else if i < 16 then false
    else if i < 17 then hnd else if i < 32 then false else aux.getLsbD (i - 32) := by
  have h : (trapCauseOf aux hnd len cause).getLsbD i =
      (aux ++ (0#15 ++ (BitVec.ofBool hnd ++ (0#4 ++ (len ++ cause))))).getLsbD i := rfl
  simp only [h, BitVec.getLsbD_append, BitVec.getLsbD_zero, BitVec.getLsbD_ofBool]
  grind

@[simp] theorem trapCauseOf_cause : (trapCauseOf aux hnd len cause).extractLsb' 0 8 = cause := by
  refine BitVec.eq_of_getLsbD_eq fun i hi => ?_
  simp only [BitVec.getLsbD_extractLsb', getLsbD_trapCauseOf]
  grind

@[simp] theorem trapCauseOf_len : (trapCauseOf aux hnd len cause).extractLsb' 8 4 = len := by
  refine BitVec.eq_of_getLsbD_eq fun i hi => ?_
  simp only [BitVec.getLsbD_extractLsb', getLsbD_trapCauseOf]
  grind

@[simp] theorem trapCauseOf_hnd : (trapCauseOf aux hnd len cause).getLsbD 16 = hnd := by
  simp only [getLsbD_trapCauseOf]; rfl

@[simp] theorem trapCauseOf_aux : (trapCauseOf aux hnd len cause).extractLsb' 32 32 = aux := by
  refine BitVec.eq_of_getLsbD_eq fun i hi => ?_
  simp only [BitVec.getLsbD_extractLsb', getLsbD_trapCauseOf]
  grind

theorem trapCauseOf_reserved : (trapCauseOf aux hnd len cause).extractLsb' 12 4 = 0 ∧ (trapCauseOf aux hnd len cause).extractLsb' 17 15 = 0 := by
  constructor <;> refine BitVec.eq_of_getLsbD_eq fun i hi => ?_ <;>
    simp only [BitVec.getLsbD_extractLsb', getLsbD_trapCauseOf] <;> grind
end

/-- A chain's length fits LEN. -/
theorem toNat_ofNat_len {len : Nat} (h : len < 16) : (BitVec.ofNat 4 len).toNat = len := by
  rw [BitVec.toNat_ofNat, Nat.mod_eq_of_lt (by simpa using h)]

/-! Where a trap goes (R222). -/

theorem user_iff (c : BitVec 8) : Cause.user c = true ↔ c ∈ [0x08#8, 0x09#8, 0x0A#8, 0x0C#8, 0x0D#8, 0x18#8] := by
  simp [Cause.user, or_assoc]

theorem handles_iff (t : Thread) (c : BitVec 8) : t.handles c = true ↔
    t.isRill = false ∧ t.isSluice = false ∧ Cause.user c = true ∧ t.trapvec ≠ 0 ∧ t.hnd = false ∧ legalTarget t.trapvec = true := by
  simp [Thread.handles, legalTarget, Config.vaEnd, and_assoc]

section
variable {s : State} {cause : BitVec 8} (val : Word) (aux : BitVec 32) (len : Nat)

theorem takeTrap_rill (h : s.cpu.isRill = true) : takeTrap s cause val aux len =
    s.haltWith s.cpu (trapNote s.cpu cause s.cpu.pc val aux (BitVec.ofNat 4 len) 0) := if_pos h

theorem takeTrap_handled (h : s.cpu.handles cause = true) : takeTrap s cause val aux len =
    { s with cpu := { s.cpu.goTo s.cpu.trapvec with
      trappc := s.cpu.pc, trapcause := trapCauseOf aux true (BitVec.ofNat 4 len) cause, trapval := val } } := by
  obtain ⟨hr, -⟩ := (handles_iff _ _).mp h
  simp [takeTrap, hr, h]

theorem takeTrap_nested (hr : s.cpu.isRill = false) (hn : s.cpu.hnd = true) (hc : cause ≠ Cause.svc) : takeTrap s cause val aux len =
    s.haltWith { s.cpu with trapcause := trapCauseOf (cause.setWidth 32) true s.cpu.trapLen Cause.trapnest }
      (trapNote s.cpu Cause.trapnest s.cpu.trappc val (cause.setWidth 32) s.cpu.trapLen s.cpu.pc) := by
  have hh : s.cpu.handles cause = false := by simp [Thread.handles, hn]
  have hs : (s.cpu.hnd && cause != Cause.svc) = true := by rw [hn, Bool.true_and]; exact bne_iff_ne.mpr hc
  simp only [takeTrap, hr, hh, hs, Bool.false_eq_true, if_false, if_true]

theorem takeTrap_halts (hr : s.cpu.isRill = false) (hh : s.cpu.handles cause = false) (hn : s.cpu.hnd = false ∨ cause = Cause.svc) :
    takeTrap s cause val aux len =
      s.haltWith { s.cpu with trappc := s.cpu.pc, trapcause := trapCauseOf aux s.cpu.hnd (BitVec.ofNat 4 len) cause, trapval := val }
        (trapNote s.cpu cause s.cpu.pc val aux (BitVec.ofNat 4 len) 0) := by
  have hs : (s.cpu.hnd && cause != Cause.svc) = false := by rcases hn with h | h <;> simp [h]
  simp only [takeTrap, hr, hh, hs, Bool.false_eq_true, if_false]
end

/-! A register that holds an error (R18, R478). -/

/-- One field written and one that is no port read: the checks pass whatever the register read holds. -/
theorem checkUses_wr_rd {a b : Reg} {s : State} (hf : firstFault s.cpu [.wr a, .rd b] = none) (hb : b ≠ 126)
    (hpush : a = 127 → s.partner s.cpu s.cpu.downstream = true ∧ ∀ d, s.thread? s.cpu.downstream = some d → d.flume.length < 8) :
    checkUses [.wr a, .rd b] s = .ok ((), s) := by
  have hpops : [Use.wr a, .rd b].countP Use.pops ≤ s.cpu.flume.length := by
    have h : [Use.wr a, .rd b].countP Use.pops = 0 := List.countP_eq_zero.mpr (by simpa [Use.pops] using hb)
    omega
  have hroom : (!([Use.wr a, .rd b].any Use.pushes) || s.partner s.cpu s.cpu.downstream &&
      match s.thread? s.cpu.downstream with | some d => decide (d.flume.length < 8) | none => true) = true := by
    by_cases ha : a = 127
    · obtain ⟨hpartner, hspace⟩ := hpush ha
      cases hd : s.thread? s.cpu.downstream with
      | none => simp [hpartner]
      | some d => simp [hpartner, hspace d hd]
    · have hno : [Use.wr a, .rd b].any Use.pushes = false := by simpa [Use.pushes] using ha
      simp [hno]
  simp only [checkUses, checkOperands, exec_bind, getCpu_ok, hf, checkVregs_ok (vs := []) rfl, checkPartners_ok hpops hroom, exec_pure,
    waitFlume_ok (short_false hpops) (full_false hroom)]

/-- A read of a register that holds an error stops with the row that holds it. -/
theorem readG_bad {r : Reg} {s : State} (h0 : 0 < r.toNat) (hr : r ≠ 126) (hb : r.toNat ∈ s.cpu.badG) :
    readG r s = .error (.memerr (some (.row s.cpu.coreId (s.cpu.rbase + r.toNat / 8))) 0 0) := by
  have hne : (r == 126) = false := by simpa using hr
  have hfirst : first? (fun i => i != 0 && s.cpu.badG.contains i) [r.toNat] = some r.toNat := by
    simp [first?, hb, Nat.ne_of_gt h0]
  have hcheck : checkRegs [r.toNat] s = .error (.memerr (some (.row s.cpu.coreId (s.cpu.rbase + r.toNat / 8))) 0 0) := by
    simp only [checkRegs, exec_bind, getCpu_ok, hfirst]; rfl
  simp only [readG, exec_bind, getCpu_ok, hne, Bool.false_eq_true, if_false, hcheck]

/-- A meaning that meets an error traps MEMERR after the self-test of the unit that holds it (R478). -/
theorem runChain_memerr {c : Chain} {i : Instr} {body : Exec Unit} {s : State} {u : Option TestUnit} {v : Word} {x : BitVec 32}
    (hg : guardOn c s.cpu.p = true) (hb : body s = .error (.memerr u v x)) :
    runChain c i body s = .next (takeTrap (s.selfTest u) Cause.memerr v x i.len) := by
  simp [runChain, hg, finish, hb]

/-- Settles O6: each of the first four clauses is the equation of `takeTrap` for its case, and the last a read of MOV that stops. -/
theorem trapEntry : Obligations.TrapEntry := by
  unfold Obligations.TrapEntry
  refine ⟨?handler, ?halts, ?nested, ?rill, ?memerr⟩
  case handler =>
    intro s cause val aux len hlen hrill hsluice hcause hvec hlegal hhnd
    have hh := (handles_iff s.cpu cause).mpr ⟨hrill, hsluice, (user_iff cause).mpr hcause, hvec, hhnd, hlegal⟩
    obtain ⟨hlow, hhigh⟩ := trapCauseOf_reserved aux true (BitVec.ofNat 4 len) cause
    exact ⟨_, takeTrap_handled val aux len hh, rfl, trapCauseOf_cause .., (congrArg _ (trapCauseOf_len ..)).trans (toNat_ofNat_len hlen),
      trapCauseOf_hnd .., trapCauseOf_aux .., hlow, hhigh⟩
  case halts =>
    intro s cause val aux len hlen hrill hsvc hno
    have hh : s.cpu.handles cause = false := by
      rw [Bool.eq_false_iff, Ne, handles_iff, user_iff]
      rintro ⟨-, hsluice, hcause, hvec, -, hlegal⟩
      rcases hno with h | h | h | h
      · exact h hcause
      · exact hvec h
      · rw [hlegal] at h; cases h
      · rw [hsluice] at h; cases h
    exact ⟨_, _, takeTrap_halts val aux len hrill hh hsvc, rfl, trapCauseOf_cause .., (congrArg _ (trapCauseOf_len ..)).trans (toNat_ofNat_len hlen),
      trapCauseOf_hnd .., trapCauseOf_aux .., rfl, rfl, rfl, rfl, rfl, rfl, toNat_ofNat_len hlen⟩
  case nested =>
    intro s cause val aux len hrill hhnd hsvc
    exact ⟨_, _, takeTrap_nested val aux len hrill hhnd hsvc, rfl, trapCauseOf_cause .., trapCauseOf_len .., trapCauseOf_hnd ..,
      trapCauseOf_aux .., rfl, rfl, rfl, rfl, rfl, rfl, rfl⟩
  case rill =>
    intro s cause val aux len hlen hrill
    have hsluice : s.cpu.isSluice = false := by simp [Thread.isSluice, hrill]
    refine ⟨_, _, takeTrap_rill val aux len hrill, rfl, rfl, rfl, rfl, rfl, rfl, rfl, toNat_ofNat_len hlen, ?_, ?_, ?_, ?_⟩ <;>
      simp [trapNote, Thread.taskId, hrill, hsluice]
  case memerr =>
    intro c a b s hg hf hpush hb0 hb126 hbad
    have hb : b ≠ 126 := by rintro rfl; exact absurd hb126 (by decide)
    refine ⟨Config.freeBit s.free, runChain_memerr (u := some (.row s.cpu.coreId (s.cpu.rbase + b.toNat / 8))) hg ?_⟩
    simp only [exec_bind, gate_ok (Or.inr rfl) (level_any _), checkUses_wr_rd hf hb hpush, readG_bad hb0 hb hbad]

end Sys2Proof.Machine
end

section
/-!
SUPPORT. The vector registers that a save record does not deliver (R18, R235, R237), and the gang for which O40 says otherwise.
-/
namespace Sys2Proof.Machine

/-! What a loaded thread holds (R237). -/

theorem setSpecial_badV (t : Thread) (k : Nat) (x : Word) : (t.setSpecial k x).badV = t.badV := by
  unfold Thread.setSpecial
  split <;> rfl

theorem setSpecial_foldl_badV (x : Nat → Word) (l : List (Nat × Nat)) (t : Thread) :
    (l.foldl (fun t k => t.setSpecial k.1 (x k.2)) t).badV = t.badV := by
  induction l generalizing t with
  | nil => rfl
  | cons k l ih => exact (ih _).trans (setSpecial_badV t _ _)

theorem loadThread_badV (s : State) (g : Gang) (m : Member) (p : SavePages) :
    (s.loadThread g m p).badV = (upTo g.nvregs).filter fun j => s.badAt (p.at (0x600 + 64 * j)) 64 := by
  unfold State.loadThread
  dsimp only
  rw [setSpecial_foldl_badV fun k => BitVec.ofNat 64 (s.recordDw p (0x18 + 8 * k))]

/-- A vector register of a loaded thread holds an error just when its 64 bytes of the record do, on whichever page they lie (R18). -/
theorem mem_badV_loadThread (s : State) (g : Gang) (m : Member) (p : SavePages) (j : Nat) :
    j ∈ (s.loadThread g m p).badV ↔ j < g.nvregs ∧ s.badAt (p.at (0x600 + 64 * j)) 64 = true := by
  rw [loadThread_badV, List.mem_filter, upTo, List.mem_range]

/-- The clause of O40 about these registers, for a gang whose vector registers all stand on the first page of the record: every gang
of a valid task record is one (R409). -/
theorem mem_badV_loadThread_lo (s : State) {g : Gang} (hg : g.nvregs ≤ 232) (m : Member) (p : SavePages) (j : Nat) :
    j ∈ (s.loadThread g m p).badV ↔ j < g.nvregs ∧ s.badAt (p.lo + 0x600 + 64 * j) 64 = true := by
  rw [mem_badV_loadThread]
  refine and_congr_right fun hj => ?_
  rw [SavePages.at, if_pos (by omega), Nat.add_assoc]

/-! The counterexample. -/

/-- A spilled gang with NVREGS = 233. No task record gives more than 16 (R409), but O40 speaks of every gang. -/
def wideGang : Gang :=
  { id := 1, launch := 0, ctx := 0, tenant := 0, sup := false, task := 0, graphno := 0, size := 1, nregs := 8, nvregs := 233, pin := false,
    save := 0, home := 0, clusters := [0], state := .restore, members := [], faulters := [], counted := 0, completer := none, accrued := 0 }

/-- A member of it, at rank 0. -/
def wideMember : Member :=
  { rank := 0, slot := 0, live := true, save := 0, monctl := 0, relScope := none, seen := [], heard := [], flow := [], flumeFlow := [] }

/-- The reset machine with that gang and one bad sector, at 0x10000. -/
def wideState : State := { State.reset with gangs := [wideGang], bad := [0x10000 / 32] }

/-- A record whose second page begins at the bad sector and does not follow the first. -/
def splitPages : SavePages := { lo := 0, hi := 0x10000 }

/-- Vector register 232 of the loaded thread holds an error, for its bytes begin the second page. -/
theorem wide_badV : 232 ∈ (wideState.loadThread wideGang wideMember splitPages).badV :=
  (mem_badV_loadThread ..).mpr (by decide)

/-- Refutes O40: the clause about vector registers that hold an error speaks of every j below NVREGS and looks for the bytes of each at
`p.lo + 0x600 + 64 * j`, while from j = 232 on these bytes lie on the other page of the record, which need not follow. A gang with
NVREGS = 233 and one bad sector on that page is the counterexample; with NVREGS at most 232 the clause holds
(`mem_badV_loadThread_lo`). -/
theorem not_gangRestores : ¬ Obligations.GangRestores := by
  unfold Obligations.GangRestores
  rintro ⟨hrestore, -⟩
  obtain ⟨-, -, -, hload⟩ := hrestore 1 wideState wideGang rfl rfl
  obtain ⟨-, -, -, -, -, -, -, hbadV, -⟩ := hload wideMember splitPages
  obtain ⟨-, hlo⟩ := (hbadV 232).mp wide_badV
  exact absurd hlo (by decide)

end Sys2Proof.Machine
end

section
/-!
SUPPORT. Scalar loads and stores (R159 to R163): the place of an access and the checks that stop it, what a load and a store do at that place,
and the spill of a gang at a page that is not present.
-/
namespace Sys2Proof.Machine

/-! A pop and a cached translation leave what an access needs. -/

section
variable (s : State) (b : Reg) (p : Place) (mm : MemMode)

@[simp] theorem popped_dmode : (s.popped b).cpu.dmode = s.cpu.dmode := by rw [State.popped_fields]
@[simp] theorem popped_rangesFree (ps : List Place) (wr : Bool) : (s.popped b).rangesFree ps wr = s.rangesFree ps wr := by
  rw [State.popped_fields]; rfl
@[simp] theorem popped_volatileFree : (s.popped b).volatileFree mm = s.volatileFree mm := by rw [State.popped_fields]; rfl
@[simp] theorem popped_modeFree : (s.popped b).modeFree mm = s.modeFree mm := by rw [State.popped_fields]; rfl
@[simp] theorem popped_readable : (s.popped b).readable p mm = s.readable p mm := by rw [State.popped_fields]; rfl
@[simp] theorem popped_storable (x : Xlat) (n : Nat) : (s.popped b).storable x n = s.storable x n := by rw [State.popped_fields]; rfl
@[simp] theorem popped_bytesAt : (s.popped b).bytesAt p = s.bytesAt p := by simp [State.bytesAt]

@[simp] theorem cached_bytesAt (x : Xlat) : (s.cached x).bytesAt p = s.bytesAt p := by simp [State.bytesAt]
@[simp] theorem cached_storable (x y : Xlat) (n : Nat) : (s.cached x).storable y n = s.storable y n := by simp [State.storable]

theorem cached_readable_place (x y : Xlat) (va : Word) (n : Nat) :
    (s.cached x).readable (y.place va n) mm = s.readable (y.place va n) mm := by
  simp [State.readable, Xlat.place, State.lineTested]
end

/-! Stores to two states that differ in caches. -/

theorem onlyCaches_homeWrite {s t : State} (a : Nat) (bs : List Byte) (h : s.onlyCaches t) : (s.homeWrite a bs).onlyCaches (t.homeWrite a bs) :=
  homeWrite_onlyCaches a bs (onlyCaches_trans h (withdraw_onlyCaches t a bs.length))

theorem onlyCaches_here {s t : State} (h : s.onlyCaches t) : t.here = s.here := by
  simp only [State.here, State.contextOf, State.contextD, State.context?, onlyCaches_cpu h, onlyCaches_contexts h]

theorem onlyCaches_stored {s t : State} (x : Xlat) (k : Nat) (bs : List Byte) (h : s.onlyCaches t) :
    (s.stored x k bs).onlyCaches (t.stored x k bs) := by
  have hw := onlyCaches_homeWrite k bs h
  have hp : (t.homeWrite k bs).portFor x.pa = (s.homeWrite k bs).portFor x.pa := by simp only [State.portFor, onlyCaches_here hw]
  unfold State.stored
  dsimp only
  rw [hp, onlyCaches_cpu hw]
  split
  · exact onlyCaches_setCpu hw _
  · exact hw

/-! Reaching an address that no window covers (R160, R185, R486). -/

/-- The place an access of `n` bytes at `va` uses in the page of `x`, once a rill has moved there (R282). -/
def pagePlace (x : Xlat) (va : Word) (n : Nat) : Exec Place := do
  migrateFor x
  return x.place va n

/-- Outside the two data apertures and every window an access goes to its page. -/
theorem placeAt_page {va : Word} {n : Nat} {rd wr : Bool} {s : State} (hc : va.toNat < Config.cisternAperture)
    (hh : va.toNat < Config.handleAperture ∨ Config.handleApertureEnd ≤ va.toNat) (hu : s.unmapped va = true) :
    placeAt va n rd wr s = (reach va rd wr >>= fun x => pagePlace x va n) s := by
  have hend : decide (va.toNat ≥ Config.vaEnd) = false := by
    simp only [Config.vaEnd, Config.cisternAperture, decide_eq_false_iff_not] at hc ⊢; omega
  have hcis : decide (Config.cisternAperture ≤ va.toNat) = false := by simpa using hc
  have hhan : (decide (Config.handleAperture ≤ va.toNat) && decide (va.toNat < Config.handleApertureEnd)) = false := by
    rw [Bool.and_eq_false_iff, decide_eq_false_iff_not, decide_eq_false_iff_not]
    exact hh.imp Nat.not_le_of_lt Nat.not_lt_of_le
  have hwin : (if s.cpu.isRill then none else first? (fun w => w.owner == s.cpu.id && w.covers va.toNat) s.myCore.windows) = none := by
    split
    · rfl
    · next hr =>
      refine first?_none fun w hw => ?_
      simp only [State.unmapped, hr, Bool.false_or, List.all_eq_true, Bool.not_eq_true'] at hu
      exact hu w hw
  simp only [placeAt, exec_bind, exec_get, trapIf_ok hend, hcis, hhan, hwin, Bool.false_eq_true, if_false]
  rfl

/-- An address of the sluice code range that no window covers traps PROT (R486). -/
theorem placeAt_sluiceCode {va : Word} {n : Nat} {rd wr : Bool} {s : State} (hlo : Config.sluiceCode ≤ va.toNat)
    (hhi : va.toNat < Config.sluiceCodeEnd) (hu : s.unmapped va = true) :
    placeAt va n rd wr s = .error (.trap Cause.prot va 0) := by
  have hin : inAperture va = true := by simp only [inAperture, decide_eq_true hlo, decide_eq_true hhi, Bool.and_self, Bool.true_or]
  simp only [Config.sluiceCodeEnd] at hhi
  have hend : decide (va.toNat ≥ Config.vaEnd) = false := by simp only [Config.vaEnd, decide_eq_false_iff_not]; omega
  rw [placeAt_page (by simp only [Config.cisternAperture]; omega) (Or.inl (by simp only [Config.handleAperture]; omega)) hu]
  simp only [reach, reachAs, exec_bind, getCpu_ok, trapIf_ok hend, trapIf_error hin]

theorem placeAt_beyond {va : Word} {n : Nat} {rd wr : Bool} {s : State} (h : 2 ^ 58 ≤ va.toNat) :
    placeAt va n rd wr s = .error (.trap Cause.prot va 0) := by
  simp only [placeAt, exec_bind, exec_get, trapIf_error (decide_eq_true (p := va.toNat ≥ Config.vaEnd) h)]

theorem translated_eq_some {s : State} {va : Word} {r : WalkRes} : s.translated va = some r ↔
    va.toNat < Config.vaEnd ∧ inAperture va = false ∧ s.unmapped va = true ∧ s.canWalk va = true ∧
      lookup s s.cpu.walker va.toNat = r := by
  simp [State.translated, and_assoc]

theorem permitted_eq (s : State) (e : TlbEntry) (rd wr : Bool) : permitted s.cpu.walker e rd wr = !s.forbids e rd wr := by
  simp only [permitted, State.forbids, Thread.walker]
  cases rd <;> cases wr <;> simp

section
variable {va : Word} {n : Nat} {rd wr : Bool} {s : State}

/-- What has a translation lies below 2^58 and in no aperture. -/
theorem placeAt_translated {r : WalkRes} (h : s.translated va = some r) :
    placeAt va n rd wr s = (reach va rd wr >>= fun x => pagePlace x va n) s := by
  obtain ⟨hv, ha, hu, -⟩ := translated_eq_some.mp h
  simp only [inAperture, Bool.or_eq_false_iff, Bool.and_eq_false_iff, decide_eq_false_iff_not] at ha
  obtain ⟨⟨-, hh⟩, hc⟩ := ha
  refine placeAt_page ?_ (hh.imp Nat.lt_of_not_le Nat.le_of_not_lt) hu
  rcases hc with hc | hc
  · exact Nat.lt_of_not_le hc
  · exact absurd hv hc

/-- The walk's result decides the translation (R148). -/
theorem translateFor_translated {r : WalkRes} (h : s.translated va = some r) : translateFor s.cpu.walker va s =
    match r with
    | .leaf e => .ok ({ entry := e, va := va.toNat, pa := e.physical va.toNat
                        pasid := if e.home = 1 || e.home = 2 then s.here.pasid else none }, s.cacheLeaf s.cpu.walker e)
    | .absent => .error (.page va)
    | .malformed => .error (.trap Cause.prot va 0)
    | .error aux a => .error (.memerr (unitAt a) va (BitVec.ofNat 32 aux))
    | .outside pa => .error (.fault (.noMemory pa)) := by
  obtain ⟨-, -, -, hw, hl⟩ := translated_eq_some.mp h
  have hwait : ((tlbFind s s.cpu.walker va.toNat).isNone && s.walkWaits s.cpu.walker) = false := by
    simp only [State.canWalk, Bool.or_eq_true, Bool.not_eq_true'] at hw
    rcases hw with h | h
    · rw [Option.isNone_eq_false_iff.mpr h, Bool.false_and]
    · rw [h, Bool.and_false]
  simp only [translateFor, exec_bind, exec_get, hwait, hl, Bool.false_eq_true, if_false]
  cases r <;> rfl

/-- An access that no aperture or window takes is translated, and then its page is checked (steps 3 to 5 of R160). -/
theorem reach_translated {r : WalkRes} (h : s.translated va = some r) : reach va rd wr s = (do
    let x ← translateFor s.cpu.walker va
    trapIf (!permitted s.cpu.walker x.entry rd wr) Cause.prot va
    if x.entry.invalid then trapRegion va x.entry else return x : Exec Xlat) s := by
  obtain ⟨hv, ha, -⟩ := translated_eq_some.mp h
  have hend : decide (va.toNat ≥ Config.vaEnd) = false := decide_eq_false (Nat.not_le_of_lt hv)
  rw [reach, exec_bind_ok (getCpu_ok s), reachAs, exec_bind_ok (trapIf_ok hend ..), exec_bind_ok (trapIf_ok ha ..)]

/-- A translation that stops ends the access there. -/
theorem placeAt_untranslated {r : WalkRes} {e : Stop} (h : s.translated va = some r) (ht : translateFor s.cpu.walker va s = .error e) :
    placeAt va n rd wr s = .error e := by
  rw [placeAt_translated h, exec_bind_error]
  rw [reach_translated h, exec_bind_error ht]

/-- A page that has been found is checked for its permissions and its region entry (R152, R159). -/
theorem reach_leaf {e : TlbEntry} (h : s.translated va = some (.leaf e)) : ∃ x : Xlat, x.entry = e ∧
    reach va rd wr s = (do
      trapIf (s.forbids e rd wr) Cause.prot va
      if e.invalid then trapRegion va e else return x : Exec Xlat) (s.cached x) := by
  obtain ⟨x, ht, rfl⟩ : ∃ x : Xlat, translateFor s.cpu.walker va s = .ok (x, s.cached x) ∧ x.entry = e :=
    ⟨_, translateFor_translated h, rfl⟩
  exact ⟨x, rfl, by rw [reach_translated h, exec_bind_ok ht, permitted_eq, Bool.not_not]⟩

theorem placeAt_forbidden {e : TlbEntry} (h : s.translated va = some (.leaf e)) (hf : s.forbids e rd wr = true) :
    placeAt va n rd wr s = .error (.trap Cause.prot va 0) := by
  obtain ⟨x, -, hr⟩ := reach_leaf (rd := rd) (wr := wr) h
  rw [placeAt_translated h, exec_bind_error]
  rw [hr, exec_bind_error (trapIf_error hf ..)]

theorem placeAt_invalid {e : TlbEntry} (h : s.translated va = some (.leaf e)) (hf : s.forbids e rd wr = false) (hi : e.invalid = true) :
    placeAt va n rd wr s = .error (.trap Cause.region va (BitVec.ofNat 32 e.regionIdx)) := by
  obtain ⟨x, -, hr⟩ := reach_leaf (rd := rd) (wr := wr) h
  rw [placeAt_translated h, exec_bind_error]
  rw [hr, exec_bind_ok (trapIf_ok hf ..), if_pos hi]
  rfl

/-- Any other page gives a place. -/
theorem placeAt_leaf {e : TlbEntry} (h : s.translated va = some (.leaf e)) (hf : s.forbids e rd wr = false) (hi : e.invalid = false) :
    ∃ (x : Xlat) (t : State), x.entry = e ∧ placeAt va n rd wr s = .ok (x.place va n, t) := by
  obtain ⟨x, he, hr⟩ := reach_leaf (rd := rd) (wr := wr) h
  rw [exec_bind_ok (trapIf_ok hf ..), hi, if_neg Bool.false_ne_true] at hr
  exact ⟨x, _, he, by rw [placeAt_translated h, exec_bind_ok hr]; rfl⟩
end

/-! The place of a scalar access, with the checks that stop it (R160). -/

/-- The place of a scalar access of `w` bytes at `ea`, checked, and the entry of a differentiable page there. -/
def scalarPlace (ea : Word) (w : Nat) (rd wr : Bool) : Exec (Place × Option TlbEntry) := do
  checkAlign ea w
  let p ← placeAt ea w rd wr
  let r ← scalarRegion p ea w
  return (p, r)

/-- What a scalar access does behind its checks starts from its place. -/
theorem bind_scalarPlace {α : Type} (ea : Word) (w : Nat) (rd wr : Bool) (k : Place → Option TlbEntry → Exec α) :
    (do checkAlign ea w; let p ← placeAt ea w rd wr; let r ← scalarRegion p ea w; k p r) =
      scalarPlace ea w rd wr >>= fun q => k q.1 q.2 := by
  simp [scalarPlace]

section
variable {ea : Word} {w : Nat} {rd wr : Bool} {s : State}

theorem checkAlign_ok (h : ea.toNat % w = 0) : checkAlign ea w s = .ok ((), s) := trapIf_ok (by simp [h]) _ _ _ _

theorem scalarPlace_error {e : Stop} (h : ea.toNat % w = 0) (hp : placeAt ea w rd wr s = .error e) :
    scalarPlace ea w rd wr s = .error e := by
  rw [scalarPlace, exec_bind_ok (checkAlign_ok h), exec_bind_error hp]

theorem elemCheck_eq (e : TlbEntry) (ea : Word) : elemCheck e ea = if elementRule e ea then pure () else trapRegion ea e := by
  have hrule : (e.home != 0 || decide (ea.toNat < e.origin) || (ea.toNat - e.origin) % e.elemWidth != 0) = !elementRule e ea := by
    simp only [elementRule, bne, Bool.not_and, ← decide_not, Nat.not_le]
  rw [elemCheck, hrule]
  cases elementRule e ea <;> rfl

/-- A valid region that the access does not take traps REGION (R153, R163). -/
theorem scalarRegion_refused {x : Xlat} {n : Nat} (h : scalarTakes ea w x.entry = false) :
    scalarRegion (x.place ea n) ea w s = .error (.trap Cause.region ea (BitVec.ofNat 32 x.entry.regionIdx)) := by
  simp only [scalarTakes, Bool.or_eq_false_iff] at h
  obtain ⟨hk, he⟩ := h
  simp only [scalarRegion, Xlat.place, Place.entry?, hk, Bool.false_eq_true, if_false]
  cases hd : x.entry.kind == 2 && x.entry.elemWidth == w with
  | false => rfl
  | true =>
    have hrule : elementRule x.entry ea = false := by simpa [hd] using he
    simp only [if_true, exec_bind, elemCheck_eq, hrule, Bool.false_eq_true, if_false]
    rfl

/-- The first check that fails decides the trap. -/
theorem scalarPlace_trap {k : BitVec 8} {aux : BitVec 32} (h : s.accessFails ea w rd wr (scalarTakes ea w) = some (k, aux)) :
    scalarPlace ea w rd wr s = .error (.trap k ea aux) := by
  unfold State.accessFails at h
  split at h
  · next hal =>
    cases h
    rw [scalarPlace, checkAlign, exec_bind_error (trapIf_error hal ..)]
  next hal =>
  have hal : ea.toNat % w = 0 := by simpa using hal
  split at h
  · next hprot =>
    cases h
    refine scalarPlace_error hal ?_
    simp only [Bool.or_eq_true, Bool.and_eq_true, decide_eq_true_eq] at hprot
    rcases hprot with hbeyond | ⟨⟨hlo, hhi⟩, hu⟩
    · exact placeAt_beyond hbeyond
    · exact placeAt_sluiceCode hlo hhi hu
  split at h
  · next ht =>
    cases h
    exact scalarPlace_error hal (placeAt_untranslated ht (translateFor_translated ht))
  · next e ht =>
    split at h
    · next hf =>
      cases h
      exact scalarPlace_error hal (placeAt_forbidden ht hf)
    next hf =>
    have hf : s.forbids e rd wr = false := by simpa using hf
    split at h
    · next hr =>
      cases h
      cases hi : e.invalid with
      | true => exact scalarPlace_error hal (placeAt_invalid ht hf hi)
      | false =>
        have hno : scalarTakes ea w e = false := by simpa [hi] using hr
        obtain ⟨x, t, rfl, hp⟩ := placeAt_leaf (n := w) ht hf hi
        rw [scalarPlace, exec_bind_ok (checkAlign_ok hal), exec_bind_ok hp, exec_bind_error (scalarRegion_refused hno)]
    · cases h
  · cases h

theorem scalarPlace_absent (hal : ea.toNat % w = 0) (h : s.translated ea = some .absent) :
    scalarPlace ea w rd wr s = .error (.page ea) :=
  scalarPlace_error hal (placeAt_untranslated h (translateFor_translated h))
end

section
variable {ea : Word} {w : Nat} {s : State} {x : Xlat}

/-- An aligned access that goes to a page has its place there, where its region lets it move bytes and do nothing else (R163, R364, R365). -/
theorem scalarPlace_ok {mode : BitVec 2} {rd wr st : Bool} (hal : ea.toNat % w = 0) (hx : s.goesTo ea rd wr x = true)
    (hp : plainAccess x.entry ea w mode st = true) :
    ∃ r, scalarPlace ea w rd wr s = .ok ((x.place ea w, r), s.cached x) ∧
      (r = none ∨ r = some x.entry ∧ (st = true → mode ≠ 1 ∧ mode ≠ 2) ∧
        (st = false → (mode == 2) = true → decide (x.entry.cls ≤ 1) = false)) := by
  obtain ⟨r, hr, hcase⟩ := scalarRegion_plain hp x rfl (s.cached x) ea w
  exact ⟨r, by rw [scalarPlace, exec_bind_ok (checkAlign_ok hal), exec_bind_ok (placeAt_ok hx), exec_bind_ok hr]; rfl, hcase⟩
end

/-! Loads (R161, R162). -/

/-- What a scalar load does at its checked place, in a differentiable page of entry `r` perhaps. -/
def loadAt (i : Instr) (a : Reg) (mm : MemMode) (ea : Word) (p : Place) (r : Option TlbEntry) : Exec Unit := do
  match r, (← getCpu).dmode == 2 with
  | some e, true =>
    if decide (e.cls ≤ 1) then reverseLoad e a ea else scalarLoad.plainLoad a mm p ea
  | _, _ => scalarLoad.plainLoad a mm p ea
  done i

/-- A load is its guard, its operands, its place and what it does there. -/
theorem scalarLoad_eq {i : Instr} {c : Chain} {a b : Reg} {off ea : Word} {mm : MemMode} {w : Nat} {s : State}
    (hg : guardOn c s.cpu.p = true) (hu : s.usable [.wr a, .rd b] [] = true) (hea : s.source b + off = ea) :
    scalarLoad i c a b off mm w s =
      finish i s ((scalarPlace ea w true false >>= fun q => loadAt i a mm ea q.1 q.2) (s.popped b)) := by
  subst hea
  have hread := readG_ok (flume_ne_nil_of_usable hu (by simp)) (usable_rd hu (by simp : Use.rd b ∈ _))
  rw [scalarLoad, runChain, if_pos hg, exec_bind_ok (gate_ok (Or.inr rfl) (level_any _)), exec_bind_ok (checkUses_ok hu), exec_bind_ok hread]
  dsimp only
  rw [bind_scalarPlace]
  rfl

section
variable {i : Instr} {a : Reg} {mm : MemMode} {ea : Word} {p : Place} {r : Option TlbEntry} {s t : State}

/-- A load that nothing makes an adjoint one is a plain load (R365). -/
theorem loadAt_plain (hr : r = none ∨ ∃ e, r = some e ∧ ((s.cpu.dmode == 2) = true → decide (e.cls ≤ 1) = false))
    (h : scalarLoad.plainLoad a mm p ea s = .ok ((), t)) : loadAt i a mm ea p r s = .ok ((), t.advance i.len) := by
  have hgo : (scalarLoad.plainLoad a mm p ea >>= fun _ => done i) s = .ok ((), t.advance i.len) := exec_bind_ok h
  rw [loadAt, exec_bind_ok (getCpu_ok s)]
  rcases hr with rfl | ⟨e, rfl, he⟩
  · exact hgo
  cases hm : s.cpu.dmode == 2 with
  | true =>
    dsimp only
    rw [he hm, if_neg Bool.false_ne_true]
    exact hgo
  | false => exact hgo

/-- A plain load writes the bytes of its place to the register, and changes nothing else but caches. -/
theorem plainLoad_ok (hk : ∀ x, p.src = .page x → p.key = x.key) (hf : s.rangesFree [p] false = true) (hv : s.volatileFree mm = true)
    (hr : s.readable p mm = true) :
    ∃ t, scalarLoad.plainLoad a mm p ea s = .ok ((), t) ∧
      ((s.written a (BitVec.ofNat 64 (leNat (s.bytesAt p)))).acquired mm).onlyCaches t := by
  obtain ⟨t1, hread, hc1⟩ := readPlace_ok hr hk
  obtain ⟨t2, hacq, hc2⟩ := acquireMode_ok mm (t1.written a (BitVec.ofNat 64 (leNat (s.bytesAt p))))
  obtain ⟨t3, htouch, hc3⟩ := touchStreams_ok ea t2
  refine ⟨t3, ?_, onlyCaches_trans (onlyCaches_acquired (onlyCaches_written hc1 a _) mm) (onlyCaches_trans hc2 hc3)⟩
  have hreads : readPlaces mm [p] s = .ok (s.bytesAt p, t1) := by
    simp only [readPlaces, exec_bind, hread, exec_pure, List.append_nil]
  rw [scalarLoad.plainLoad, exec_bind_ok (scoreCheck_ok hf), exec_bind_ok (volatileWait_ok _ hv), exec_bind_ok hreads,
    exec_bind_ok (writeG_ok ..), exec_bind_ok hacq, htouch]
end

/-! Stores (R161, R162). -/

/-- What a scalar store of `x` does at its checked place, in a differentiable page of entry `r` perhaps. -/
def storeAt (i : Instr) (a : Reg) (mm : MemMode) (w : Nat) (x ea : Word) (p : Place) (r : Option TlbEntry) : Exec Unit := do
  scoreCheck [p] true
  releaseMode mm p.hostVa
  let t ← getCpu
  match r with
  | some e =>
    if t.dmode == 1 then recordStore e p ea w (leBytes w x.toNat) mm
    else if t.dmode == 2 then reverseStore e p a ea w x mm
    else writePlaces mm [p] (leBytes w x.toNat)
  | none => writePlaces mm [p] (leBytes w x.toNat)
  touchStreams ea
  done i

/-- A store's second field has an entry to pop behind what the first has popped (R64). -/
theorem flume_ne_nil_of_usable2 {a b : Reg} {s : State} (h : s.usable [.rd a, .rd b] [] = true) (hb : b = 126) :
    (s.popped a).cpu.flume ≠ [] := by
  subst hb
  have hpops := usable_pops h
  by_cases ha : a = 126
  · subst ha
    have h2 : 2 ≤ s.cpu.flume.length := hpops
    have htail : (s.popped 126).cpu.flume = s.cpu.flume.tail := rfl
    rw [htail, ← List.length_pos_iff, List.length_tail]
    omega
  · rw [popped_of_ne s ha]
    exact flume_ne_nil_of_usable h (by simp) rfl

/-- A store is its guard, its operands, its place and what it does there. -/
theorem scalarStore_eq {i : Instr} {c : Chain} {a b : Reg} {off ea : Word} {mm : MemMode} {w : Nat} {s : State}
    (hg : guardOn c s.cpu.p = true) (hu : s.usable [.rd a, .rd b] [] = true) (hea : (s.sources a b).2 + off = ea) :
    scalarStore i c a b off mm w s =
      finish i s ((scalarPlace ea w false true >>= fun q => storeAt i a mm w (s.sources a b).1 ea q.1 q.2) (s.popped2 a b)) := by
  subst hea
  have hread := readG2_ok (flume_ne_nil_of_usable hu (by simp)) (flume_ne_nil_of_usable2 hu)
    (usable_rd hu (by simp : Use.rd a ∈ _)) (usable_rd hu (by simp : Use.rd b ∈ _))
  rw [scalarStore, runChain, if_pos hg, exec_bind_ok (gate_ok (Or.inr rfl) (level_any _)), exec_bind_ok (checkUses_ok hu), exec_bind_ok hread]
  dsimp only
  rw [bind_scalarPlace]
  rfl

/-- A store that nothing records or reverses writes its bytes at its place (R364). -/
theorem storeAt_plain {i : Instr} {a : Reg} {mm : MemMode} {w : Nat} {x ea : Word} {p : Place} {r : Option TlbEntry} {s t u : State}
    (hr : r = none ∨ s.cpu.dmode ≠ 1 ∧ s.cpu.dmode ≠ 2) (hf : s.rangesFree [p] true = true) (hm : s.modeFree mm = true)
    (hw : writePlaces mm [p] (leBytes w x.toNat) s = .ok ((), t)) (ht : touchStreams ea t = .ok ((), u)) :
    storeAt i a mm w x ea p r s = .ok ((), u.advance i.len) := by
  rw [storeAt, exec_bind_ok (scoreCheck_ok hf), exec_bind_ok (releaseMode_ok _ hm), exec_bind_ok (getCpu_ok s)]
  cases r with
  | none =>
    dsimp only
    rw [exec_bind_ok hw, exec_bind_ok ht]; rfl
  | some e =>
    obtain ⟨h1, h2⟩ := hr.resolve_left (Option.some_ne_none e)
    dsimp only
    rw [if_neg (by simpa using h1), if_neg (by simpa using h2), exec_bind_ok hw, exec_bind_ok ht]; rfl

/-! A page that is not present (R148, R230). -/

/-- The gang of a thread that meets the page is to be spilled. What the search of the futures gives stays opaque: a check by evaluation would
run it. -/
theorem takePage_spills {s : State} (hr : s.cpu.isRill = false) (hs : s.cpu.isSluice = false) (va : Word) :
    (takePage s va).cpu = { s.cpu with state := .spilling, held := none, walks := [], asked := none, nomap := none } ∧
      ∃ why, .gangSpill s.cpu.gang why ∈ (takePage s va).events := by
  rw [takePage]
  generalize joinFuture s _ _ _ _ = joined
  obtain ⟨idx, u⟩ := joined
  rw [hr, hs]
  exact ⟨rfl, _, List.mem_append_right _ (List.mem_singleton.mpr rfl)⟩

theorem pageOutcome_spillsGang (i : Option Instr) (s : State) (va : Word) : s.spillsGang (pageOutcome i s va) := by
  intro hr hs hsup ht hh
  refine ⟨takePage s va, ?_, takePage_spills hr hs va⟩
  simp only [pageOutcome, withFutures, if_pos hsup, ht, hostLost_of_hostless hh, Bool.false_eq_true, if_false]

/-! Scalar accesses as a whole. -/

section
variable {i : Instr} {c : Chain} {a b : Reg} {off ea : Word} {mm : MemMode} {w : Nat} {s : State} {x : Xlat} {e : Stop}

/-- A load from a page writes the bytes at the home to its register (R22, R162). -/
theorem scalarLoad_page (hg : guardOn c s.cpu.p = true) (hu : s.usable [.wr a, .rd b] [] = true) (hea : s.source b + off = ea)
    (hal : ea.toNat % w = 0) (hx : (s.popped b).goesTo ea true false x = true)
    (hp : plainAccess x.entry ea w s.cpu.dmode false = true) (hf : s.rangesFree [x.place ea w] false = true)
    (hv : s.volatileFree mm = true) (hr : s.readable (x.place ea w) mm = true) :
    ∃ t, scalarLoad i c a b off mm w s = .next t ∧
      (((s.popped b).result i a (BitVec.ofNat 64 (leNat (s.bytesAt (x.place ea w))))).acquired mm).onlyCaches t := by
  obtain ⟨r, hplace, hcase⟩ := scalarPlace_ok hal hx hp
  obtain ⟨t, hload, hc⟩ := plainLoad_ok (p := x.place ea w) (a := a) (mm := mm) (ea := ea) (s := (s.popped b).cached x)
    (fun y hy => by cases hy; rfl) (by simpa using hf) (by simpa using hv) (by rwa [cached_readable_place, popped_readable])
  rw [cached_bytesAt, popped_bytesAt] at hc
  have hplain : r = none ∨ ∃ e, r = some e ∧ ((((s.popped b).cached x).cpu.dmode == 2) = true → decide (e.cls ≤ 1) = false) :=
    hcase.imp_right fun ⟨hr, _, hcls⟩ => ⟨_, hr, fun hm => hcls rfl (by simpa using hm)⟩
  refine ⟨t.advance i.len, ?_, ?_⟩
  · rw [scalarLoad_eq hg hu hea, exec_bind_ok hplace, loadAt_plain hplain hload]
    rfl
  · rw [State.result, acquired_advance]
    exact onlyCaches_advance (onlyCaches_trans (onlyCaches_acquired (onlyCaches_written (cached_onlyCaches _ x) a _) mm) hc) _

/-- A store to a page writes the bytes of its register at the home (R162). -/
theorem scalarStore_page (hg : guardOn c s.cpu.p = true) (hu : s.usable [.rd a, .rd b] [] = true) (hea : (s.sources a b).2 + off = ea)
    (hal : ea.toNat % w = 0) (hx : (s.popped2 a b).goesTo ea false true x = true)
    (hp : plainAccess x.entry ea w s.cpu.dmode true = true) (hf : s.rangesFree [x.place ea w] true = true)
    (hm : s.modeFree mm = true) (hs : s.storable x w = true) :
    ∃ t, scalarStore i c a b off mm w s = .next t ∧
      (((s.popped2 a b).stored x x.key (leBytes w (s.sources a b).1.toNat)).advance i.len).onlyCaches t := by
  obtain ⟨r, hplace, hcase⟩ := scalarPlace_ok hal hx hp
  have hstorable : ((s.popped2 a b).cached x).storable x (leBytes w (s.sources a b).1.toNat).length = true := by
    simpa [State.popped2] using hs
  obtain ⟨t, hwrite, hc⟩ := writePlace_page (va := ea) (mm := mm) hstorable
  rw [length_leBytes] at hwrite
  obtain ⟨u, htouch, hc'⟩ := touchStreams_ok ea t
  have hplain : r = none ∨ ((s.popped2 a b).cached x).cpu.dmode ≠ 1 ∧ ((s.popped2 a b).cached x).cpu.dmode ≠ 2 :=
    hcase.imp_right fun ⟨_, hmode, _⟩ => by simpa [State.popped2] using hmode rfl
  refine ⟨u.advance i.len, ?_, ?_⟩
  · rw [scalarStore_eq hg hu hea, exec_bind_ok hplace,
      storeAt_plain hplain (by simpa [State.popped2] using hf) (by simpa [State.popped2] using hm) hwrite htouch]
    rfl
  · exact onlyCaches_advance (onlyCaches_trans (onlyCaches_stored x x.key _ (cached_onlyCaches _ x)) (onlyCaches_trans hc hc')) _

/-- A load or store whose checks stop it has no effect but what stops it. -/
theorem scalarLoad_stop (hg : guardOn c s.cpu.p = true) (hu : s.usable [.wr a, .rd b] [] = true) (hea : s.source b + off = ea)
    (h : scalarPlace ea w true false (s.popped b) = .error e) : scalarLoad i c a b off mm w s = finish i s (.error e) := by
  rw [scalarLoad_eq hg hu hea, exec_bind_error h]

theorem scalarStore_stop (hg : guardOn c s.cpu.p = true) (hu : s.usable [.rd a, .rd b] [] = true) (hea : (s.sources a b).2 + off = ea)
    (h : scalarPlace ea w false true (s.popped2 a b) = .error e) : scalarStore i c a b off mm w s = finish i s (.error e) := by
  rw [scalarStore_eq hg hu hea, exec_bind_error h]
end

/-! The eight instructions. -/

/-- The scalar loads and their widths. -/
def loadForms : List ((Chain → Reg → Reg → Word → MemMode → Instr) × Nat) := [(.ldb, 1), (.ldh, 2), (.ldw, 4), (.ldd, 8)]

/-- The scalar stores and their widths. -/
def storeForms : List ((Chain → Reg → Reg → Word → MemMode → Instr) × Nat) := [(.stb, 1), (.sth, 2), (.stw, 4), (.std, 8)]

theorem exec_loadForm : ∀ e ∈ loadForms, ∀ c a b off mm s,
    exec (e.1 c a b off mm) s = scalarLoad (e.1 c a b off mm) c a b off mm e.2 s := by
  simp only [loadForms, List.forall_mem_cons]
  exact ⟨fun _ _ _ _ _ _ => rfl, fun _ _ _ _ _ _ => rfl, fun _ _ _ _ _ _ => rfl, fun _ _ _ _ _ _ => rfl, by simp⟩

theorem exec_storeForm : ∀ e ∈ storeForms, ∀ c a b off mm s,
    exec (e.1 c a b off mm) s = scalarStore (e.1 c a b off mm) c a b off mm e.2 s := by
  simp only [storeForms, List.forall_mem_cons]
  exact ⟨fun _ _ _ _ _ _ => rfl, fun _ _ _ _ _ _ => rfl, fun _ _ _ _ _ _ => rfl, fun _ _ _ _ _ _ => rfl, by simp⟩

/-- Settles O8: a load or store is its checked place (`scalarPlace`) and what it does there; the checks of the place give the traps and the
spill, in their order, and the bytes move at the place of an access that passes them. -/
theorem scalarAccesses : Obligations.ScalarAccesses := by
  unfold Obligations.ScalarAccesses
  refine ⟨?load, ?store, ?loadStops, ?storeStops⟩
  case load =>
    intro e he c a b off mm s x i ea hg hu hal hx hp hf hv hr
    rw [exec_loadForm e he]
    exact scalarLoad_page hg hu rfl hal hx hp hf hv hr
  case store =>
    intro e he c a b off mm s x i ea hg hu hal hx hp hf hm hs
    rw [exec_storeForm e he]
    exact scalarStore_page hg hu rfl hal hx hp hf hm hs
  case loadStops =>
    intro e he c a b off mm s i ea hg hu
    rw [exec_loadForm e he]
    refine ⟨fun k aux h => scalarLoad_stop hg hu rfl (scalarPlace_trap h), fun hal h => ?_⟩
    rw [scalarLoad_stop hg hu rfl (scalarPlace_absent hal h)]
    exact pageOutcome_spillsGang _ s ea
  case storeStops =>
    intro e he c a b off mm s i ea hg hu
    rw [exec_storeForm e he]
    refine ⟨fun k aux h => scalarStore_stop hg hu rfl (scalarPlace_trap h), fun hal h => ?_⟩
    rw [scalarStore_stop hg hu rfl (scalarPlace_absent hal h)]
    exact pageOutcome_spillsGang _ s ea

end Sys2Proof.Machine
end
